-- ==== Sys2Proof/Word.lean ====
section
/-! DEFINITION. The word types of the SK4 and their plainest arithmetic (00 R7, register notation). -/

namespace Sys2Proof

abbrev Byte := BitVec 8
abbrev W16 := BitVec 16
/-- A register word: every register is 32 bits wide (18 R615). -/
abbrev W32 := BitVec 32
abbrev W64 := BitVec 64

/-- Ceiling division, written `ceil(a ÷ b)` in the manual. -/
def cdiv (a b : Nat) : Nat := (a + b - 1) / b

end Sys2Proof
end

