-- ==== Sys2Proof/Syntax.lean ====
section
/-! DEFINITION. The commands the block takes: one constructor per row of spec/opcode_table.json, with the row's
operands. What the device or the steward chooses, and what a sensor measures, comes with the command (log 13). -/

namespace Sys2Proof

/-- The fields of a Tiruf instruction word beside its opcode (07 Table 7.1). -/
structure TWord where
  sel : BitVec 8 := 0
  tke : Bool := false
  token : BitVec 4 := 0
  mod : BitVec 11 := 0
  a : W32 := 0
  b : W32 := 0
  c : W32 := 0
  deriving DecidableEq, Repr

/-- What another member of a data-parallel group brings to PUBLISH: its statistics records by (layer × 2 + ladder) and
the PEND bits of its headroom regions by (region base, entry) (05 R167, 04 R129). -/
structure PeerStats where
  stats : List (Nat × List Byte) := []
  pend : List (Nat × Nat) := []
  deriving DecidableEq, Repr

/-- What another member of the step group brings to CHECK (13 Table 13.4; 14 R510). -/
structure PeerCheck where
  /-- The step number of its CHECK (07 R264). -/
  step : Nat
  trip : Nat := 0
  mismatch : Bool := false
  deadline : Bool := false
  /-- The member's replica group found its roots different. -/
  digestBad : Bool := false
  /-- Rank in this module's REPLICA_GROUP and root, when it is a member of it. -/
  digest : Option (Nat × List Byte) := none
  /-- Delivered slots, when the member is at fanout position 0 of its trainer (10 R366); 0 when its replica dropped the
  step's micro-batch (14 R505). -/
  delivered : Option Nat := none
  /-- Module numbers of its replica. -/
  replica : List Nat := []
  deriving DecidableEq, Repr

/-- A Gysal packet (11 Table 11.8). -/
structure Packet where
  op : Nat := 0
  dup : Bool := false
  rsp : Bool := false
  isLocal : Bool := false
  tag : Nat := 0
  dst : Nat := 0
  src : Nat := 0
  status : Nat := 0
  birth : Nat := 0
  addr : Nat := 0
  arg : Nat := 0
  data : List Byte := []
  deriving DecidableEq, Repr

/-- Where a management command comes from: a PF1 command slot, an NSP client's request, or an
MGMT message of the fabric (18 R604, R613; 19 R628, R635). -/
inductive Path where
  | pf1 (slot : Nat)
  | nsp (src reqId : Nat)
  | fab (k : Packet)
  deriving DecidableEq, Repr

/-- A management command as its slot or datagrams hold it (18 Table 18.4). -/
structure Req where
  path : Path
  opcode : Nat := 0
  flags : Nat := 0
  len : Nat := 0
  tag : Nat := 0
  args : List Nat := []
  body : List Byte := []
  seq : Nat := 0
  deriving DecidableEq, Repr

/-- The part of a link header that every flit carries (11 Table 11.4). -/
structure LinkHdr where
  aseq : Nat := 0
  cfree : List Nat := [0, 0, 0, 0]
  deriving DecidableEq, Repr

/-- A received flit: its 256 bytes, and whether the FEC could correct it (11 R385, R387). -/
structure DataFlit where
  bytes : List Byte := []
  fecOk : Bool := true
  deriving DecidableEq, Repr

/-- A TRAIN exchange (11 R383). -/
structure TrainFlit where
  version : Nat := 0
  port : Nat := 0
  pos : Nat := 0
  bufs : List Nat := [0, 0, 0, 0]
  reset : Bool := false
  link : LinkHdr := {}
  deriving DecidableEq, Repr

/-- HELLO content (11 Table 11.11). -/
structure Hello where
  serial : Nat := 0
  num : Option Nat := none
  pos : Nat := 0xFF
  feed : Nat := 0xFF
  role : Nat := 0
  health : Nat := 0
  t : Nat := 0
  port : Nat := 0
  stepping : Nat := 0
  taken : Bool := false
  aligned : Bool := false
  deriving DecidableEq, Repr

/-- The four stamps of one offset exchange (16 R556). -/
structure Stamp4 where
  t1 : Nat := 0
  t2 : Nat := 0
  t3 : Nat := 0
  t4 : Nat := 0
  deriving DecidableEq, Repr

/-- Busy time of one stage of one cluster in the limiter's window, per mille, and whether it showed output wait (09 R321). -/
structure StageBusy where
  cluster : Nat
  stage : Nat
  busy : Nat
  out : Bool
  deriving DecidableEq, Repr

/-- A datagram to the service port's UDP port: the client's address and port as one number, and its bytes (18 R612). -/
structure NspDatagram where
  src : Nat := 0
  bytes : List Byte := []
  deriving DecidableEq, Repr

/-- An ICMPv6 message: its sender, its type, whether it names one of the port's addresses, and its data (18 R611). -/
structure Icmp where
  src : Nat := 0
  kind : Nat := 0
  mine : Bool := true
  data : List Byte := []
  deriving DecidableEq, Repr

/-- A PLDM request over MCTP: type (0 base, 2 platform monitoring and control), command, sensor (row of 18 Table 18.9), and
the reading of a numeric sensor at that moment (18 R614). -/
structure Pldm where
  ty : Nat := 0
  cmd : Nat := 0
  sensor : Nat := 0
  reading : Nat := 0
  deriving DecidableEq, Repr

/-- The interface of a register access: 0 PF1, 1 the fabric's space 0b01, 2 the service port or the steward; and the
request's size in bytes (18 R615, R619; 21 R683). -/
structure RegAccess where
  iface : Nat := 0
  len : Nat := 4
  deriving DecidableEq, Repr

/-- The hottest room junction, HBM stack and cold-plate outlet in °C; whether every sensor has stayed 2 °C below its throttle
threshold for 10 ms (20 R670, R671). -/
structure Sensors where
  room : Nat := 0
  hbm : Nat := 0
  plate : Nat := 0
  cool10 : Bool := false
  deriving DecidableEq, Repr

/-- A time-driven lifetime item as measured since the last write: item, index, amount (17 Table 17.11). -/
structure LifeSample where
  item : Nat
  idx : Nat := 0
  n : Nat
  deriving DecidableEq, Repr

/-- Outcome of a self-test stage (15 Table 15.1): whether it passed, and what failed: rooms (S3, S5), hub kernels (S5), decode
cores (S5), ports (S6); the rows that S5 found for repair: room, trellis, band, row; the HBM places that a quick S4 found bad. -/
structure StageOutcome where
  ok : Bool := true
  rooms : List Nat := []
  cores : List Nat := []
  ports : List Nat := []
  rows : List (Nat × Nat × Nat × Nat) := []
  hbm : List Nat := []
  deriving DecidableEq, Repr

/-- What the kernels of an in-field test gave (15 R520, R535). Of the built-in sets: the first failing kernel and its pack, with the
expected digest and the one it gave (equal when every kernel passed), and its two repeats on the room. Of any failing kernel: its run
on the other room; repeats and that run are 0 when they pass, 1 when they fail as the first run did, 2 when otherwise; the other
room; the row that every failing output traces to (trellis, band, row) and whether the rotation set passes with the band's spare in
its place (R523); the first difference as the signature record holds it. -/
structure TestOutcome where
  kid : Nat := 0
  pack : Nat := 0
  rep1 : Nat := 0
  rep2 : Nat := 0
  other : Nat := 0
  otherRoom : Nat := 0
  row : Option (Nat × Nat × Nat) := none
  rerun : Bool := true
  want : List Byte := []
  got : List Byte := []
  diff : Nat × List Byte × List Byte := (0, [], [])
  deriving DecidableEq, Repr

/-- One replay run of a disagreeing tile: its room, and its outputs against the written y (0), the first other room's (1),
or neither (2); for that other room, whether the wide recomputation repeats (15 R539). -/
structure ReplayOutcome where
  room : Nat := 0
  cmp : Nat := 0
  wideEq : Bool := true
  deriving DecidableEq, Repr

/-- Where memory holds an error (08 R305). -/
inductive EccPlace where
  | hbm (pa : Nat)
  | buttery (off : Nat)
  | pantry (room off : Nat)
  deriving DecidableEq, Repr

/-- What the scrub, or an access, finds: the place, the bits in error of its 32-byte HBM sector or 64-bit SRAM word; and for a place whose use the manual
does not lay out: the context of a collective that stages there, the press sample (context, sample) or the staged sample
(context, position) that lies there (08 Table 8.13). -/
structure ScrubFinding where
  place : EccPlace
  flips : List Nat := []
  coll : Option Nat := none
  sample : Option (Nat × Nat) := none
  staged : Option (Nat × Nat) := none
  deriving DecidableEq, Repr

/-- The commands, in the order of the opcode table; those without operands stand last (Lean compiles at most 244
constructors with fields). -/
inductive Instr where
  /-- NOP (R231) -/
  | tNop (r : Nat) (w : TWord)
  /-- END (R190) -/
  | tEnd (r : Nat) (w : TWord)
  /-- BR (R232) -/
  | tBr (r : Nat) (w : TWord)
  /-- WAIT (R189) -/
  | tWait (r : Nat) (w : TWord)
  /-- WAIT_RELEASE (R189) -/
  | waitRelease (r : Nat)
  /-- FENCE (R210) -/
  | tFence (r : Nat) (w : TWord)
  /-- FENCE_RELEASE (R210) -/
  | fenceRelease (r : Nat)
  /-- BARRIER (R211) -/
  | tBarrier (r : Nat) (w : TWord)
  /-- BARRIER_RELEASE (R211) -/
  | barrierRelease (c : Nat) (sl : Nat) (g : Nat)
  /-- SETS (R231) -/
  | tSets (r : Nat) (w : TWord)
  /-- ADDS (R231) -/
  | tAdds (r : Nat) (w : TWord)
  /-- LDS (R231) -/
  | tLds (r : Nat) (w : TWord)
  /-- STS (R231) -/
  | tSts (r : Nat) (w : TWord)
  /-- DPUT (R233) -/
  | tDput (r : Nat) (w : TWord)
  /-- TOKRD (R231) -/
  | tTokrd (r : Nat) (w : TWord)
  /-- MOV (R236) -/
  | tMov (r : Nat) (w : TWord)
  /-- MOVB (R236) -/
  | tMovb (r : Nat) (w : TWord)
  /-- TMUL (R207) -/
  | tTmul (r : Nat) (w : TWord)
  /-- TMUL_OPEN (R241) -/
  | tTmulOpen (r : Nat) (w : TWord)
  /-- TMUL_MORE (R242) -/
  | tTmulMore (r : Nat) (w : TWord)
  /-- TMUL_CLOSE (R242) -/
  | tTmulClose (r : Nat) (w : TWord)
  /-- TCONV (R96) -/
  | tTconv (r : Nat) (w : TWord)
  /-- TCONV_OPEN (R241) -/
  | tTconvOpen (r : Nat) (w : TWord)
  /-- TCONV_MORE (R242) -/
  | tTconvMore (r : Nat) (w : TWord)
  /-- TCONV_CLOSE (R242) -/
  | tTconvClose (r : Nat) (w : TWord)
  /-- SPMV (R244) -/
  | tSpmv (r : Nat) (w : TWord)
  /-- VADD (R245) -/
  | tVadd (r : Nat) (w : TWord)
  /-- VSUB (R245) -/
  | tVsub (r : Nat) (w : TWord)
  /-- VMUL (R245) -/
  | tVmul (r : Nat) (w : TWord)
  /-- VFMA (R245) -/
  | tVfma (r : Nat) (w : TWord)
  /-- VMAX (R245) -/
  | tVmax (r : Nat) (w : TWord)
  /-- VMIN (R245) -/
  | tVmin (r : Nat) (w : TWord)
  /-- VEXP2 (R245) -/
  | tVexp2 (r : Nat) (w : TWord)
  /-- VLOG2 (R246) -/
  | tVlog2 (r : Nat) (w : TWord)
  /-- VRCP (R246) -/
  | tVrcp (r : Nat) (w : TWord)
  /-- VRSQ (R246) -/
  | tVrsq (r : Nat) (w : TWord)
  /-- VSUM (R245) -/
  | tVsum (r : Nat) (w : TWord)
  /-- VLSE (R155) -/
  | tVlse (r : Nat) (w : TWord)
  /-- VLSEM (R155) -/
  | tVlsem (r : Nat) (w : TWord)
  /-- VSCL (R245) -/
  | tVscl (r : Nat) (w : TWord)
  /-- VADAM (R473) -/
  | tVadam (r : Nat) (w : TWord)
  /-- CVT (R122) -/
  | tCvt (r : Nat) (w : TWord)
  /-- HRCLR (R252) -/
  | tHrclr (r : Nat) (w : TWord)
  /-- FLGRC (R251) -/
  | tFlgrc (r : Nat) (w : TWord)
  /-- SOPEN (R254) -/
  | tSopen (r : Nat) (w : TWord)
  /-- DRAW (R372) -/
  | tDraw (r : Nat) (w : TWord)
  /-- REWIND (R253) -/
  | tRewind (r : Nat) (w : TWord)
  /-- SCLOSE (R371) -/
  | tSclose (r : Nat) (w : TWord)
  /-- STELL (R253) -/
  | tStell (r : Nat) (w : TWord)
  /-- COLL (R429) -/
  | tColl (r : Nat) (w : TWord)
  /-- RACK (R363) -/
  | tRack (r : Nat) (w : TWord)
  /-- RESHARD (R446) -/
  | tReshard (r : Nat) (w : TWord)
  /-- PUBLISH (R260) -/
  | tPublish (r : Nat) (w : TWord)
  /-- PUBLISH_ACT (R167) -/
  | publishAct (c : Nat) (sl : Nat) (peers : List PeerStats)
  /-- LQUERY (R259) -/
  | tLquery (r : Nat) (w : TWord)
  /-- LSET (R261) -/
  | tLset (r : Nat) (w : TWord)
  /-- BUDGET (R261) -/
  | tBudget (r : Nat) (w : TWord)
  /-- CHECK (R262) -/
  | tCheck (r : Nat) (w : TWord)
  /-- CHECK_ACT (R466) -/
  | checkAct (c : Nat) (sl : Nat) (peers : List PeerCheck)
  /-- COMMIT (R262) -/
  | tCommit (r : Nat) (w : TWord)
  /-- COMMIT_ACT (R264) -/
  | commitAct (c : Nat) (sl : Nat) (steps : List Nat)
  /-- ADVANCE (R262) -/
  | tAdvance (r : Nat) (w : TWord)
  /-- ADVANCE_ACT (R480) -/
  | advanceAct (c : Nat) (sl : Nat) (steps : List Nat)
  /-- ABORT (R262) -/
  | tAbort (r : Nat) (w : TWord)
  /-- ABORT_ACT (R482) -/
  | abortAct (c : Nat) (sl : Nat) (steps : List Nat)
  /-- SWAP_ACK (R180) -/
  | swapAck (r : Nat)
  /-- TRIG (R265) -/
  | tTrig (r : Nat) (w : TWord)
  /-- MARK (R265) -/
  | tMark (r : Nat) (w : TWord)
  /-- SNAP (R575) -/
  | tSnap (r : Nat) (w : TWord)
  /-- CAPS (R219) -/
  | tCaps (r : Nat) (w : TWord)
  /-- SEGMENT_LOAD_DONE (R106) -/
  | segmentLoadDone (r : Nat) (t : Nat)
  /-- TILE_FIRST_DIGIT (R103) -/
  | tileFirstDigit (r : Nat) (t : Nat)
  /-- SIDEBOARD_TERMS_READY (R142) -/
  | sideboardTermsReady (r : Nat) (t : Nat)
  /-- TILE_LAST_WAVE (R209) -/
  | tileLastWave (r : Nat) (t : Nat)
  /-- SLOT_DRAIN_DONE (R104) -/
  | slotDrainDone (r : Nat) (t : Nat)
  /-- LANDING_CONVERT_DONE (R120) -/
  | landingConvertDone (r : Nat) (t : Nat)
  /-- TASTING_RECOMPUTE_DONE (R166) -/
  | tastingRecomputeDone (r : Nat)
  /-- INSTRUCTION_COMPLETE (R189) -/
  | instructionComplete (r : Nat) (uid : Nat)
  /-- MOVER_UNIT_DONE (R296) -/
  | moverUnitDone (r : Nat) (uid : Nat)
  /-- ROOM_LAUNCH_END (R190) -/
  | roomLaunchEnd (r : Nat)
  /-- LAUNCH_COMPLETE (R218) -/
  | launchComplete (c : Nat) (sl : Nat)
  /-- LAUNCH_FAULT_END (R191) -/
  | launchFaultEnd (c : Nat) (sl : Nat)
  /-- LAUNCH_SEQ_WRITE (R215) -/
  | launchSeqWrite (c : Nat) (sl : Nat) (seq : W64)
  /-- LAUNCH_HELD_SEQ (R216) -/
  | launchHeldSeq (c : Nat) (sl : Nat)
  /-- LAUNCH_RANGE_START (R217) -/
  | launchRangeStart (c : Nat) (sl : Nat)
  /-- PREEMPT_ROOM (R302) -/
  | preemptRoom (r : Nat)
  /-- RESTORE_ROOM (R302) -/
  | restoreRoom (c : Nat) (li : Nat) (r : Nat)
  /-- QUANTUM_EXPIRY (R203) -/
  | quantumExpiry (c : Nat)
  /-- SLICE_OUT (R204) -/
  | sliceOut (c : Nat)
  /-- SLICE_IN (R203) -/
  | sliceIn (c : Nat) (rooms : List Nat)
  /-- STEWARD_FAULT_RESOLVE (R292) -/
  | stewardFaultResolve (wid : Nat)
  /-- FAULT_FILL_DONE (R292) -/
  | faultFillDone (wid : Nat)
  /-- FAULT_TMO_EXPIRY (R293) -/
  | faultTmoExpiry (wid : Nat)
  /-- MOVER_RESUME (R299) -/
  | moverResume (r : Nat) (uid : Nat)
  /-- VINTNER_EVALUATE (R171) -/
  | vintnerEvaluate (c : Nat)
  /-- VINTNER_FIRMWARE_EVAL (R169) -/
  | vintnerFirmwareEval (c : Nat)
  /-- CTX_CREATE (R199) -/
  | ctxCreate (q : Req) (rooms : List Nat)
  /-- CTX_DESTROY (R606) -/
  | ctxDestroy (q : Req)
  /-- CTX_RESET (R660) -/
  | ctxReset (q : Req) (rooms : List Nat)
  /-- PRESS_OPEN (R322) -/
  | pressOpen (q : Req)
  /-- PRESS_CLOSE (R343) -/
  | pressClose (q : Req)
  /-- RACK_OPEN (R352) -/
  | rackOpen (q : Req)
  /-- RACK_CLOSE (R367) -/
  | rackClose (q : Req)
  /-- RESTORE (R501) -/
  | restore (q : Req)
  /-- RESHARD_ABANDON (R453) -/
  | reshardAbandon (q : Req)
  /-- FAULT_RING (R608) -/
  | faultRing (q : Req)
  /-- FAULT_ANSWER (R610) -/
  | faultAnswer (q : Req)
  /-- RETIRED_READ (R308) -/
  | retiredRead (q : Req)
  /-- GROUP_COUNTERS (R570) -/
  | groupCounters (q : Req)
  /-- STATE (R606) -/
  | state (q : Req)
  /-- LIFE_READ (R590) -/
  | lifeRead (q : Req)
  /-- SIG_EXPORT (R544) -/
  | sigExport (q : Req)
  /-- FW_COMMIT (R640) -/
  | fwCommit (q : Req)
  /-- FLOOR_RAISE (R643) -/
  | floorRaise (q : Req)
  /-- KEY_ROTATE (R631) -/
  | keyRotate (q : Req)
  /-- TEST_OVERRIDE (R528) -/
  | testOverride (q : Req)
  /-- TAKEOVER (R500) -/
  | takeover (q : Req)
  /-- RAS_DISABLE (R498) -/
  | rasDisable (q : Req)
  /-- SCAN_OUT (R587) -/
  | scanOut (q : Req)
  /-- DEBUG_UNLOCK (R577) -/
  | debugUnlock (q : Req)
  /-- LIFE_ERASE (R590) -/
  | lifeErase (q : Req)
  /-- FW_BEGIN (R636) -/
  | fwBegin (q : Req)
  /-- FW_PART (R637) -/
  | fwPart (q : Req)
  /-- FW_FETCH (R635) -/
  | fwFetch (q : Req)
  /-- FW_STATUS (R635) -/
  | fwStatus (q : Req)
  /-- FW_ABORT (R635) -/
  | fwAbort (q : Req)
  /-- ATTEST_QUOTE (R645) -/
  | attestQuote (q : Req)
  /-- ATTEST_KEY (R635) -/
  | attestKey (q : Req)
  /-- NSP_DATAGRAM (R613) -/
  | nspDatagram (d : NspDatagram)
  /-- NSP_REASSEMBLY_TIMEOUT (R613) -/
  | nspReassemblyTimeout (src : Nat) (reqId : Nat)
  /-- ICMPV6_MESSAGE (R611) -/
  | icmpv6Message (m : Icmp)
  /-- I3C_ENTDAA (R614) -/
  | i3cEntdaa (addr : Nat)
  /-- MCTP_SET_ENDPOINT_ID (R614) -/
  | mctpSetEndpointId (eid : Nat)
  /-- PLDM_REQUEST (R614) -/
  | pldmRequest (p : Pldm)
  /-- BAR2_ACCESS (R596) -/
  | bar2Access (off : Nat) (len : Nat) (data : Option (List Byte)) (ecc : Bool)
  /-- PCIE_CONFIG_REQUEST (R649) -/
  | pcieConfigRequest (pf : Nat) (off : Nat) (data : Option W32)
  /-- FLR_PF0 (R592) -/
  | flrPf0 (rooms : List (Nat × List Nat))
  /-- PTM_DIALOGUE (R562) -/
  | ptmDialogue (host : W64)
  /-- REGISTER_WRITE (R617) -/
  | registerWrite (acc : RegAccess) (off : Nat) (v : W32)
  /-- REGISTER_LOW_WORD_READ (R619) -/
  | registerLowWordRead (acc : RegAccess) (off : Nat)
  /-- MMU_INVALIDATE (R286) -/
  | mmuInvalidate (acc : RegAccess) (v : W32)
  /-- ROWMAP_WRITE (R113) -/
  | rowmapWrite (acc : RegAccess) (r : Nat) (t : Nat) (hi : Bool) (v : W32)
  /-- PORT_DISABLE (R417) -/
  | portDisable (p : Nat)
  /-- PORT_DISABLE_CLEAR (R383) -/
  | portDisableClear (p : Nat)
  /-- TRACE_TRIG (R581) -/
  | traceTrig (src : Nat)
  /-- TRACE_RECORD (R579) -/
  | traceRecord (island : Nat)
  /-- LIFETIME_WRITE_NOW (R588) -/
  | lifetimeWriteNow (programOk : Bool)
  /-- LIFETIME_TIMER (R589) -/
  | lifetimeTimer (programOk : Bool) (m : List LifeSample)
  /-- DRAIN_COMPLETE (R655) -/
  | drainComplete (programOk : Bool)
  /-- POWER_MEASURE (R666) -/
  | powerMeasure (watts : Nat) (energy : List Nat)
  /-- SUPPLY_DROOP (R548) -/
  | supplyDroop (r : Nat) (mv : Nat)
  /-- DROOP_HOLD (R668) -/
  | droopHold (r : Nat)
  /-- THROTTLE_TICK (R671) -/
  | throttleTick (m : Sensors)
  /-- THERMAL_CRITICAL (R672) -/
  | thermalCritical (m : Sensors)
  /-- THERMAL_TRIP (R673) -/
  | thermalTrip (m : Sensors)
  /-- SELFTEST_STAGE_DONE (R518) -/
  | selftestStageDone (o : StageOutcome)
  /-- RESHARD_RESUME (R451) -/
  | reshardResume (c : Nat)
  /-- RESHARD_ROUND (R446) -/
  | reshardRound (c : Nat)
  /-- PORT_SIGNAL_DETECT (R383) -/
  | portSignalDetect (p : Nat)
  /-- PORT_TRAINING_DONE (R383) -/
  | portTrainingDone (p : Nat)
  /-- PORT_FEC_LOCK (R383) -/
  | portFecLock (p : Nat)
  /-- PORT_LOSS_OF_LOCK (R383) -/
  | portLossOfLock (p : Nat)
  /-- PORT_LOSS_OF_SIGNAL (R383) -/
  | portLossOfSignal (p : Nat)
  /-- RETRAIN_TIMEOUT (R383) -/
  | retrainTimeout (p : Nat)
  /-- TRAIN_FLIT (R383) -/
  | trainFlit (p : Nat) (f : TrainFlit)
  /-- DATA_FLIT (R387) -/
  | dataFlit (p : Nat) (f : DataFlit)
  /-- NAK_FLIT (R388) -/
  | nakFlit (p : Nat) (l : LinkHdr)
  /-- IDLE_FLIT (R385) -/
  | idleFlit (p : Nat) (l : LinkHdr)
  /-- NAK_REPEAT_TIMEOUT (R387) -/
  | nakRepeatTimeout (p : Nat)
  /-- REPLAY_TIMEOUT (R388) -/
  | replayTimeout (p : Nat)
  /-- LINK_LOST_RESEND (R405) -/
  | linkLostResend (p : Nat)
  /-- READ (R403) -/
  | read (k : Packet) (ecc : Bool)
  /-- WRITE (R403) -/
  | write (k : Packet)
  /-- ATOMIC (R403) -/
  | atomic (k : Packet)
  /-- COLFRAG_READY (R426) -/
  | colfragReady (k : Packet)
  /-- COLFRAG_PAUSE (R436) -/
  | colfragPause (k : Packet)
  /-- COLFRAG_DATA (R427) -/
  | colfragData (k : Packet)
  /-- RACK_DATA (R359) -/
  | rackData (k : Packet)
  /-- RACK_CREDIT (R356) -/
  | rackCredit (k : Packet)
  /-- RACK_DROPPED (R360) -/
  | rackDropped (k : Packet)
  /-- ECHO (R406) -/
  | echo (k : Packet)
  /-- TIMING_ECHO (R556) -/
  | timingEcho (k : Packet) (t2 : W64)
  /-- RESPONSE (R407) -/
  | response (k : Packet)
  /-- REQUEST_TIMER_EXPIRY (R406) -/
  | requestTimerExpiry (tag : Nat)
  /-- VL0_FORWARD (R399) -/
  | vl0Forward (p : Nat) (k : Packet)
  /-- HELLO (R411) -/
  | hello (p : Nat) (h : Hello) (t : W64)
  /-- HELLO_SEND (R411) -/
  | helloSend (p : Nat)
  /-- NEIGHBOUR_LOST (R411) -/
  | neighbourLost (p : Nat)
  /-- PARTNER_LOST (R414) -/
  | partnerLost (n : Nat)
  /-- ASSIGN (R412) -/
  | assign (k : Packet)
  /-- ROUTE (R398) -/
  | route (k : Packet)
  /-- ANNOUNCE (R413) -/
  | announce (k : Packet)
  /-- WITHDRAW (R414) -/
  | withdraw (k : Packet)
  /-- QUERY (R412) -/
  | query (k : Packet)
  /-- SNAP_OFFER (R499) -/
  | snapOffer (k : Packet)
  /-- SNAP_SEAL (R495) -/
  | snapSeal (k : Packet)
  /-- SNAP_LOCATE (R499) -/
  | snapLocate (k : Packet)
  /-- SUSPECT (R499) -/
  | suspect (k : Packet)
  /-- TAKEOVER_DONE (R501) -/
  | takeoverDone (k : Packet)
  /-- REPLICA_DROP (R505) -/
  | replicaDrop (k : Packet)
  /-- STOP_FLIT (R408) -/
  | stopFlit (p : Nat) (f : DataFlit)
  /-- TB_ROOT_LOAD (R551) -/
  | tbRootLoad (elapsed : Nat)
  /-- ISLAND_WAKE (R553) -/
  | islandWake (island : Nat)
  /-- TB_ALIGN (R558) -/
  | tbAlign (stamps : List Stamp4)
  /-- TB_MEASURE (R559) -/
  | tbMeasure (stamps : List Stamp4)
  /-- PRESS_ADMIT (R356) -/
  | pressAdmit (c : Nat) (cl : Nat)
  /-- PRESS_FETCH_CHUNK (R315) -/
  | pressFetchChunk (c : Nat) (id : Nat) (ok : Bool)
  /-- DEMUX_PARSE (R315) -/
  | demuxParse (c : Nat) (id : Nat) (core : Nat)
  /-- DPB_RESERVE (R318) -/
  | dpbReserve (wing : Nat)
  /-- VIDEO_DECODE_AU (R331) -/
  | videoDecodeAu (c : Nat) (id : Nat) (core : Nat)
  /-- AUDIO_DECODE (R335) -/
  | audioDecode (c : Nat) (id : Nat)
  /-- CAPTION_EXTRACT (R336) -/
  | captionExtract (c : Nat) (id : Nat)
  /-- TENSORIZE_FRAME (R332) -/
  | tensorizeFrame (c : Nat) (id : Nat)
  /-- ASSEMBLE_SAMPLE (R337) -/
  | assembleSample (c : Nat) (id : Nat)
  /-- PRESS_LIMITER_WINDOW (R321) -/
  | pressLimiterWindow (m : List StageBusy)
  /-- RACK_SEND (R358) -/
  | rackSend (c : Nat) (g : W64)
  /-- RACK_SLOT_COPY (R363) -/
  | rackSlotCopy (r : Nat) (uid : Nat)
  /-- RACK_DEADLINE_EXPIRY (R364) -/
  | rackDeadlineExpiry (r : Nat) (uid : Nat)
  /-- DIGEST_DONE (R510) -/
  | digestDone (c : Nat)
  /-- RISK_TICK (R496) -/
  | riskTick (rise : Nat)
  /-- SNAPSHOT_START (R490) -/
  | snapshotStart (c : Nat) (risk : Bool)
  /-- SNAPSHOT_READS_DONE (R490) -/
  | snapshotReadsDone (c : Nat)
  /-- COLLATOR_WINDOW_CLOSE (R515) -/
  | collatorWindowClose (suspect : Nat) (cls : Nat)
  /-- COLLATOR_DEFERRED_SEND (R516) -/
  | collatorDeferredSend (suspect : Nat) (cls : Nat)
  /-- COLLATOR_ENTRY_EXPIRY (R515) -/
  | collatorEntryExpiry (suspect : Nat) (cls : Nat)
  /-- SPARE_IDLE_TEST (R530) -/
  | spareIdleTest (r : Nat)
  /-- SPARE_HANDOFF (R531) -/
  | spareHandoff (r : Nat) (spare : Nat)
  /-- IFT_DEFER_EXPIRY (R532) -/
  | iftDeferExpiry (r : Nat)
  /-- IFT_TEST_DONE (R535) -/
  | iftTestDone (r : Nat) (o : TestOutcome)
  /-- ALL_ROOMS_QUICK_TEST (R533) -/
  | allRoomsQuickTest (failed : List Nat)
  /-- TASTE_REPLAY_DONE (R539) -/
  | tasteReplayDone (n : Nat) (o : ReplayOutcome)
  /-- EVID_WAIT_EXPIRY (R540) -/
  | evidWaitExpiry (c : Nat)
  /-- SCRUB_PASS (R305) -/
  | scrubPass (f : ScrubFinding)
  /-- UNDEFINED_OPCODE (R223) -/
  | undefinedOpcode (r : Nat) (op : Byte) (w : TWord)
  /-- UNKNOWN_COMMAND (R606) -/
  | unknownCommand (q : Req)
  /-- UNKNOWN_MGMT_MESSAGE (R412) -/
  | unknownMgmtMessage (k : Packet)
  /-- RESERVED_FTYPE_FLIT (R385) -/
  | reservedFtypeFlit (p : Nat) (ftype : Nat) (l : LinkHdr)
  /-- DROOP_RECOVERY (R548) -/
  | droopRecovery (r : Nat)
  /-- DEEP_IDLE_GATE (R682) -/
  | deepIdleGate (r : Nat)
  /-- MSIX_TABLE_WRITE (R603) -/
  | msixTableWrite (pf : Nat) (vec : Nat) (masked : Bool)
  /-- BME_SET (R594) -/
  | bmeSet
  /-- FLR_PF1 (R592) -/
  | flrPf1
  /-- MMU_INVAL_DONE (R287) -/
  | mmuInvalDone
  /-- COUNTER_FREEZE (R571) -/
  | counterFreeze
  /-- COUNTER_SAMPLE (R573) -/
  | counterSample
  /-- TRACE_ARM (R580) -/
  | traceArm
  /-- TRACE_DISARM (R580) -/
  | traceDisarm
  /-- STOP_WRITE (R583) -/
  | stopWrite
  /-- PWR_RESET_WARM (R657) -/
  | pwrResetWarm
  /-- PWR_RESET_COLD (R657) -/
  | pwrResetCold
  /-- DRAIN_SET (R654) -/
  | drainSet
  /-- DRAIN_CLEAR (R654) -/
  | drainClear
  /-- INPUT_VALID (R647) -/
  | inputValid
  /-- RAIL_GOOD (R648) -/
  | railGood
  /-- RAIL_TIMEOUT (R648) -/
  | railTimeout
  /-- INPUT_UNDERVOLT (R647) -/
  | inputUndervolt
  /-- INPUT_LOSS (R674) -/
  | inputLoss
  /-- INPUT_OVERVOLT (R647) -/
  | inputOvervolt
  /-- EXCURSION_LIMIT (R668) -/
  | excursionLimit
  /-- PERST_FALL (R657) -/
  | perstFall
  /-- WATCHDOG_EXPIRY (R658) -/
  | watchdogExpiry
  /-- FW_COPY (R641) -/
  | fwCopy
  /-- BOOT_COMPLETE (R651) -/
  | bootComplete
  /-- JOIN_SEND (R412) -/
  | joinSend
  /-- STOP_PIN_FALL (R695) -/
  | stopPinFall
  /-- STOP_DRIVE_RELEASE (R695) -/
  | stopDriveRelease
  /-- IFT_ROTATION_TIMER (R529) -/
  | iftRotationTimer
  /-- PERST_DEASSERT (R649) -/
  | perstDeassert
  /-- UNDERVOLT_CLEAR (R669) -/
  | undervoltClear
  deriving DecidableEq, Repr

end Sys2Proof
end

