-- ==== Sys2Proof/Decode.lean ====
section
/-! DEFINITION. Tiruf instruction words (07 Tables 7.1, 7.2): the command a word stands for, and the word of a command.
spec/opcode_table.json gives no row any bits, so the table-word decoder answers none. -/

namespace Sys2Proof

/-- The 128-bit word of an opcode and its fields (07 Table 7.1). -/
def TWord.encode (op : Byte) (w : TWord) : BitVec 128 :=
  op ++ w.sel ++ BitVec.ofBool w.tke ++ w.token ++ w.mod ++ w.a ++ w.b ++ w.c

/-- The opcode of a word, bits [127:120]. -/
def wordOp (x : BitVec 128) : Byte := x.extractLsb' 120 8

/-- The fields of a word. -/
def TWord.decode (x : BitVec 128) : TWord :=
  { sel := x.extractLsb' 112 8, tke := x.getLsbD 111, token := x.extractLsb' 107 4, mod := x.extractLsb' 96 11,
    a := x.extractLsb' 64 32, b := x.extractLsb' 32 32, c := x.extractLsb' 0 32 }

/-- Room, opcode and fields of a Tiruf instruction; none for the other commands (07 Table 7.2). -/
def Instr.tiruf : Instr → Option (Nat × Byte × TWord)
  | .tNop r w => some (r, 0x01#8, w)
  | .tEnd r w => some (r, 0x02#8, w)
  | .tBr r w => some (r, 0x03#8, w)
  | .tWait r w => some (r, 0x04#8, w)
  | .tFence r w => some (r, 0x05#8, w)
  | .tBarrier r w => some (r, 0x06#8, w)
  | .tSets r w => some (r, 0x07#8, w)
  | .tAdds r w => some (r, 0x08#8, w)
  | .tLds r w => some (r, 0x09#8, w)
  | .tSts r w => some (r, 0x0A#8, w)
  | .tDput r w => some (r, 0x0B#8, w)
  | .tTokrd r w => some (r, 0x0C#8, w)
  | .tMov r w => some (r, 0x10#8, w)
  | .tMovb r w => some (r, 0x11#8, w)
  | .tTmul r w => some (r, 0x20#8, w)
  | .tTmulOpen r w => some (r, 0x21#8, w)
  | .tTmulMore r w => some (r, 0x22#8, w)
  | .tTmulClose r w => some (r, 0x23#8, w)
  | .tTconv r w => some (r, 0x24#8, w)
  | .tTconvOpen r w => some (r, 0x25#8, w)
  | .tTconvMore r w => some (r, 0x26#8, w)
  | .tTconvClose r w => some (r, 0x27#8, w)
  | .tSpmv r w => some (r, 0x28#8, w)
  | .tVadd r w => some (r, 0x30#8, w)
  | .tVsub r w => some (r, 0x31#8, w)
  | .tVmul r w => some (r, 0x32#8, w)
  | .tVfma r w => some (r, 0x33#8, w)
  | .tVmax r w => some (r, 0x34#8, w)
  | .tVmin r w => some (r, 0x35#8, w)
  | .tVexp2 r w => some (r, 0x36#8, w)
  | .tVlog2 r w => some (r, 0x37#8, w)
  | .tVrcp r w => some (r, 0x38#8, w)
  | .tVrsq r w => some (r, 0x39#8, w)
  | .tVsum r w => some (r, 0x3A#8, w)
  | .tVlse r w => some (r, 0x3B#8, w)
  | .tVlsem r w => some (r, 0x3C#8, w)
  | .tVscl r w => some (r, 0x3D#8, w)
  | .tVadam r w => some (r, 0x3F#8, w)
  | .tCvt r w => some (r, 0x40#8, w)
  | .tHrclr r w => some (r, 0x41#8, w)
  | .tFlgrc r w => some (r, 0x42#8, w)
  | .tSopen r w => some (r, 0x50#8, w)
  | .tDraw r w => some (r, 0x51#8, w)
  | .tRewind r w => some (r, 0x52#8, w)
  | .tSclose r w => some (r, 0x53#8, w)
  | .tStell r w => some (r, 0x54#8, w)
  | .tColl r w => some (r, 0x60#8, w)
  | .tRack r w => some (r, 0x61#8, w)
  | .tReshard r w => some (r, 0x62#8, w)
  | .tPublish r w => some (r, 0x70#8, w)
  | .tLquery r w => some (r, 0x71#8, w)
  | .tLset r w => some (r, 0x72#8, w)
  | .tBudget r w => some (r, 0x73#8, w)
  | .tCheck r w => some (r, 0x80#8, w)
  | .tCommit r w => some (r, 0x81#8, w)
  | .tAdvance r w => some (r, 0x82#8, w)
  | .tAbort r w => some (r, 0x83#8, w)
  | .tTrig r w => some (r, 0x90#8, w)
  | .tMark r w => some (r, 0x91#8, w)
  | .tSnap r w => some (r, 0x92#8, w)
  | .tCaps r w => some (r, 0xF0#8, w)
  | .undefinedOpcode r op w => some (r, op, w)
  | _ => none

/-- The command for room r that an opcode and its fields stand for (07 R227: every other opcode is undefined). -/
def tirufInstr (r : Nat) (op : Byte) (w : TWord) : Instr :=
  match op.toNat with
  | 0x01 => .tNop r w
  | 0x02 => .tEnd r w
  | 0x03 => .tBr r w
  | 0x04 => .tWait r w
  | 0x05 => .tFence r w
  | 0x06 => .tBarrier r w
  | 0x07 => .tSets r w
  | 0x08 => .tAdds r w
  | 0x09 => .tLds r w
  | 0x0A => .tSts r w
  | 0x0B => .tDput r w
  | 0x0C => .tTokrd r w
  | 0x10 => .tMov r w
  | 0x11 => .tMovb r w
  | 0x20 => .tTmul r w
  | 0x21 => .tTmulOpen r w
  | 0x22 => .tTmulMore r w
  | 0x23 => .tTmulClose r w
  | 0x24 => .tTconv r w
  | 0x25 => .tTconvOpen r w
  | 0x26 => .tTconvMore r w
  | 0x27 => .tTconvClose r w
  | 0x28 => .tSpmv r w
  | 0x30 => .tVadd r w
  | 0x31 => .tVsub r w
  | 0x32 => .tVmul r w
  | 0x33 => .tVfma r w
  | 0x34 => .tVmax r w
  | 0x35 => .tVmin r w
  | 0x36 => .tVexp2 r w
  | 0x37 => .tVlog2 r w
  | 0x38 => .tVrcp r w
  | 0x39 => .tVrsq r w
  | 0x3A => .tVsum r w
  | 0x3B => .tVlse r w
  | 0x3C => .tVlsem r w
  | 0x3D => .tVscl r w
  | 0x3F => .tVadam r w
  | 0x40 => .tCvt r w
  | 0x41 => .tHrclr r w
  | 0x42 => .tFlgrc r w
  | 0x50 => .tSopen r w
  | 0x51 => .tDraw r w
  | 0x52 => .tRewind r w
  | 0x53 => .tSclose r w
  | 0x54 => .tStell r w
  | 0x60 => .tColl r w
  | 0x61 => .tRack r w
  | 0x62 => .tReshard r w
  | 0x70 => .tPublish r w
  | 0x71 => .tLquery r w
  | 0x72 => .tLset r w
  | 0x73 => .tBudget r w
  | 0x80 => .tCheck r w
  | 0x81 => .tCommit r w
  | 0x82 => .tAdvance r w
  | 0x83 => .tAbort r w
  | 0x90 => .tTrig r w
  | 0x91 => .tMark r w
  | 0x92 => .tSnap r w
  | 0xF0 => .tCaps r w
  | _ => .undefinedOpcode r op w

/-- An opcode of 07 Table 7.2. -/
def definedOp (op : Byte) : Bool :=
  match op.toNat with
  | 0x01 | 0x02 | 0x03 | 0x04 | 0x05 | 0x06 | 0x07 | 0x08 | 0x09 | 0x0A | 0x0B | 0x0C | 0x10 | 0x11
  | 0x20 | 0x21 | 0x22 | 0x23 | 0x24 | 0x25 | 0x26 | 0x27 | 0x28 | 0x30 | 0x31 | 0x32 | 0x33 | 0x34
  | 0x35 | 0x36 | 0x37 | 0x38 | 0x39 | 0x3A | 0x3B | 0x3C | 0x3D | 0x3F | 0x40 | 0x41 | 0x42 | 0x50
  | 0x51 | 0x52 | 0x53 | 0x54 | 0x60 | 0x61 | 0x62 | 0x70 | 0x71 | 0x72 | 0x73 | 0x80 | 0x81 | 0x82
  | 0x83 | 0x90 | 0x91 | 0x92 | 0xF0 => true
  | _ => false

/-- The word of a Tiruf instruction. -/
def encodeTiruf (i : Instr) : Option (BitVec 128) := i.tiruf.map fun (_, op, w) => w.encode op
/-- The Tiruf instruction that a word stands for in room r. -/
def decodeTiruf (r : Nat) (x : BitVec 128) : Instr := tirufInstr r (wordOp x) (TWord.decode x)

/-- The command that a table word spells: spec/opcode_table.json gives no row any bits. -/
def decodeTableWord (_nbits _w : Nat) : Option Instr := none

end Sys2Proof
end

