-- ==== Sys2Proof/Machine/Mem.lean ====
section
/-! DEFINITION. Memory as a sorted list of (address, byte) cells: addresses strictly rising and no cell holding 0, which
is what an unlisted address reads as (log 3). Multi-byte fields are little-endian (00 R7). -/

namespace Sys2Proof.Machine

abbrev Mem := List Host.Cell

/-- What an unlisted address reads as (log 3). -/
def Mem.blank : Byte := 0#8

def Mem.get (m : Mem) (a : Nat) : Byte :=
  match m with
  | [] => Mem.blank
  | (k, b) :: t => if k = a then b else Mem.get t a

/-- Insert, replace or (for the blank value) remove one cell, keeping the canonical form. -/
def Mem.set (m : Mem) (a : Nat) (b : Byte) : Mem :=
  match m with
  | [] => if b = Mem.blank then [] else [(a, b)]
  | (k, c) :: t =>
    if k < a then (k, c) :: Mem.set t a b
    else
      let rest := if k = a then t else (k, c) :: t
      if b = Mem.blank then rest else (a, b) :: rest

/-- The canonical form. -/
def Mem.wf : Mem → Bool
  | [] => true
  | [(_, b)] => b != Mem.blank
  | (k, b) :: (k', b') :: t => b != Mem.blank && decide (k < k') && Mem.wf ((k', b') :: t)

/-- Store bytes from address a upward. -/
def Mem.write (m : Mem) (a : Nat) : List Byte → Mem
  | [] => m
  | b :: t => Mem.write (m.set a b) (a + 1) t

def Mem.read (m : Mem) (a n : Nat) : List Byte := (List.range n).map fun i => m.get (a + i)

/-- Cells of addresses a to a + n − 1 become blank. -/
def Mem.erase (m : Mem) (a n : Nat) : Mem := m.filter fun c => c.1 < a || a + n ≤ c.1

/-- The n bytes of `src` from `sa` on, placed in `dst` from `da` on. -/
def Mem.copy (dst src : Mem) (sa da n : Nat) : Mem :=
  dst.filter (fun c => c.1 < da) ++ (src.filter fun c => sa ≤ c.1 && c.1 < sa + n).map (fun c => (c.1 - sa + da, c.2))
    ++ dst.filter (fun c => da + n ≤ c.1)

/-- The n little-endian bytes of a number. -/
def leBytes : Nat → Nat → List Byte
  | 0, _ => []
  | n + 1, v => BitVec.ofNat 8 v :: leBytes n (v / 256)

/-- The number of a list of little-endian bytes. -/
def leNum : List Byte → Nat
  | [] => 0
  | b :: t => b.toNat + 256 * leNum t

/-- Replace bytes of a list from an offset. -/
def patch (bs : List Byte) (off : Nat) (new : List Byte) : List Byte := bs.take off ++ new ++ bs.drop (off + new.length)
def patchLe (bs : List Byte) (off n v : Nat) : List Byte := patch bs off (leBytes n v)
def fieldLe (bs : List Byte) (off n : Nat) : Nat := leNum ((bs.drop off).take n)

def Mem.le (m : Mem) (a n : Nat) : Nat := leNum (m.read a n)
def Mem.setLe (m : Mem) (a n v : Nat) : Mem := m.write a (leBytes n v)
/-- A byte as a number, for readers of tensors. -/
def Mem.nat (m : Mem) (a : Nat) : Nat := (m.get a).toNat

/-! Finite maps with Nat keys, sorted -/

/-- Put (`some`) or remove (`none`) the entry of a key, keeping keys strictly rising. -/
def mapSet {α : Type} (l : List (Nat × α)) (k : Nat) (v : Option α) : List (Nat × α) :=
  match l with
  | [] => match v with
    | none => []
    | some x => [(k, x)]
  | (j, y) :: t =>
    if j < k then (j, y) :: mapSet t k v
    else
      let rest := if j = k then t else (j, y) :: t
      match v with
      | none => rest
      | some x => (k, x) :: rest

def mapGet {α : Type} (l : List (Nat × α)) (k : Nat) : Option α :=
  match l with
  | [] => none
  | (j, y) :: t => if j = k then some y else mapGet t k

/-- Bytes held by address in an engine's own buffer, where a byte of 0 is listed too. -/
def Mem.stage (m : Mem) (a : Nat) : List Byte → Mem
  | [] => m
  | b :: t => Mem.stage (mapSet m a (some b)) (a + 1) t

/-- Keys strictly rising. -/
def mapWf {α : Type} : List (Nat × α) → Bool
  | [] => true
  | [_] => true
  | (j, _) :: (k, y) :: t => decide (j < k) && mapWf ((k, y) :: t)

end Sys2Proof.Machine
end

