-- ==== Sys2Proof/Config.lean ====
section
/-! DEFINITION. What the manual leaves open: free values (opaque constants, no body) and the values an
implementation or an outside standard fixes. A field `free : Nat` of State supplies a fresh argument where one
operation may give different values at different times (log 6). -/

namespace Sys2Proof

/-! What the outside standards of 09 Tables 9.2 and 9.3 find in a clip's bytes (log 11) -/

/-- The bytes a press unit works from: the job record, the clip entry, the clip's first bytes where the sample starts at a random-access
picture beyond them, the source bytes from the sample's first chunk up to the unit, and the numbers of the chunks among them that could
not be read (09 R327, R331, R339). -/
structure PressIn where
  job : List Byte
  entry : List Byte
  head : List Byte
  bytes : List Byte
  lost : List Nat
  deriving DecidableEq, Repr, Inhabited

/-- A container as its first chunk shows it (09 Table 9.3): kind as CONTAINER of the clip entry, packet bytes and programs of a transport
stream, tracks of an ISO file, and whether an MXF file is OP1a with frame or clip wrapping. -/
structure ContHdr where
  kind : Nat
  packet : Nat
  programs : Nat
  videoTracks : Nat
  audioTracks : Nat
  op1a : Bool
  startCodes : Bool
  deriving DecidableEq, Repr, Inhabited

/-- A sequence header (09 Table 9.2, R313, R317, R332): codec 0 MPEG-2, 1 AVC, 2 HEVC, 3 AV1, any other none of them; profile by its place
in the codec's row; level in tenths, for MPEG-2 0 Low, 1 Main, 2 High 1440, 3 High; HEVC's High tier; an extension of the last column;
chroma 0 none, 1 4:2:0, 2 4:2:2, 3 4:4:4; the frame duration as a fraction of a second. -/
structure SeqHdr where
  codec : Nat
  profile : Nat
  level : Nat
  highTier : Bool
  extension : Bool
  width : Nat
  height : Nat
  maxDec : Nat
  bits : Nat
  chroma : Nat
  grain : Bool
  siting : Option Nat
  fullRange : Bool
  matrix : Option Nat
  transfer : Nat
  durNum : Nat
  durDen : Nat
  deriving DecidableEq, Repr, Inhabited

/-- An audio stream (09 Table 9.3): kind 0 Layer II, 1 AAC-LC, 2 HE-AAC v1, 3 HE-AAC v2, 4 AC-3, 5 E-AC-3, 6 linear PCM, any other none of
them; channels, sample rate in Hz and bits of linear PCM. -/
structure AudioHdr where
  kind : Nat
  channels : Nat
  rate : Nat
  bits : Nat
  deriving DecidableEq, Repr, Inhabited

/-- What one chunk brings the demultiplexer: the units it completes in their order, 0 an access unit, 1 an audio unit, 2 caption data;
the problems found in what the sample's span and lead-in touch (09 R339, Table 9.10); and that the sample needs no later chunk (09 R314,
R315). -/
structure DemuxOut where
  units : List Nat
  problems : List Nat
  last : Bool
  deriving DecidableEq, Repr, Inhabited

/-- A picture that an access unit releases in display order (09 R326, R328): it cannot be decoded from the random-access point, it
precedes that point in display order, it has two fields, it failed, or no later picture references it. -/
structure PicOut where
  undecodable : Bool
  leading : Bool
  interlaced : Bool
  failed : Bool
  unreferenced : Bool
  deriving DecidableEq, Repr, Inhabited

/-- What decoding one access unit releases, and the problem it met (09 Table 9.10). -/
structure DecodeOut where
  pics : List PicOut
  problem : Option Nat
  deriving DecidableEq, Repr, Inhabited

/-- One audio unit: a CRC or syntax error, and the 48 kHz samples it covers, counted from the start of the span. -/
structure AudioOut where
  bad : Bool
  first : Int
  count : Nat
  deriving DecidableEq, Repr, Inhabited

/-- A caption span (09 R336): displayed and erased, in 90 kHz ticks from output frame 0; its text, or its region's place and pixels. -/
structure CapSpan where
  start : Int
  stop : Int
  text : List Byte
  width : Nat
  height : Nat
  x : Nat
  y : Nat
  pixels : List Byte
  deriving DecidableEq, Repr, Inhabited

/-- The caption data of one picture or packet. -/
structure CapOut where
  bad : Bool
  spans : List CapSpan
  deriving DecidableEq, Repr, Inhabited

/-- The time stamp of a display frame: its 33 bits, and that a discontinuity is signalled before it (09 R327). -/
structure Stamp where
  ticks : Nat
  jump : Bool
  deriving DecidableEq, Repr, Inhabited

end Sys2Proof

namespace Sys2Proof.Config

/-- Any byte the manual leaves open. Log 6. -/
opaque freeByte : Nat → BitVec 8
/-- One free bit: old or new (06 R188). Log 7. -/
opaque freeBit : Nat → Bool
/-- A count of cycles, waits or other timing the model leaves out (log 10). -/
opaque timing : Nat → BitVec 64
/-- The bits of a binary32 NaN that no rule fixes: sign and payload (02 R41 fixes G16's only). Log 8. -/
opaque nanBits : BitVec 32
/-- FP32 results of the hearth functions that only a bound constrains (04 Table 4.8), as FP32 bit patterns by
operand. Log 8. -/
opaque exp2 : BitVec 32 → BitVec 32
opaque log2 : BitVec 32 → BitVec 32
opaque rcp : BitVec 32 → BitVec 32
opaque rsq : BitVec 32 → BitVec 32
/-- The lane-tree sum of a list of FP32 values (04 Table 4.8). Log 8. -/
opaque laneSum : List (BitVec 32) → BitVec 32
/-- The partial of one softmax chunk (04 R155), within the bound of Table 4.8. Log 8. -/
opaque lse : List (BitVec 32) → BitVec 32
/-- The V16 code of a NaN second moment, which no rule states, by the old code and the gradient (13 R475). Log 8. -/
opaque nanV16 : Nat → BitVec 32 → BitVec 16
/-- The floor of a measured error whose FP32 quotient is NaN, which no rule states (05 R165, R166). Log 8. -/
opaque nanError : BitVec 32
/-- The quotient of a division by zero that no rule states (13 R473 with n = 0). Log 8. -/
opaque divZero : BitVec 32 → BitVec 32
/-- The press's decoders (09 R314, R331), each a function of the bytes it works from. Log 11. The container; chunk n; the first sequence
header; access unit n. -/
opaque container : PressIn → ContHdr
/-- What chunk n brings the sample of an index. Log 11. -/
opaque demux : PressIn → Nat → Nat → DemuxOut
opaque seqHdr : PressIn → SeqHdr
opaque decodeAu : PressIn → Nat → DecodeOut
/-- A sample value of a picture: access unit, picture of it, 0 the frame or 1 or 2 a field, plane 0 Y, 1 Cb, 2 Cr, column and line. Log
11. -/
opaque picSample : PressIn → Nat → Nat → Nat → Nat → Nat → Nat → Nat
/-- The time stamp of a clip's display frame. Log 11. -/
opaque stamp : PressIn → Nat → Stamp
/-- The audio stream, its unit n for the sample of an index, and the 48 kHz sample of a channel after resampling and downmix, by its place
in the span of the sample of an index. Log 11. -/
opaque audioHdr : PressIn → AudioHdr
opaque audioUnit : PressIn → Nat → Nat → AudioOut
opaque pcm : PressIn → Nat → Nat → Nat → Rat
/-- The log-mel value of a bin, as a G16 code, of 1,200 samples of which some is not 0: with 128 bins or 80, the samples, the bin; 09 R335
bounds its error and names no mel scale. Log 11. -/
opaque logMel : Bool → List Rat → Nat → Nat
/-- Caption data n for the sample of an index. Log 11. -/
opaque captionUnit : PressIn → Nat → Nat → CapOut
/-- Which way a span's count of audio rows or samples, or a time in ticks, is taken when it is no whole number (09 R327, R335 give no
rounding); and the bytes that the PCM buffer keeps for a sample (09 Table 9.4 gives no width). Log 11. -/
opaque wholeUp : Rat → Bool
opaque pcmWidth : Nat
/-- Whether SLH-DSA accepts a signature: key, message, signature (19). Log 12. -/
opaque slhVerify : List (BitVec 8) → List (BitVec 8) → List (BitVec 8) → Bool
/-- The SLH-DSA signature of a message under a key (19). Log 12. -/
opaque slhSign : List (BitVec 8) → List (BitVec 8) → List (BitVec 8)

/-- The code of a trace trigger's source (17 Table 17.5 names no numbers). Log 21. -/
opaque trigCode : Nat → BitVec 8
/-- The action code of a steward trace record (17 Table 17.5 names no numbers). Log 21. -/
opaque actCode : Nat → BitVec 16
/-- The bytes of a lifetime-store slot's items (17 Table 17.11 gives no layout). Log 21. -/
opaque lifeBytes : List (Nat × Nat) → List (BitVec 8)
/-- The bound of a job's audio section at open, where no clip gives a frame duration yet (09 R324). Log 11. -/
opaque audioMax : List (BitVec 8) → Nat
/-- The protocol version of the TRAIN exchange (11 R383 gives no number). Log 21. -/
opaque fabricVersion : Nat
/-- A REPORT record's bytes by kind and content (11 Table 11.12 gives no layout): 0 port and state, 1 serial and health,
2 holdover, 3 takeover by another. Log 21. -/
opaque reportRec : Nat → Nat → Nat → List (BitVec 8)

/-- The boot ROM's bytes, the steward image that an active image's bytes hold, and the bytes of the security state that M3
takes, by floor, fuse steps, revoked slots and test override (19 Table 19.2 gives no layout). Log 21. -/
opaque bootRom : List (BitVec 8)
opaque stewardImage : List (BitVec 8) → List (BitVec 8)
opaque securityState : Nat → Nat → Nat → Bool → List (BitVec 8)
/-- The bytes that extend M3 for a debug unlock (0), a change of RAS_OFF (1), and a FLOOR_RAISE (2) (19 Table 19.2). Log 21. -/
opaque m3Event : Nat → Nat → Nat → List (BitVec 8)
/-- The SLH-DSA identity public key that ID_SEED generates (19 Table 19.1). Log 12. -/
opaque slhPublic : List (BitVec 8) → List (BitVec 8)

/-- The public key that a pattern pack carries (19 R624; 15 Table 15.7 gives it no place). Log 21. -/
opaque packKey : List (BitVec 8) → List (BitVec 8)
/-- The environment of a signature record: junction temperature in m°C (1), core supply in mV (2), stretch events of the last
second (3), by unit and draw (15 Table 15.9). Log 21. -/
opaque environment : Nat → Nat → Nat → Nat
/-- Scan-out: the number of chains of an island, their bits (17 R587), and the memory a range's address names: 0 HBM, 1
buttery, 2 pantry of a room; room; offset (19 Table 19.5 gives no numbering). Log 21. -/
opaque chainCount : Nat → Nat
opaque chainBits : Nat → Nat → Nat → List (BitVec 8)
opaque scanSpace : Nat → Nat × Nat × Nat

/-- UNIT of the mover record of a fabric request at a VIRT window (0) and of a launch's descriptor image (1), which 08 Table 8.11
does not list. Log 21. -/
opaque hubUnit : Nat → Nat
/-- The class of a SUSPECT that a module sends about itself at risk level 7 (14 R497 names none). Log 21. -/
opaque selfClass : Nat
/-- The root that the source of a re-fetch computes over its own bytes, by module, context and COMMITS (14 R513 names no message that
carries it). Log 34. -/
opaque sourceRoot : Nat → Nat → Nat → List (BitVec 8)
/-- Delivered slots of a replica's trainers in a step that the replica drops, by context and step, as its restored module knows them (14
R505; no restored state holds them). Log 34. -/
opaque replicaDelivered : Nat → Nat → Nat
/-- PCIe configuration space: the word of a function at an offset, and the offset of PF0's resizable-BAR control word (18 R591
gives no layout); a PLDM base answer by type and command (18 R614). Log 21. -/
opaque cfgWord : Nat → Nat → BitVec 32
opaque rebarOff : Nat
opaque pldmBase : Nat → Nat → Nat
/-- Where a member's arrival slot lies at the barrier root: the local part of its global address, by context, group index and rank (12
R428 gives no place). Log 41. -/
opaque arrivalSlot : Nat → Nat → Nat → Nat
/-- The parts of a save image whose contents 08 Table 8.12 names without a layout, by draw: 0 the fixed record, 1 open slots and spout
state. Log 28. -/
opaque saveBytes : Nat → Nat → List (BitVec 8)
/-- An accumulator that a row-map write has corrupted: its value, by draw, row and position (03 Table 3.10, the Caution).
Log 7. -/
opaque corrupt : Nat → Nat → Nat → Int

end Sys2Proof.Config
end

