-- ==== Sys2Proof/Machine/Num.lean ====
section
/-! DEFINITION. Exact numbers, the element and scale formats and their roundings (02 R26 to R64). -/

namespace Sys2Proof.Machine

/-! Exact rationals -/

/-- 2^k for any integer k. -/
def pow2 (k : Int) : Rat := if 0 ≤ k then ((2 ^ k.toNat : Nat) : Rat) else mkRat 1 (2 ^ (-k).toNat)

def ratAbs (q : Rat) : Rat := if q < 0 then -q else q

/-- floor(log2 |q|) for q ≠ 0. -/
def ratLog2 (q : Rat) : Int :=
  let a := ratAbs q
  let e : Int := (Nat.log2 a.num.natAbs : Int) - (Nat.log2 a.den : Int)
  if pow2 e ≤ a then e else e - 1

/-- Round to the nearest integer, ties to even (02 R54). -/
def rneInt (q : Rat) : Int :=
  let f := q.floor
  let r := q - (f : Rat)
  if r < mkRat 1 2 then f else if mkRat 1 2 < r then f + 1 else if f % 2 = 0 then f else f + 1

/-- A floating or code value: NaN, an infinity, or a sign and a magnitude. -/
inductive Fv where
  | nan
  | inf (neg : Bool)
  | fin (neg : Bool) (mag : Rat)
  deriving DecidableEq, Repr

namespace Fv

def ofRat (q : Rat) : Fv := .fin (decide (q < 0)) (ratAbs q)
/-- The number of a finite value; 0 for the others. -/
def toRat : Fv → Rat
  | .fin neg m => if neg then -m else m
  | _ => 0
def isFin : Fv → Bool
  | .fin _ _ => true
  | _ => false
def isNan : Fv → Bool
  | .nan => true
  | _ => false
def isZero : Fv → Bool
  | .fin _ m => m = 0
  | _ => false
def neg? : Fv → Bool
  | .nan => false
  | .inf n => n
  | .fin n _ => n
def mag : Fv → Rat
  | .fin _ m => m
  | _ => 0

end Fv

/-! Sticky flags as a 4-bit set: OVF 0, UNF 1, INX 2, INV 3 (02 Table 2.5) -/

abbrev Flags := BitVec 4
def fOVF : Flags := 1#4
def fUNF : Flags := 2#4
def fINX : Flags := 4#4
def fINV : Flags := 8#4
def flagIf (b : Bool) (f : Flags) : Flags := if b then f else 0#4

/-! Rounding on a grid (02 R54, R57) -/

/-- How a conversion rounds: to nearest even, or stochastically with 16 bits (02 R57). -/
inductive Rnd where
  | rne
  | sr (r16 : Nat)
  deriving DecidableEq, Repr

/-- Round a nonnegative exact quotient of grid units to an integer count of units. -/
def Rnd.units (r : Rnd) (u : Rat) : Nat :=
  match r with
  | .rne => (rneInt u).toNat
  | .sr r16 =>
    let lo := u.floor.toNat
    let frac := u - ((lo : Nat) : Rat)
    if frac = 0 then lo
    else if (frac * 65536).floor.toNat + r16 ≥ 65536 then lo + 1 else lo

/-- Round magnitude `a` onto the grid of a format with `mb` mantissa bits and least exponent `emin`. -/
def gridRound (mb : Nat) (emin : Int) (r : Rnd) (a : Rat) : Rat :=
  if a = 0 then 0 else
    let k := max (ratLog2 a) emin
    let ulp := pow2 (k - mb)
    ((r.units (a / ulp) : Nat) : Rat) * ulp

/-! IEEE-like formats: FP32 (23 mantissa bits), G16 (7), both bias 127 (02 R41) -/

def decIeee (mb : Nat) (c : Nat) : Fv :=
  let s := decide (c / 2 ^ (mb + 8) % 2 = 1)
  let e := c / 2 ^ mb % 256
  let m := c % 2 ^ mb
  if e = 255 then (if m = 0 then .inf s else .nan)
  else if e = 0 then .fin s (((m : Nat) : Rat) * pow2 (-126 - mb))
  else .fin s (((2 ^ mb + m : Nat) : Rat) * pow2 ((e : Int) - 127 - mb))

def decFp32 (c : W32) : Fv := decIeee 23 c.toNat
def decG16 (c : Nat) : Fv := decIeee 7 (c % 65536)

/-- The code of a representable magnitude. -/
def magCode (mb : Nat) (bias : Int) (a : Rat) : Nat :=
  if a = 0 then 0 else
    let k := ratLog2 a
    if k < 1 - bias then (a / pow2 (1 - bias - mb)).floor.toNat
    else (k + bias).toNat * 2 ^ mb + ((a / pow2 (k - mb)).floor.toNat - 2 ^ mb)

/-- The FP32 NaN the device writes: the manual fixes the pattern of G16's NaN only (02 R41), so sign and payload
are free (log 8). -/
def fp32NaN : W32 := 0x7FC00000#32 ||| Config.nanBits

/-- Encode into FP32 or unscaled G16 with one rounding (02 R54, R57, R60). -/
def encIeee (mb : Nat) (r : Rnd) (v : Fv) : Nat × Flags :=
  let sgn (b : Bool) : Nat := if b then 2 ^ (mb + 8) else 0
  match v with
  | .nan => (if mb = 7 then 0x7FC0 else fp32NaN.toNat, fINV)
  | .inf n => (sgn n + 255 * 2 ^ mb, 0)
  | .fin n a =>
    let g := gridRound mb (-126) r a
    if g ≥ pow2 128 then (sgn n + 255 * 2 ^ mb, fOVF ||| fINX)
    else
      let inx := decide (g ≠ a)
      (sgn n + magCode mb 127 g, flagIf inx fINX ||| flagIf (inx && decide (g < pow2 (-126))) fUNF)

def encFp32 (v : Fv) : W32 × Flags := let (c, f) := encIeee 23 .rne v; (BitVec.ofNat 32 c, f)

/-! Exact arithmetic on values; the result is rounded once by its user (02 R60, 07 R246) -/

def fvNeg : Fv → Fv
  | .nan => .nan
  | .inf n => .inf (!n)
  | .fin n a => .fin (!n) a

/-- IEEE sum. Opposite infinities give NaN; an exact zero sum is +0 unless both are negative. -/
def fvAdd (x y : Fv) : Fv :=
  match x, y with
  | .nan, _ => .nan
  | _, .nan => .nan
  | .inf a, .inf b => if a = b then .inf a else .nan
  | .inf a, _ => .inf a
  | _, .inf b => .inf b
  | .fin a p, .fin b q =>
    let s := (Fv.fin a p).toRat + (Fv.fin b q).toRat
    if s = 0 then .fin (a && b) 0 else .ofRat s

def fvMul (x y : Fv) : Fv :=
  match x, y with
  | .nan, _ => .nan
  | _, .nan => .nan
  | .inf a, .inf b => .inf (a != b)
  | .inf a, .fin b q => if q = 0 then .nan else .inf (a != b)
  | .fin a p, .inf b => if p = 0 then .nan else .inf (a != b)
  | .fin a p, .fin b q => .fin (a != b) (p * q)

/-- Exact order of two non-NaN values; +0 is larger than −0 (07 Table 7.8). -/
def fvLt (x y : Fv) : Bool :=
  match x, y with
  | .nan, _ => false
  | _, .nan => false
  | .inf a, .inf b => a && !b
  | .inf a, _ => a
  | _, .inf b => !b
  | .fin a p, .fin b q =>
    let u := (Fv.fin a p).toRat
    let v := (Fv.fin b q).toRat
    if u = 0 ∧ v = 0 then a && !b else decide (u < v)

/-- FP32 operations with one rounding each. -/
def addF (a b : W32) : W32 × Flags := encFp32 (fvAdd (decFp32 a) (decFp32 b))
def mulF (a b : W32) : W32 × Flags := encFp32 (fvMul (decFp32 a) (decFp32 b))

/-! SC8 and TS32 (02 R31 to R36) -/

/-- Exponent and mantissa fields of an SC8 code. -/
def sc8E (c : Nat) : Nat := c / 4 % 64
def sc8F (c : Nat) : Nat := c % 4
def sc8Valid (c : Nat) : Bool := decide (1 ≤ c ∧ c ≤ 0xFE)
/-- The value of a valid SC8 code. -/
def sc8Val (c : Nat) : Rat := ((4 + sc8F c : Nat) : Rat) * pow2 ((sc8E c : Int) - 34)

/-- The smallest valid SC8 code whose value is at least `x`; none when `x` exceeds code 0xFE (02 R32, R33). -/
def sc8Choose (x : Rat) : Option Nat :=
  if x > sc8Val 0xFE then none
  else if x ≤ sc8Val 1 then some 1
  else
    let k := ratLog2 x
    let f := ((x / pow2 k - 1) * 4).ceil.toNat
    some ((k + 32).toNat * 4 + f)

/-- A TS32 pattern of a valid tile: positive normal (02 R35). -/
def tsValid (c : W32) : Bool :=
  let e := c.toNat / 2 ^ 23
  decide (1 ≤ e ∧ e ≤ 254)
def tsVal (c : W32) : Rat := (decFp32 c).toRat

/-- The auto-mode tile scale from the largest finite magnitude (02 R36). -/
def tsAuto (m : Rat) : W32 :=
  if m = 0 then 0x3F800000#32
  else
    let k := max (-126) (min 127 (ratLog2 m))
    BitVec.ofNat 32 ((k + 127).toNat * 2 ^ 23)

/-! Element formats (02 Table 2.2, 06 Table 6.2) -/

abbrev fmtN2 : Nat := 0x01
abbrev fmtN4 : Nat := 0x02
abbrev fmtN4U : Nat := 0x03
abbrev fmtN8 : Nat := 0x04
abbrev fmtN8U : Nat := 0x05
abbrev fmtA16 : Nat := 0x06
abbrev fmtG8 : Nat := 0x10
abbrev fmtG12 : Nat := 0x11
abbrev fmtG16 : Nat := 0x12
abbrev fmtFP32 : Nat := 0x13
abbrev fmtM16 : Nat := 0x20
abbrev fmtV16 : Nat := 0x21
abbrev fmtLow : Nat := 0x22
abbrev fmtBytes : Nat := 0x30

/-- Every code of Table 6.2. -/
def fmtAll : List Nat :=
  [fmtN2, fmtN4, fmtN4U, fmtN8, fmtN8U, fmtA16, fmtG8, fmtG12, fmtG16, fmtFP32, fmtM16, fmtV16, fmtLow, fmtBytes]

/-- Bits per element (02 Table 2.2; 8 for bytes). -/
def fmtBits (f : Nat) : Nat :=
  if f = fmtN2 then 2 else if f = fmtN4 ∨ f = fmtN4U then 4
  else if f = fmtN8 ∨ f = fmtN8U ∨ f = fmtG8 ∨ f = fmtBytes then 8
  else if f = fmtG12 then 12 else if f = fmtFP32 then 32 else 16

def fmtUnsigned (f : Nat) : Bool := f = fmtN4U || f = fmtN8U
/-- N2, N4 and N8 in any sign. -/
def fmtIsN (f : Nat) : Bool := f = fmtN2 || f = fmtN4 || f = fmtN4U || f = fmtN8 || f = fmtN8U
def fmtIsG (f : Nat) : Bool := f = fmtG8 || f = fmtG12 || f = fmtG16

/-- The scaling target q (02 Table 2.2); 1 where none applies. -/
def fmtTarget (f : Nat) : Rat :=
  if f = fmtN2 then 1 else if f = fmtN4 then 7 else if f = fmtN8 then 127
  else if f = fmtA16 ∨ f = fmtM16 then 32767 else if f = fmtG8 then 30 else if f = fmtG12 then 508 else 1

/-- Two's complement value of the low n bits. -/
def sext (n : Nat) (c : Nat) : Int :=
  let r := c % 2 ^ n
  if 2 * r ≥ 2 ^ n then (r : Int) - 2 ^ n else r

/-- Booth digits of the streaming operand (02 Table 2.2). -/
def boothDigits (f : Nat) : Nat :=
  if f = fmtN2 then 1 else if f = fmtN4 ∨ f = fmtN4U then 2 else if f = fmtN8 ∨ f = fmtN8U then 4
  else if f = fmtG8 then 3 else 5

/-- Radix-4 Booth digit k of a two's-complement code (02 "Booth digits"). -/
def boothDigit (n : Nat) (c : Int) (k : Nat) : Int :=
  let bit (i : Nat) : Int :=
    let i' := min i (n - 1)
    (c / 2 ^ i') % 2
  bit (2 * k) - 2 * bit (2 * k + 1) + (if k = 0 then 0 else bit (2 * k - 1))

/-- Decode a small float code: sign, eb exponent bits, mb mantissa bits, all-ones is NaN (02 R39, R40). -/
def decSmall (eb mb : Nat) (bias : Int) (c : Nat) : Fv :=
  let s := decide (c / 2 ^ (eb + mb) % 2 = 1)
  let e := c / 2 ^ mb % 2 ^ eb
  let m := c % 2 ^ mb
  if e = 2 ^ eb - 1 ∧ m = 2 ^ mb - 1 then .nan
  else if e = 0 then .fin s (((m : Nat) : Rat) * pow2 (1 - bias - mb))
  else .fin s (((2 ^ mb + m : Nat) : Rat) * pow2 ((e : Int) - bias - mb))

/-- The value c of an element code as its format defines it (02 Table 2.2); unsigned codes before the zero point. -/
def decElem (f : Nat) (c : Nat) : Fv :=
  if f = fmtN2 then .ofRat (sext 2 c) else if f = fmtN4 then .ofRat (sext 4 c)
  else if f = fmtN4U then .ofRat ((c % 16 : Nat) : Rat)
  else if f = fmtN8 then .ofRat (sext 8 c) else if f = fmtN8U then .ofRat ((c % 256 : Nat) : Rat)
  else if f = fmtG8 then decSmall 3 4 3 c else if f = fmtG12 then decSmall 4 7 7 c
  else if f = fmtG16 then decG16 c else if f = fmtFP32 then decIeee 23 c
  else .ofRat (sext 16 c)

/-- Sign, mantissa and exponent pieces the lower staves use (02, The G-formats; 03 R70, R71): the signed
significand and max(e,1). -/
def sigExp (f : Nat) (c : Nat) : Int × Nat :=
  let (mb, eb) := if f = fmtG8 then (4, 3) else if f = fmtG12 then (7, 4) else (7, 8)
  let s := c / 2 ^ (mb + eb) % 2
  let e := c / 2 ^ mb % 2 ^ eb
  let m := c % 2 ^ mb
  let g : Int := if e = 0 then (m : Nat) else ((2 ^ mb + m : Nat) : Int)
  (if s = 1 then -g else g, max e 1)

/-- Encode one scaled element from its exact quotient; returns code and flags (02 R54, R57, R60). N-formats, A16 and
M16 clamp to the symmetric range. -/
def encScaled (f : Nat) (r : Rnd) (x : Fv) : Nat × Flags :=
  let n := x.neg?
  let a := x.mag
  if fmtIsG f then
    let (mb, eb, bias) : Nat × Nat × Int :=
      if f = fmtG8 then (4, 3, 3) else if f = fmtG12 then (7, 4, 7) else (7, 8, 127)
    let emin := 1 - bias
    let top : Rat := if f = fmtG8 then 30 else if f = fmtG12 then 508 else (255 : Rat) * pow2 120
    let g := gridRound mb emin r a
    let ovf := decide (g > top)
    let g' := if ovf then top else g
    let inx := decide (g' ≠ a)
    (magCode mb bias g' + (if n then 2 ^ (mb + eb) else 0),
      flagIf ovf fOVF ||| flagIf inx fINX ||| flagIf (inx && decide (g' < pow2 emin)) fUNF)
  else
    let q := (fmtTarget f).floor.toNat
    let u := r.units a
    let ovf := decide (u > q)
    let u' := if ovf then q else u
    let w := 2 ^ fmtBits f
    (if n then (w - u') % w else u',
      flagIf ovf fOVF ||| flagIf (decide (((u' : Nat) : Rat) ≠ a)) fINX)

/-- Encode one asymmetric code: u = clamp(RNE(x) + z, 0, 2^n − 1) (02 R43). -/
def encAsym (f : Nat) (z : Nat) (x : Rat) : Nat × Flags :=
  let top : Int := 2 ^ fmtBits f - 1
  let u := rneInt x + z
  let u' := max 0 (min top u)
  (u'.toNat, flagIf (decide (u ≠ u')) fOVF ||| flagIf (decide ((((u' - z : Int)) : Rat) ≠ x)) fINX)

/-! V16 (02 R47) -/

/-- The V16 code of a position in the log2 domain (given as an exact number), and its flags. A position above code 0xFFFF's
saturates, even by less than half a step (02 R47). -/
def encV16Log (x : Rat) : Nat × Flags :=
  let c := rneInt ((x + 128) * 256)
  if c ≤ 0 then (0, fUNF ||| fINX)
  else if (x + 128) * 256 > 0xFFFF then (0xFFFF, fOVF ||| fINX)
  else (c.toNat, flagIf (decide (((c : Int) : Rat) ≠ (x + 128) * 256)) fINX)

end Sys2Proof.Machine
end

