-- ==== Sys2Proof/Machine/Tensor.lean ====
section
/-! DEFINITION. Tensor descriptors (06 Table 6.1), element access, sideboard and channel values (04 R137 to R144).
A tensor's bytes are read through a function from pantry offset to byte value. -/

namespace Sys2Proof.Machine

/-- A latched tensor descriptor (06 Table 6.1, R194). -/
structure Desc where
  base : Nat
  sc8 : Nat
  ts32 : Nat
  zp8 : Nat
  status : Nat
  hdr : Nat
  sb : Nat
  chan : Nat
  dim0 : Nat
  dim1 : Nat
  dim2 : Nat
  dim3 : Nat
  str1 : Nat
  str2 : Nat
  str3 : Nat
  hrCount : Nat
  tsFixed : Nat
  fmt : Nat
  shape : Nat
  attr : Nat
  layer : Nat
  slot : Nat
  hrG : Nat
  sbK : Nat
  nchan : Nat
  deriving DecidableEq, Repr

/-- Little-endian number in n bytes from offset `a`. -/
def rdLe (rd : Nat → Nat) (a : Nat) : Nat → Nat
  | 0 => 0
  | n + 1 => rd a + 256 * rdLe rd (a + 1) n

/-- The descriptor at byte offset `a` of `rd` (06 Table 6.1; reserved fields are ignored, 00 R8). -/
def Desc.parse (rd : Nat → Nat) (a : Nat) : Desc :=
  let q (o : Nat) := rdLe rd (a + o) 8
  let l (o : Nat) := rdLe rd (a + o) 4
  let h (o : Nat) := rdLe rd (a + o) 2
  let b (o : Nat) := rd (a + o)
  { base := q 0, sc8 := q 8, ts32 := q 0x10, zp8 := q 0x18, status := q 0x20, hdr := q 0x28, sb := q 0x30, chan := q 0x38,
    dim0 := l 0x40, dim1 := l 0x44, dim2 := l 0x48, dim3 := l 0x4C,
    str1 := q 0x50, str2 := q 0x58, str3 := q 0x60,
    hrCount := l 0x68, tsFixed := l 0x6C, fmt := b 0x70, shape := b 0x71 % 64, attr := h 0x72 % 512, layer := h 0x74, slot := h 0x76 % 4096,
    hrG := b 0x78, sbK := b 0x79, nchan := b 0x7A }

namespace Desc

/-- ATTR bits (06 Table 6.1). -/
def attrBit (d : Desc) (n : Nat) : Bool := d.attr.testBit n
def grad (d : Desc) : Bool := d.attrBit 0
def sensitive (d : Desc) : Bool := d.attrBit 1
def weight (d : Desc) : Bool := d.attrBit 2
def residual (d : Desc) : Bool := d.attrBit 3
def scaledAttr (d : Desc) : Bool := d.attrBit 4
def steered (d : Desc) : Bool := d.attrBit 5
/-- 1: the backward ladder. -/
def ladder (d : Desc) : Nat := if d.attrBit 6 then 1 else 0
def global (d : Desc) : Bool := d.attrBit 7
def heldMajor (d : Desc) : Bool := d.attrBit 8

/-- Rows, counted flat over DIM1 to DIM3 (04 R127). -/
def rows (d : Desc) : Nat := d.dim1 * d.dim2 * d.dim3
def elems (d : Desc) : Nat := d.dim0 * d.rows
/-- Block size (06 Table 6.1, SHAPE[1:0]). -/
def bs (d : Desc) : Nat := 16 * 2 ^ (d.shape % 4)
/-- Blocks per tile (SHAPE[4:2]). -/
def bpt (d : Desc) : Nat := 2 ^ (d.shape / 4 % 8)
def tsAutoMode (d : Desc) : Bool := d.shape.testBit 5
/-- Blocks in a row, the last possibly partial (02 R27). -/
def nb (d : Desc) : Nat := cdiv d.dim0 d.bs
/-- Tiles in a row. -/
def tpr (d : Desc) : Nat := cdiv d.nb d.bpt
/-- The formats with block scales (06 R708). -/
def scaled (d : Desc) : Bool :=
  fmtIsN d.fmt || d.fmt = fmtA16 || d.fmt = fmtG8 || d.fmt = fmtG12 || d.fmt = fmtM16 || (d.fmt = fmtG16 && d.scaledAttr)
def asym (d : Desc) : Bool := fmtUnsigned d.fmt
def bits (d : Desc) : Nat := fmtBits d.fmt
/-- Bytes of element data in one row (02 R27): whole blocks when scaled. -/
def rowBytes (d : Desc) : Nat := if d.scaled then d.nb * d.bs * d.bits / 8 else cdiv (d.dim0 * d.bits) 8
/-- Byte offset of row r from BASE. -/
def rowOff (d : Desc) (r : Nat) : Nat :=
  (r % d.dim1) * d.str1 + (r / d.dim1 % d.dim2) * d.str2 + (r / (d.dim1 * d.dim2)) * d.str3
/-- A sideboard needs its array and a count; with SB_K > 0 and SB = 0 the array is absent (06 R195) and the tensor carries
none: the limits on a sideboard (04 R121) do not then apply. DESIGN CHOICE (log 14). -/
def hasSb (d : Desc) : Bool := d.sb ≠ 0 && 0 < d.sbK
def hasChan (d : Desc) : Bool := d.chan ≠ 0 && 0 < d.nchan
/-- Sideboard groups in a row (04 R138). -/
def groups (d : Desc) : Nat := cdiv d.dim0 128

end Desc

/-- A pantry offset of a virtual address in the own-pantry range (08 R281). -/
def pantOff (va : Nat) : Nat := va % 2 ^ 24

/-- n bits from bit position p of the bytes from address a. -/
def rdBits (rd : Nat → Nat) (a p n : Nat) : Nat := rdLe rd (a + p / 8) ((p % 8 + n + 7) / 8) / 2 ^ (p % 8) % 2 ^ n

/-- A tensor as an engine reads it: descriptor and bytes by pantry offset. -/
structure View where
  d : Desc
  rd : Nat → Nat
  /-- Address to reader offset. -/
  off : Nat → Nat := pantOff

namespace View

/-- The element code at row r, position i (02 R38). -/
def code (v : View) (r i : Nat) : Nat := rdBits v.rd (v.off v.d.base + v.d.rowOff r) (i * v.d.bits) v.d.bits
def blk (v : View) (r i : Nat) : Nat := r * v.d.nb + i / v.d.bs
/-- SC8 code of the block of element i; 0x80 (value 1.0) stands for an unscaled tensor and is never read. -/
def sc (v : View) (r i : Nat) : Nat := v.rd (v.off v.d.sc8 + v.blk r i)
def tile (v : View) (r i : Nat) : Nat := r * v.d.tpr + i / v.d.bs / v.d.bpt
/-- The TS32 of the tile of element i; 1.0 when unscaled (02 R30). -/
def ts (v : View) (r i : Nat) : W32 :=
  if v.d.scaled then BitVec.ofNat 32 (rdLe v.rd (v.off v.d.ts32 + 4 * v.tile r i) 4) else 0x3F800000#32
/-- The zero point, N4's in bits [3:0] (02 R44). -/
def zp (v : View) (r i : Nat) : Nat :=
  if v.d.asym then
    let z := v.rd (v.off v.d.zp8 + v.blk r i)
    if v.d.fmt = fmtN4U then z % 16 else z
  else 0
/-- Element i lies in an invalid tile (02 R35). -/
def badTile (v : View) (r i : Nat) : Bool := v.d.scaled && !tsValid (v.ts r i)
/-- Element i lies in a block that its SC8 code marks invalid (02 R31). -/
def badBlock (v : View) (r i : Nat) : Bool := v.d.scaled && v.sc r i = 0xFF
def invalid (v : View) (r i : Nat) : Bool := v.badTile r i || v.badBlock r i
def zero (v : View) (r i : Nat) : Bool := v.d.scaled && v.sc r i = 0

/-- (c − z) × S of an element, without the tile scale; NaN for an invalid block (02 R29, R51, R52). -/
def coded (v : View) (r i : Nat) : Fv :=
  if v.invalid r i then .nan
  else if v.zero r i then .fin false 0
  else
    let c := decElem v.d.fmt (v.code r i)
    if !v.d.scaled then c
    else match c with
      | .fin n a =>
        let x := (if n then -a else a) - ((v.zp r i : Nat) : Rat)
        let y := x * sc8Val (v.sc r i)
        if y = 0 then .fin n 0 else .ofRat y
      | o => o

/-- The outlier codes of row r: (element index, G16 code), in array order (04 R140). -/
def outliers (v : View) (r : Nat) : List (Nat × Nat) :=
  if v.d.hasSb then
    (List.range v.d.groups).flatMap fun g =>
      (List.range 4).filterMap fun j =>
        let w := rdLe v.rd (v.off v.d.sb + 16 * (r * v.d.groups + g) + 4 * j) 4
        if w.testBit 7 then some (128 * g + w % 128, w / 65536) else none
  else []

/-- The outlier-channel indices (04 R141). -/
def channels (v : View) : List Nat :=
  if v.d.hasChan then (List.range v.d.nchan).map fun j => rdLe v.rd (v.off v.d.chan + 2 * j) 2 else []

/-- The channel values of row r: (element index, G16 code); the array is channel by channel (log 14). -/
def chanVals (v : View) (r : Nat) : List (Nat × Nat) :=
  v.channels.zipIdx.map fun (i, j) => (i, rdLe v.rd (v.off v.d.chan + 128 + 2 * (j * v.d.rows + r)) 2)

/-- Every value carried beside the codes of row r. -/
def extras (v : View) (r : Nat) : List (Nat × Nat) := v.outliers r ++ v.chanVals r

/-- The exact value of an element, sideboard and channel values included (04 R123). -/
def exact (v : View) (r i : Nat) : Fv :=
  if !v.d.scaled then decElem v.d.fmt (v.code r i)
  else
    let t := Fv.ofRat (tsVal (v.ts r i))
    let c := fvMul (v.coded r i) t
    (v.extras r).foldl (fun acc (j, g) => if j = i then fvAdd acc (fvMul (decG16 g) t) else acc) c

end View

/-- The Table 7.16 fault codes. -/
inductive FaultCode where
  | opcode | format | descriptor | operand | slotOpen | translation | moverProgress | uncorrectable
  | remoteUnreachable | group | streamAlias | streamFull | streamClosed | vintageMismatch | phase
  | reshardPending | rackDeadline
  deriving DecidableEq, Repr

/-- 07 Table 7.16. -/
def FaultCode.code : FaultCode → Nat
  | .opcode => 1 | .format => 2 | .descriptor => 3 | .operand => 4 | .slotOpen => 5 | .translation => 6
  | .moverProgress => 7 | .uncorrectable => 8 | .remoteUnreachable => 9 | .group => 10 | .streamAlias => 11
  | .streamFull => 12 | .streamClosed => 13 | .vintageMismatch => 14 | .phase => 15 | .reshardPending => 16
  | .rackDeadline => 17

/-- The first fault of a list of checks, in order. -/
def firstFault : List (Bool × FaultCode) → Option FaultCode
  | [] => none
  | (b, f) :: t => if b then some f else firstFault t

namespace Desc

/-- Checks on every descriptor that an instruction names, in the order: address fields, extents and fields, then
formats (06 R195 to R197, R708; 02 R45, R56; 04 R136, R137). -/
def checks (d : Desc) : List (Bool × FaultCode) :=
  let addrs := [d.base, d.sc8, d.ts32, d.zp8, d.status, d.hdr, d.sb, d.chan]
  [
    (!d.global && addrs.any (fun a => a ≥ 2 ^ 48), .descriptor),
    (!fmtAll.contains d.fmt, .format),
    (d.dim0 = 0 || d.dim1 = 0 || d.dim2 = 0 || d.dim3 = 0, .descriptor),
    (d.shape / 4 % 8 = 7, .descriptor),
    (d.scaled && (d.sc8 = 0 || d.ts32 = 0), .descriptor),
    (d.sbK > 4 || d.nchan > 64, .descriptor),
    (d.hdr ≠ 0 && !([1, 16, 32, 64, 128].contains d.hrG), .descriptor),
    (d.hdr ≠ 0 && d.hrCount * d.hrG < d.rows, .descriptor),
    (d.scaled && d.dim1 > 1 && d.str1 < d.nb * d.bs * d.bits / 8, .descriptor),
    (d.asym && d.zp8 = 0, .format),
    (!d.asym && d.zp8 ≠ 0, .format),
    (d.weight && d.zp8 ≠ 0, .format),
    (d.grad && !fmtIsG d.fmt, .format),
    (d.slot = 0xFFF, .format),
    (d.sbK > 0 && !([fmtN2, fmtN4, fmtN4U, fmtN8, fmtN8U, fmtG8, fmtG12].contains d.fmt), .format)]

def check (d : Desc) : Option FaultCode := firstFault d.checks
/-- The check on a destination written in fixed TS32 mode (02 R36, 06 R708). -/
def checkDest (d : Desc) : Option FaultCode :=
  if d.scaled && !d.tsAutoMode && !tsValid (BitVec.ofNat 32 d.tsFixed) then some .descriptor else none

/-- The descriptor with those structures only that its tensor is copied with: the ones the source has, one sideboard entry and one
channel for each of the source's (07 R236; 06 R195). -/
def like (d s : Desc) : Desc :=
  let k (a b : Nat) : Nat := if b = 0 then 0 else a
  { d with sc8 := k d.sc8 s.sc8, ts32 := k d.ts32 s.ts32, zp8 := k d.zp8 s.zp8, status := k d.status s.status, sb := k d.sb s.sb
           chan := k d.chan s.chan, sbK := s.sbK, nchan := s.nchan }

/-- The descriptor of the element data alone. -/
def plain (d : Desc) : Desc := { d with sc8 := 0, ts32 := 0, zp8 := 0, status := 0, sb := 0, chan := 0 }

/-- VA range of the issuing room's own pantry, steward scratch excluded (08 Table 8.5). -/
def ownPantry (va : Nat) : Bool :=
  decide (0xFFFFFF000000 ≤ va ∧ va < 2 ^ 48) && !(decide (0xF00000 ≤ va % 2 ^ 24 ∧ va % 2 ^ 24 < 0xF7FF00))

/-- Every named structure lies in the room's own pantry (06 R206). -/
def inPantry (d : Desc) : Bool :=
  !d.global && ownPantry d.base
    && [d.sc8, d.ts32, d.zp8, d.status, d.sb, d.chan].all (fun a => a = 0 || ownPantry a)

/-- Address ranges (address, bytes) that the tensor's structures occupy. -/
def ranges (d : Desc) : List (Nat × Nat) :=
  let blocks := d.nb * d.rows
  (List.range d.rows).map (fun r => (d.base + d.rowOff r, d.rowBytes))
    ++ (if d.scaled then [(d.sc8, blocks), (d.ts32, 4 * d.tpr * d.rows)] else [])
    ++ (if d.zp8 ≠ 0 then [(d.zp8, blocks)] else [])
    ++ (if d.status ≠ 0 then [(d.status, cdiv blocks 4)] else [])
    ++ (if d.hasSb then [(d.sb, 16 * d.groups * d.rows)] else [])
    ++ (if d.hasChan then [(d.chan + 128, 2 * d.nchan * d.rows)] else [])

end Desc

end Sys2Proof.Machine
end

