-- ==== Sys2Proof/Machine/Conv.lean ====
section
/-! DEFINITION. The landing's conversion of a stretch of one destination row (04 R122 to R141, 02 R32 to R57), the
layer counts it makes (04 Table 4.6, 05 Table 5.3) and its conversion-error measurement (05 R165). -/

namespace Sys2Proof.Machine

/-- One output before conversion: its exact value (NaN for an invalid one) and its saturated mark. -/
structure El where
  v : Fv
  sat : Bool := false
  deriving DecidableEq, Repr

/-- What a conversion adds to a statistics record (04 Table 4.6, 05 Table 5.3), by byte offset in the record. -/
abbrev Counts := List (Nat × Nat)

/-- One measured element of a destination tile: tile ordinal, element index in the row, FP32 square of the error and
of the value (05 R165). -/
structure Meas where
  tile : Nat
  idx : Nat
  d2 : W32
  v2 : W32
  deriving DecidableEq, Repr

structure SegOut where
  mem : Mem
  flags : Flags
  counts : Counts
  meas : List Meas

/-- An element of an invalid block, which adds nothing to its tile's sums (05 R165). -/
def Meas.none (tile idx : Nat) : Meas := { tile := tile, idx := idx, d2 := 0, v2 := 0 }

/-- Pack codes of `bits` bits from bit 0 upward (02 R38). -/
def packCodes (bits : Nat) (cs : List Nat) : Nat :=
  match cs with
  | [] => 0
  | c :: t => c % 2 ^ bits + 2 ^ bits * packCodes bits t

/-- Set 2-bit entry i of a block-status map (04 R133). -/
def setStatus (m : Mem) (base i v : Nat) : Mem :=
  let a := base + i / 4
  let old := m.nat a
  let sh := 4 ^ (i % 4)
  m.set a (BitVec.ofNat 8 (old - old / sh % 4 * sh + v * sh))

/-- The FP32 squares of error and value of one element (05 R165). -/
def measure (tile idx : Nat) (v : Fv) (y : Fv) : Meas :=
  let v32 := (encFp32 v).1
  let df := (encFp32 (fvAdd (decFp32 v32) (fvNeg y))).1
  { tile := tile, idx := idx, d2 := (mulF df df).1, v2 := (mulF v32 v32).1 }

/-- The relative squared error of a measured tile in units of 2^-32, saturated; none when Σv² is zero (05 R165). A quotient
that is NaN has no stated floor: it is a free value (log 8). -/
def relError (ms : List Meas) : Option Nat :=
  let s := ms.foldl (fun (a : W32 × W32) x => ((addF a.1 x.d2).1, (addF a.2 x.v2).1)) (0, 0)
  match decFp32 s.1, decFp32 s.2 with
  | _, .fin _ b =>
    if b = 0 then none else
    match decFp32 s.1 with
    | .fin _ a =>
      match decFp32 (encFp32 (.fin false (a / b))).1 with
      | .fin _ q => some (min 0xFFFFFFFF (q * 2 ^ 32).floor.toNat)
      | _ => some 0xFFFFFFFF
    | .inf _ => some 0xFFFFFFFF
    | .nan => some Config.nanError.toNat
  | .fin _ _, .inf _ => some 0
  | _, _ => some Config.nanError.toNat

/-- Parameters of one conversion: SB_GAP of LND_CTL (04 R156), headroom exponent, MSE_LOG2, rounding bits of the
row's elements. -/
structure ConvPar where
  gap : Nat
  hx : Nat
  mseLog2 : Nat
  r16 : Nat → Nat

/-- Outliers of one group, in selection order, and the number refused (04 R138). Candidates: (index, magnitude). -/
def selectOutliers (gap k : Nat) : List (Nat × Rat) → Nat → List Nat × Nat
  | [], _ => ([], 0)
  | (i, a) :: rest, n =>
    let nxt : Rat := match rest with
      | [] => 0
      | (_, b) :: _ => b
    if a = 0 ∨ a < nxt * 2 ^ gap then ([], 0)
    else
      let r := selectOutliers gap k rest (n + 1)
      if n < k then (i :: r.1, r.2) else (r.1, r.2 + 1)

/-- Insert by falling magnitude, ties to the lower index. -/
def insertMag (x : Nat × Rat) : List (Nat × Rat) → List (Nat × Rat)
  | [] => [x]
  | y :: t => if y.2 > x.2 ∨ (y.2 = x.2 ∧ y.1 < x.1) then y :: insertMag x t else x :: y :: t

/-- One block written by the landing. -/
structure BlkOut where
  sc : Nat
  zp : Nat
  codes : List Nat
  status : Nat
  flags : Flags
  counts : Counts

/-- Convert the elements of one block: quotients x = v/T in order, `none` for a position carried beside the codes
(04 R139, R141), with their rounding. Rows of 02 Table 2.3 in order; a saturated block is clamped to ±q. In an asymmetric
block the row 'all codes round to 0' is read as every code equal to z, whose value is 0, and an invalid block that also holds a saturated
output is counted as flagged saturated (field 0x60), which the spec leaves open: DESIGN CHOICE (log 14). -/
def convBlock (d : Desc) (hx : Nat) (bad : Bool) (xs : List (Option Fv × Rnd)) (sat : Bool) : BlkOut :=
  let satC : Counts := if sat then [(0x60, 1)] else []
  let st0 := if sat then 1 else 0
  if bad then { sc := 0xFF, zp := 0, codes := xs.map fun _ => 0, status := 2, flags := fINV, counts := [(0x20, 1)] ++ satC }
  else
    let qs := xs.filterMap fun x => x.1.map Fv.toRat
    let hi := qs.foldl max 0
    let lo := qs.foldl min 0
    let m := qs.foldl (fun a q => max a (ratAbs q)) 0
    let top : Rat := ((2 ^ d.bits - 1 : Nat) : Rat)
    let need := if d.asym then (hi - lo) * 2 ^ hx / top else m * 2 ^ hx / fmtTarget d.fmt
    if m = 0 then
      { sc := 0, zp := 0, codes := xs.map fun _ => 0, status := st0, flags := 0, counts := [(0x08, 1)] ++ satC }
    else
      let sel := sc8Choose need
      let sc := sel.getD 0xFE
      let s := sc8Val sc
      let z := if d.asym then (max 0 (min ((2 ^ d.bits - 1 : Nat) : Int) (rneInt (-lo / s)))).toNat else 0
      let enc := xs.map fun (x, r) => match x with
        | none => (z, (0 : Flags))
        | some v =>
          if d.asym then encAsym d.fmt z (v.toRat / s)
          else encScaled d.fmt r (.fin v.neg? (if sel = none then min (v.mag / s) (fmtTarget d.fmt) else v.mag / s))
      let fl := enc.foldl (fun a e => a ||| e.2) 0
      let allZero := enc.all fun e => (decElem d.fmt e.1).toRat = ((z : Nat) : Rat)
      match sel with
      | none =>
        { sc := 0xFE, zp := z, codes := enc.map (·.1), status := 1, flags := fl ||| fOVF ||| fINX,
          counts := [(0x18, 1), (0x90 + 4 * 15, 1)] ++ satC }
      | some c =>
        if c = 1 ∧ allZero then
          { sc := 0, zp := 0, codes := xs.map fun _ => 0, status := st0, flags := fUNF ||| fINX, counts := [(0x10, 1)] ++ satC }
        else
          { sc := c, zp := z, codes := enc.map (·.1), status := st0, flags := fl,
            counts := [(0x90 + 4 * (sc8E c / 4), 1)] ++ satC }

/-- Convert elements c0, c0 + 1, … of destination row `row` and store everything the destination names. Positions of outlier
channels are not candidates for the sideboard, and their values stay in the largest magnitude that gives the tile its auto TS32,
R141's 'scale choice' being read as that of SC8 and ZP8: DESIGN CHOICE (log 14). -/
def convSeg (d : Desc) (p : ConvPar) (row c0 : Nat) (els : List El) (mem : Mem) : SegOut :=
  let rnd (i : Nat) : Rnd := if d.grad then .sr (p.r16 i) else .rne
  let base := pantOff d.base + d.rowOff row
  let nsat := (els.filter (·.sat)).length
  let satCount : Counts := if nsat = 0 then [] else [(0x28, nsat)]
  if !d.scaled then
    let mb := if d.fmt = fmtG16 then 7 else 23
    let w := d.bits / 8
    let r := els.zipIdx.foldl (fun (m, fl, ms) (e, i) =>
      let (c, f) := encIeee mb (rnd (c0 + i)) e.v
      (m.setLe (base + (c0 + i) * w) w c, fl ||| f, ms)) (mem, (0 : Flags), ())
    { mem := r.1, flags := r.2.1, counts := satCount, meas := [] }
  else
    let n := els.length
    let bs := d.bs
    let tw := bs * d.bpt
    let v (i : Nat) : Fv := (els.getD (i - c0) { v := .nan }).v
    let fin := c0 + n
    let tileT (t : Nat) : W32 :=
      if d.tsAutoMode then
        let lo := max c0 (t * tw)
        let hi := min fin ((t + 1) * tw)
        tsAuto (((List.range (hi - lo)).map fun j => (v (lo + j)).mag).foldl max 0)
      else BitVec.ofNat 32 d.tsFixed
    let tOf (i : Nat) : W32 := tileT (i / tw)
    let tv (i : Nat) : Rat := tsVal (tOf i)
    let blocks := (List.range (cdiv n bs)).map fun j => c0 / bs + j
    let idxs (b : Nat) : List Nat := (List.range (min fin ((b + 1) * bs) - b * bs)).map fun j => b * bs + j
    let bad (b : Nat) : Bool := (idxs b).any fun i => !(v i).isFin
    let chans := if d.hasChan then (List.range d.nchan).map fun j => (mem.le (pantOff d.chan + 2 * j) 2, j) else []
    let isChan (i : Nat) : Bool := chans.any fun c => c.1 = i
    -- outliers
    let groups := if d.hasSb then (List.range (cdiv n 128)).map fun j => c0 / 128 + j else []
    let sel := groups.map fun g =>
      let lo := 128 * g
      let cand := ((List.range (min fin (lo + 128) - lo)).map fun j => lo + j).filter
        fun i => !bad (i / bs) && !isChan i
      let sorted := cand.foldl (fun l i => insertMag (i, (v i).mag) l) []
      (g, selectOutliers p.gap d.sbK sorted 0)
    let outl := sel.flatMap fun x => x.2.1
    let beside (i : Nat) : Fv × Rnd := (.fin (v i).neg? ((v i).mag / tv i), rnd i)
    let besideCode (i : Nat) : Nat × Flags :=
      if (v i).isFin then let (x, r) := beside i; encIeee 7 r x
      else encIeee 7 .rne (v i)
    let m1 := sel.foldl (fun m (g, os, _) =>
      let words := os.map fun i => (besideCode i).1 * 65536 + 0x80 + i % 128
      m.setLe (pantOff d.sb + 16 * (row * d.groups + g)) 16 (packCodes 32 words)) mem
    let inSeg := chans.filter fun c => c0 ≤ c.1 && c.1 < fin
    let m2 := inSeg.foldl (fun m (i, j) => m.setLe (pantOff d.chan + 128 + 2 * (j * d.rows + row)) 2 (besideCode i).1) m1
    let fSide := (outl.map fun i => (besideCode i).2) ++ (inSeg.map fun c => (besideCode c.1).2)
    let refused := (sel.map fun x => x.2.2).sum
    let sideC : Counts := [(0x40, outl.length), (0x48, refused)].filter fun x => x.2 ≠ 0
    -- blocks
    let outs := blocks.map fun b =>
      let is := idxs b
      let xs := is.map fun i =>
        (if outl.contains i || isChan i then none else some (Fv.fin (v i).neg? ((v i).mag / tv i)), rnd i)
      (b, convBlock d p.hx (bad b) xs (is.any fun i => (els.getD (i - c0) { v := .nan }).sat))
    let m3 := outs.foldl (fun m (b, o) =>
      let bi := row * d.nb + b
      let a := base + b * bs * d.bits / 8
      let m := m.setLe a (bs * d.bits / 8) (packCodes d.bits o.codes)
      let m := m.setLe (pantOff d.sc8 + bi) 1 o.sc
      let m := if d.zp8 ≠ 0 then m.setLe (pantOff d.zp8 + bi) 1 o.zp else m
      let m := m.setLe (pantOff d.ts32 + 4 * (row * d.tpr + b / d.bpt)) 4 (tileT (b / d.bpt)).toNat
      if d.status ≠ 0 then setStatus m (pantOff d.status) bi o.status else m) m2
    let view : View := { d := d, rd := fun a => m3.nat a }
    let meas := outs.flatMap fun (b, o) =>
      let tile := row * d.tpr + b / d.bpt
      if tile % 2 ^ p.mseLog2 ≠ 0 then []
      else (idxs b).map fun i => if o.status = 2 then Meas.none tile i else measure tile i (v i) (view.exact row i)
    { mem := m3,
      flags := outs.foldl (fun a x => a ||| x.2.flags) (fSide.foldl (· ||| ·) 0),
      counts := [(0x00, blocks.length)] ++ outs.flatMap (fun x => x.2.counts) ++ sideC ++ satCount,
      meas := meas }

/-! Conversions of Table 4.3 -/

/-- Conversions that keep SC8 and TS32: codes become c − z (04 Table 4.3; G8 to G12 and G16, G12 to G16 are marked
exact and keep their scales too, log 15). -/
def keepPair (s d : Nat) : Bool :=
  ([fmtN2, fmtN4, fmtN4U].contains s && fmtIsG d) || ([fmtN8, fmtN8U].contains s && (d = fmtG12 || d = fmtG16))
    || (s = fmtG8 && (d = fmtG12 || d = fmtG16)) || (s = fmtG12 && d = fmtG16)

/-- Whether the landing performs the conversion (04 R123, Table 4.3). -/
def convAllowed (s d : Desc) : Bool :=
  let wide := fmtIsN d.fmt || d.fmt = fmtA16 || fmtIsG d.fmt || d.fmt = fmtFP32
  if s.fmt = fmtFP32 then wide
  else if d.fmt = fmtM16 then false
  else if s.fmt = d.fmt && s.scaled && d.scaled then s.bs ≠ d.bs || s.tsAutoMode != d.tsAutoMode
  else if s.fmt = fmtG16 then fmtIsN d.fmt || d.fmt = fmtA16 || d.fmt = fmtG8 || d.fmt = fmtG12 || d.fmt = fmtFP32
  else if fmtIsN s.fmt then keepPair s.fmt d.fmt || d.fmt = fmtFP32
  else if s.fmt = fmtA16 then d.fmt = fmtFP32 || d.fmt = fmtG16
  else if s.fmt = fmtG8 then d.fmt = fmtG12 || d.fmt = fmtG16 || d.fmt = fmtFP32
  else if s.fmt = fmtG12 then d.fmt = fmtG16 || d.fmt = fmtFP32
  else false

/-- Whether the conversion keeps the source's scales (04 R123). -/
def convKeeps (s d : Desc) : Bool :=
  keepPair s.fmt d.fmt && d.scaled && s.bs = d.bs && s.bpt = d.bpt && !s.hasSb && !s.hasChan

/-- The exact code value c − z of an element of a scaled source. -/
def View.codeVal (v : View) (row i : Nat) : Fv :=
  match decElem v.d.fmt (v.code row i) with
  | .fin n a => if v.d.asym then Fv.ofRat ((if n then -a else a) - ((v.zp row i : Nat) : Rat)) else .fin n a
  | o => o

/-- The tile scale that a scale-keeping conversion writes: the source's; for an invalid tile, since the landing writes only
positive normal values (02 R35), that of a tile with no finite element (02 R36). DEDUCED (log 14). -/
def keepTs (s : View) (d : Desc) (row i : Nat) : W32 :=
  if s.badTile row i then (if d.tsAutoMode then 0x3F800000#32 else BitVec.ofNat 32 d.tsFixed) else s.ts row i

/-- One block of a scale-keeping conversion: SC8, codes and status. Zero blocks have code 0 everywhere, and a block whose elements
are all zero becomes one (02 R34, Table 2.3). Positions of the destination's outlier channels take code 0 (04 R141). -/
def keepBlock (s : View) (d : Desc) (isChan : Nat → Bool) (row b : Nat) : Nat × List Nat × Nat :=
  let is := (List.range (min d.dim0 ((b + 1) * d.bs) - b * d.bs)).map fun j => b * d.bs + j
  let i0 := b * d.bs
  let vals := is.map fun i => if isChan i then Fv.fin false 0 else s.codeVal row i
  let none0 := is.map fun _ => 0
  if s.invalid row i0 || (!s.zero row i0 && is.any fun i => !(s.codeVal row i).isFin) then (0xFF, none0, 2)
  else if s.zero row i0 || vals.all Fv.isZero then (0, none0, 0)
  else (s.sc row i0, vals.map fun x => (encScaled d.fmt .rne x).1, 0)

/-- One row of a scale-keeping conversion; values of outlier channels round as in any conversion (04 R139, R141; 02 R57). A destination's sideboard array is left as it is: R123 gives such a conversion no
selection of outliers, and the spec does not say what becomes of the array. DESIGN CHOICE (log 14). -/
def keepRow (s : View) (d : Desc) (p : ConvPar) (row : Nat) (mem : Mem) : SegOut :=
  let base := pantOff d.base + d.rowOff row
  let chans := if d.hasChan then (List.range d.nchan).map fun j => (mem.le (pantOff d.chan + 2 * j) 2, j) else []
  let isChan (i : Nat) : Bool := chans.any fun c => c.1 = i
  let side (i : Nat) : Nat × Flags := encIeee 7 (if d.grad then .sr (p.r16 i) else .rne) (s.coded row i)
  let mine := chans.filter fun c => c.1 < d.dim0
  let m0 := mine.foldl (fun m (i, j) => m.setLe (pantOff d.chan + 128 + 2 * (j * d.rows + row)) 2 (side i).1) mem
  let outs := (List.range d.nb).map fun b => (b, keepBlock s d isChan row b)
  let m := outs.foldl (fun m (b, sc, codes, st) =>
    let bi := row * d.nb + b
    let m := m.setLe (base + b * d.bs * d.bits / 8) (d.bs * d.bits / 8) (packCodes d.bits codes)
    let m := m.setLe (pantOff d.sc8 + bi) 1 sc
    let m := m.setLe (pantOff d.ts32 + 4 * (row * d.tpr + b / d.bpt)) 4 (keepTs s d row (b * d.bs)).toNat
    if d.status ≠ 0 then setStatus m (pantOff d.status) bi st else m) m0
  let view : View := { d := d, rd := fun a => m.nat a }
  { mem := m
    flags := mine.foldl (fun f c => f ||| (side c.1).2) (flagIf (outs.any fun o => o.2.2.2 = 2) fINV)
    counts := [(0x00, d.nb)] ++ outs.flatMap fun (_, sc, _, st) =>
      if st = 2 then [(0x20, 1)] else if sc = 0 then [(0x08, 1)] else [(0x90 + 4 * (sc8E sc / 4), 1)]
    meas := outs.flatMap fun (b, _, _, st) =>
      let tile := row * d.tpr + b / d.bpt
      if tile % 2 ^ p.mseLog2 ≠ 0 then []
      else (List.range (min d.dim0 ((b + 1) * d.bs) - b * d.bs)).map fun j =>
        if st = 2 then Meas.none tile (b * d.bs + j)
        else measure tile (b * d.bs + j) (s.exact row (b * d.bs + j)) (view.exact row (b * d.bs + j)) }

/-- The measured elements of destination tiles that are whole, and the others (05 R165). -/
def wholeMeas (d : Desc) (ms : List Meas) : List Meas × List Meas :=
  let tw := d.bs * d.bpt
  let done := ((ms.map (·.tile)).eraseDups).filter fun t => (ms.filter fun y => y.tile = t).length = min tw (d.dim0 - t % d.tpr * tw)
  ms.partition fun x => done.contains x.tile

end Sys2Proof.Machine
end

