-- ==== Sys2Proof/Machine/Hash.lean ====
section
/-! DEFINITION. The counter-based generator (10 R344 to R346), the sample permutation (10 R348 to R351), SHA-256,
HMAC-SHA-256 and CRC-32C (standards the manual names, 00 and 11, 19). -/

namespace Sys2Proof.Machine

/-! The generator -/

/-- The four words of a generator block. -/
structure Blk4 where
  x0 : W32
  x1 : W32
  x2 : W32
  x3 : W32
  deriving DecidableEq, Repr

/-- One round of the generator (10 R345). -/
def genRound (k0 k1 : W32) (r : Nat) (b : Blk4) : Blk4 :=
  let x0 := b.x0 + b.x1 + (k0 ^^^ BitVec.ofNat 32 r)
  let x3 := (b.x3 ^^^ x0).rotateLeft 16
  let x2 := b.x2 + x3 + (k1 ^^^ BitVec.ofNat 32 (r * 256))
  let x1 := (b.x1 ^^^ x2).rotateLeft 12
  let x0 := x0 + x1
  let x3 := (x3 ^^^ x0).rotateLeft 8
  let x2 := x2 + x3
  let x1 := (x1 ^^^ x2).rotateLeft 7
  ⟨x0, x1, x2, x3⟩

/-- Generator output for a key, domain, stream ID and counter (10 Table 10.1, R345). -/
def gen (key : Nat) (domain stream counter : Nat) : Blk4 :=
  let k0 := BitVec.ofNat 32 key
  let k1 := BitVec.ofNat 32 (key / 2 ^ 32)
  (List.range 10).foldl (fun b r => genRound k0 k1 r b)
    ⟨BitVec.ofNat 32 counter, BitVec.ofNat 32 (counter / 2 ^ 32), BitVec.ofNat 32 stream, BitVec.ofNat 32 domain⟩

def Blk4.toNat (b : Blk4) : Nat := b.x0.toNat + 2 ^ 32 * b.x1.toNat + 2 ^ 64 * b.x2.toNat + 2 ^ 96 * b.x3.toNat

/-- The 16 rounding bits of flat element i of a tensor (02 R58). -/
def roundBits (key layer slot step i : Nat) : Nat :=
  (gen key 1 (layer * 4096 + slot % 4096) (step % 2 ^ 24 * 2 ^ 40 + i / 8 % 2 ^ 40)).toNat / 2 ^ (16 * (i % 8)) % 65536

/-! The permutation (10 R348) -/

/-- Half width h: b is the smallest even number, at least 2, with 2^b ≥ n. -/
def permHalf (n : Nat) : Nat := max 1 ((Nat.clog2 n + 1) / 2)
where
  /-- ceil(log2 n). -/
  Nat.clog2 (n : Nat) : Nat := if n ≤ 1 then 0 else Nat.log2 (n - 1) + 1

def permF (key epoch h r v : Nat) : Nat := (gen key 2 (epoch % 2 ^ 32) (r * 2 ^ 32 + v)).x0.toNat % 2 ^ h

def perm (key epoch h x : Nat) : Nat :=
  let (lt, rt) := [0, 1, 2, 3].foldl (fun (p : Nat × Nat) r => (p.2, p.1 ^^^ permF key epoch h r p.2)) (x / 2 ^ h, x % 2 ^ h)
  lt * 2 ^ h + rt

def permInv (key epoch h x : Nat) : Nat :=
  let (lt, rt) := [3, 2, 1, 0].foldl (fun (p : Nat × Nat) r => (p.2 ^^^ permF key epoch h r p.1, p.1)) (x / 2 ^ h, x % 2 ^ h)
  lt * 2 ^ h + rt

/-- Walk f until it falls below n, in at most `fuel` passes (10 R349: no more passes than the cycle). -/
def walk (f : Nat → Nat) (n : Nat) : Nat → Nat → Nat
  | 0, x => x
  | fuel + 1, x => let y := f x; if y < n then y else walk f n fuel y

/-- π_e(i) and its inverse. -/
def permPi (key epoch n i : Nat) : Nat := let h := permHalf n; walk (perm key epoch h) n (4 ^ h) i
def permPiInv (key epoch n p : Nat) : Nat := let h := permHalf n; walk (permInv key epoch h) n (4 ^ h) p

/-! SHA-256. Its constants are the first 32 fraction bits of roots of the first primes, computed here. -/

/-- The first 64 primes. -/
def shaPrimes : List Nat :=
  [2, 3, 5, 7, 11, 13, 17, 19, 23, 29, 31, 37, 41, 43, 47, 53] ++ [59, 61, 67, 71, 73, 79, 83, 89, 97, 101, 103, 107, 109, 113, 127, 131]
    ++ [137, 139, 149, 151, 157, 163, 167, 173, 179, 181, 191, 193, 197, 199, 211, 223]
    ++ [227, 229, 233, 239, 241, 251, 257, 263, 269, 271, 277, 281, 283, 293, 307, 311]

/-- The largest x below 2^40 with x^n at most m, by its bits from the top. -/
def intRoot (n m : Nat) : Nat := (List.range 40).foldr (fun i x => if (x + 2 ^ i) ^ n ≤ m then x + 2 ^ i else x) 0

/-- The first 32 fraction bits of the n-th root of p. -/
def rootFrac (n p : Nat) : W32 := BitVec.ofNat 32 (intRoot n (p * 2 ^ (32 * n)))

/-- A word turned right by each of some amounts, the results added modulo 2. -/
def turns (x : W32) (rs : List Nat) : W32 := (rs.map x.rotateRight).foldr (· ^^^ ·) 0

/-- The next word of a message schedule, from the words so far, newest first. -/
def schedNext (w : List W32) : W32 :=
  let old := w.getD 14 0
  let new := w.getD 1 0
  (turns new [17, 19] ^^^ new >>> 10) + w.getD 6 0 + (turns old [7, 18] ^^^ old >>> 3) + w.getD 15 0

/-- The 64 words of a block's schedule, in order. -/
def schedule (blk : List W32) : List W32 := (Nat.repeat (fun w => schedNext w :: w) 48 blk.reverse).reverse

/-- The working words as two lines of four, newest first: one that starts from the first half of the hash value, one from the second. -/
abbrev ShaLines : Type := List W32 × List W32

/-- One round: both lines move on by a word, for `kw` the round's constant plus its schedule word. -/
def shaStep (l : ShaLines) (kw : W32) : ShaLines :=
  let p (n : Nat) : W32 := l.1.getD n 0
  let q (n : Nat) : W32 := l.2.getD n 0
  let choice := q 2 ^^^ (q 0 &&& (q 1 ^^^ q 2))
  let most := (p 0 &&& (p 1 ||| p 2)) ||| (p 1 &&& p 2)
  let mix := kw + choice + turns (q 0) [6, 11, 25] + q 3
  ((mix + most + turns (p 0) [2, 13, 22]) :: l.1.take 3, (mix + p 3) :: l.2.take 3)

/-- The hash value after a block. -/
def compress (h : List W32) (blk : List W32) : List W32 :=
  let kws := ((shaPrimes.map (rootFrac 3)).zip (schedule blk)).map fun x => x.1 + x.2
  let l := kws.foldl shaStep (h.take 4, h.drop 4)
  (h.zip (l.1 ++ l.2)).map fun x => x.1 + x.2

/-- Big-endian words of bytes. -/
def beWords : List Byte → List W32
  | a :: b :: c :: d :: t => (a ++ b ++ c ++ d) :: beWords t
  | _ => []

def beBytes (w : W32) : List Byte := [w.extractLsb' 24 8, w.extractLsb' 16 8, w.extractLsb' 8 8, w.extractLsb' 0 8]

def shaPad (m : List Byte) : List Byte :=
  let n := m.length
  let z := (119 - n % 64) % 64
  m ++ [0x80#8] ++ List.replicate z 0#8 ++ (leBytes 8 (8 * n)).reverse

/-- Blocks of n elements. -/
def chunks {α : Type} (n : Nat) (l : List α) : Nat → List (List α)
  | 0 => []
  | fuel + 1 => if l.isEmpty then [] else l.take n :: chunks n (l.drop n) fuel

/-- SHA-256 of a byte string, as 32 bytes. -/
def sha256 (m : List Byte) : List Byte :=
  let w := beWords (shaPad m)
  ((chunks 16 w w.length).foldl compress ((shaPrimes.take 8).map (rootFrac 2))).flatMap beBytes

def hmac (key msg : List Byte) : List Byte :=
  let k := if key.length > 64 then sha256 key else key
  let k := k ++ List.replicate (64 - k.length) 0#8
  sha256 (k.map (· ^^^ 0x5c#8) ++ sha256 (k.map (· ^^^ 0x36#8) ++ msg))

/-- The first 32 bits of a digest, as the little-endian number of its first four bytes (CHECK fields, 08 R298). -/
def sha32 (m : List Byte) : Nat := leNum ((sha256 m).take 4)

/-! CRC-32C (Castagnoli), reflected -/

def crcBit (c : W32) : W32 := if c.getLsbD 0 then (c >>> 1) ^^^ 0x82F63B78#32 else c >>> 1
def crcByte (c : W32) (b : Byte) : W32 := (List.range 8).foldl (fun c _ => crcBit c) (c ^^^ b.setWidth 32)
def crc32c (m : List Byte) : W32 := ~~~(m.foldl crcByte 0xFFFFFFFF#32)

end Sys2Proof.Machine
end

