-- ==== Sys2Proof/Machine/Trellis.lean ====
section
/-! DEFINITION. The arithmetic of one trellis tile: short runs, promotion, anchors and reference exponents, window,
sideboard terms, special tags (03 R66 to R101, 04 R125, R126, R142, R143, R148, R149, 07 R242). -/

namespace Sys2Proof.Machine

/-- Special tag of a lower accumulator (03 R88). -/
inductive Tag where
  | none | pinf | ninf | nan
  deriving DecidableEq, Repr

/-- One output in an accumulator slot: the integer, its marks and tag, whether this tile's sideboard term has been added, and
the sideboard term of an upper output whose tile had no anchor (04 R143). -/
structure Acc where
  a : Int := 0
  sat : Bool := false
  short : Bool := false
  inv : Bool := false
  tag : Tag := .none
  sg : Bool := false
  sig : W32 := 0
  deriving DecidableEq, Repr

/-- What an element is to the special tags: zero, finite, infinite or NaN, with its sign (03 R88). -/
inductive Cls where
  | zero
  | fin (neg : Bool)
  | inf (neg : Bool)
  | nan
  deriving DecidableEq, Repr

def Fv.cls : Fv → Cls
  | .nan => .nan
  | .inf n => .inf n
  | .fin n m => if m = 0 then .zero else .fin n

namespace Cls

def isFin : Cls → Bool
  | .zero => true
  | .fin _ => true
  | _ => false

/-- The tag of a product (03 R88). An infinity read against an element of a zero block is an infinity times zero: R51 has the
element contribute exactly 0 and R88 makes the product NaN, and the spec does not say which prevails; the model gives NaN.
DESIGN CHOICE (log 15). -/
def meet : Cls → Cls → Tag
  | .nan, _ => .nan
  | _, .nan => .nan
  | .inf _, .zero => .nan
  | .zero, .inf _ => .nan
  | .inf a, .inf b => if a = b then .pinf else .ninf
  | .inf a, .fin b => if a = b then .pinf else .ninf
  | .fin a, .inf b => if a = b then .pinf else .ninf
  | _, _ => .none

end Cls

/-- One held element as the loader leaves it in its staves (03 R67, R70, R71): the held values of its loads (upper: H, or the
high and the low byte of an A16 code; lower: h, or under W32x that of each piece), its exponent max(e, 1) from which each span
pass takes the offset o, its class, and whether it is an FP32 subnormal that W32x reads as zero (02 R49). -/
structure Stave where
  h : List Int := [0]
  e : Nat := 1
  cls : Cls := .zero
  sub : Bool := false
  deriving DecidableEq, Repr

/-- A held segment in the staves or in their shadow copies: its tile, its number, the staves of each held row, and the row Σw
register of each run where the streaming operand has the zero point (03 R66, R80, R106). -/
structure HeldSeg where
  uid : Nat
  ord : Nat
  seg : Nat
  rows : List (List Stave)
  sums : List (List Int)
  deriving DecidableEq, Repr

/-- The product a tile forms: held and streaming views, cask, filter rows and stride (TMUL: one filter row, stride
0). Held row of output m and filter row r is m + r, moved left r × s elements (03 R96; log 15). -/
structure Prod where
  h : View
  s : View
  cask : Nat
  fr : Nat
  stride : Nat

namespace Prod

/-- Elements along K per filter row. -/
def k (p : Prod) : Nat := p.s.d.dim0
def hRow (_p : Prod) (m r : Nat) : Nat := m + r
def hCol (p : Prod) (kk r : Nat) : Nat := kk + r * p.stride
def sRow (p : Prod) (n r : Nat) : Nat := n * p.fr + r
/-- Work of the lower trellises (03 R65). -/
def lower (p : Prod) : Bool := !(fmtIsN p.s.d.fmt)
def w32x (p : Prod) : Bool := p.h.d.fmt = fmtFP32 || p.s.d.fmt = fmtFP32
/-- Staves per element and digits per element per cycle (03 Table 3.3). -/
def staves (p : Prod) : Nat := [1, 2, 4, 2, 4].getD p.cask 1
def perCycle (p : Prod) : Nat := [1, 2, 4, 1, 2].getD p.cask 1
def segLen (p : Prod) : Nat := 256 / p.staves

/-- A block of either operand begins at element kk of filter row r. -/
def blockStart (p : Prod) (r kk : Nat) : Bool :=
  kk = 0 || (p.s.d.scaled && kk % p.s.d.bs = 0) || (p.h.d.scaled && p.hCol kk r % p.h.d.bs = 0)

/-- Block boundaries and 32-stave runs (03 R78): (filter row, first element, one past the last). -/
def runs (p : Prod) : List (Nat × Nat × Nat) :=
  let rl := 32 / p.staves
  (List.range p.fr).flatMap fun r =>
    let starts := (List.range p.k).filter fun kk => kk % rl = 0 || p.blockStart r kk
    starts.zipIdx.map fun (a, i) => (r, a, starts.getD (i + 1) p.k)

/-- Segments of the row: (filter row, first, one past the last). -/
def segs (p : Prod) : List (Nat × Nat × Nat) :=
  (List.range p.fr).flatMap fun r =>
    (List.range (cdiv p.k p.segLen)).map fun i => (r, i * p.segLen, min p.k ((i + 1) * p.segLen))

/-- The runs of segment g. -/
def runsIn (p : Prod) (g : Nat) : List (Nat × Nat × Nat) :=
  let (r, a, b) := p.segs.getD g (0, 0, 0)
  p.runs.filter fun x => x.1 = r && decide (a ≤ x.2.1 ∧ x.2.1 < b)

/-- Reference tile scales of held row m and vector n (03 R705); the first K block in a valid tile is taken where the
first tile is invalid (log 15). -/
def firstValid (v : View) (row : Nat) : W32 :=
  (((List.range v.d.tpr).map fun t => v.ts row (t * v.d.bpt * v.d.bs)).find? tsValid).getD 0x3F800000#32
def thRef (p : Prod) (m : Nat) : W32 := firstValid p.h (p.hRow m 0)
def tsRef (p : Prod) (n : Nat) : W32 := firstValid p.s (p.sRow n 0)

/-- j with T′ = Tref × 2^j, none when the ratio is not a power of two (03 R705). -/
def foldExp (t ref : Rat) : Option Int :=
  let q := t / ref
  if q ≤ 0 then none else
    let e := ratLog2 q
    if pow2 e = q then some e else none

end Prod

/-- The state of a block pair (02 R51, R52; 04 R125, R126): invalid, zero, a fold that breaks R705, or its scale
product and x. -/
inductive Pair where
  | invalid
  | zero
  | badFold
  | below
  | above
  | ok (x : Int)
  deriving DecidableEq, Repr

namespace Prod

/-- Mantissa factor and exponent of a block scale: 4 + f and e − 34, or 4 and −2 unscaled. -/
def scMant (v : View) (r i : Nat) : Nat := if v.d.scaled then 4 + sc8F (v.sc r i) else 4
def scExp (v : View) (r i : Nat) : Int := if v.d.scaled then (sc8E (v.sc r i) : Int) - 34 else -2
def scVal (v : View) (r i : Nat) : Rat := ((scMant v r i : Nat) : Rat) * pow2 (scExp v r i)

/-- Block pair of output (m, n) at element kk of filter row r, judged at its largest scale product; th and ts are the output's
reference tile scales. Invalid tiles and pairs with a zero block are not checked against R705. On the upper trellises
x = e_h + e_s − 68 + j (02 R51, R52; 03 R81, R705; 04 R126). -/
def pair (p : Prod) (th ts : W32) (m n r kk : Nat) : Pair :=
  let hr := p.hRow m r
  let hc := p.hCol kk r
  let sr := p.sRow n r
  if p.h.badTile hr hc || p.s.badTile sr kk then .invalid
  else if p.h.zero hr hc || p.s.zero sr kk then
    if p.h.badBlock hr hc || p.s.badBlock sr kk then .invalid else .zero
  else
    let t := tsVal (p.h.ts hr hc) * tsVal (p.s.ts sr kk)
    match foldExp t (tsVal th * tsVal ts) with
    | none => .badFold
    | some j =>
      if p.h.badBlock hr hc || p.s.badBlock sr kk then .invalid
      else
        let pr := scVal p.h hr hc * scVal p.s sr kk
        if pr < pow2 (-64) then .below
        else if pr ≥ pow2 63 then .above
        else .ok (scExp p.h hr hc + scExp p.s sr kk + j)

/-- All the block pairs of a tile, one per run: held row, vector, filter row, first element and one past the last, pair. -/
def pairs (p : Prod) (refs : Nat → W32) (sefs : Nat → W32) (ms ns : List Nat) : List (Nat × Nat × Nat × Nat × Nat × Pair) :=
  ms.flatMap fun m => ns.flatMap fun n => p.runs.map fun (r, k0, k1) => (m, n, r, k0, k1, p.pair (refs m) (sefs n) m n r k0)

end Prod

/-! The held load (03 R67, R70, R80, R97, R106) -/

/-- The signed code a stave or digit feeder uses: unsigned codes are recoded u − h (02 R46). -/
def signedCode (f c : Nat) : Int :=
  if f = fmtN4U then ((c % 16 : Nat) : Int) - 8 else if f = fmtN8U then ((c % 256 : Nat) : Int) - 128
  else sext (fmtBits f) c

/-- The FP32 code that a W32x operand's code is read as (03 R65). -/
def asFp32 (f c : Nat) : Nat := if f = fmtG16 then c * 65536 else c

/-- Pieces of an element on the lower trellises, and max(e,1) (03 R70, 02 R48). FP32 subnormals under W32x are zeros. -/
def loPieces (w32x : Bool) (f c : Nat) : List Int × Nat :=
  if w32x then
    let c32 := asFp32 f c
    let s := c32 / 2 ^ 31 % 2
    let e := c32 / 2 ^ 23 % 256
    let sg : Nat := if e = 0 then 0 else 2 ^ 23 + c32 % 2 ^ 23
    let q (i : Nat) : Int := let v : Int := ((sg / 2 ^ (16 - 8 * i) % 256 : Nat) : Int); if s = 1 then -v else v
    ([q 0, q 1, q 2], max e 1)
  else
    let (g, e) := sigExp f c
    ([g], e)

/-- An operand element that W32x reads as zero though it is not (02 R49). -/
def loSub (w32x : Bool) (f c : Nat) : Bool :=
  w32x && (let c32 := asFp32 f c; c32 / 2 ^ 23 % 256 = 0 && c32 % 2 ^ 23 ≠ 0)

/-- The class of an element as a lower trellis reads it. -/
def View.cls (v : View) (w32x : Bool) (r i : Nat) : Cls :=
  if loSub w32x v.d.fmt (v.code r i) then .zero else (v.coded r i).cls

/-- The held element of filter row r, output row m, position kk, as the loader writes it (03 R67, R70, R71). -/
def Prod.stave (p : Prod) (m r kk : Nat) : Stave :=
  let row := p.hRow m r
  let col := p.hCol kk r
  let f := p.h.d.fmt
  let c := p.h.code row col
  if p.lower then
    let (g, e) := loPieces p.w32x f c
    { h := g.map fun x => x * (Prod.scMant p.h row col : Nat), e := e, cls := p.h.cls p.w32x row col, sub := loSub p.w32x f c }
  else
    let v := signedCode f c
    { h := if f = fmtA16 then [v / 256, v % 256] else [v], cls := .fin false }

/-- The number a held upper element stands for. -/
def Stave.code (x : Stave) : Int :=
  match x.h with
  | [hi, lo] => 256 * hi + lo
  | [v] => v
  | _ => 0

/-- Load segment g of a tile's held rows `ms`. Between filter rows that fit one segment the trellis shifts: row i takes the
held values of row i + 1 moved left by s, and the loader fills the last row and the vacated columns (03 R96, R97). The spec
does not say what is shifted where a filter row takes more than one segment; each segment is then reloaded in full. DESIGN
CHOICE (log 15). -/
def Prod.loadSeg (p : Prod) (ms : List Nat) (cur : Option HeldSeg) (uid ord g : Nat) : HeldSeg :=
  let (r, k0, k1) := p.segs.getD g (0, 0, 0)
  let n := k1 - k0
  let before : Option HeldSeg :=
    match cur with
    | some q => if 0 < r && p.k ≤ p.segLen && q.uid = uid && q.ord = ord && q.seg + 1 = g then some q else none
    | none => none
  let rows := ms.zipIdx.map fun (m, a) => (List.range n).map fun j =>
    match before with
    | some q =>
      if a + 1 < ms.length ∧ j + p.stride < n then ((q.rows.getD (a + 1) []).getD (j + p.stride) {}) else p.stave m r (k0 + j)
    | none => p.stave m r (k0 + j)
  let sums := if p.s.d.asym then
      rows.map fun row => (p.runsIn g).map fun (_, a, b) => (((row.drop (a - k0)).take (b - a)).map Stave.code).sum
    else []
  { uid := uid, ord := ord, seg := g, rows := rows, sums := sums }

/-! Sideboard terms (04 R142, R143) -/

/-- One FP32 product of an outlier with its partner, times both tile scales, rounded once. -/
def sbProduct (g : Nat) (partner : Fv) (t : Rat) : W32 := (encFp32 (fvMul (fvMul (decG16 g) partner) (.ofRat t))).1

/-- The sideboard term of output (m, n): products in K order, held side first, summed with RNE; they set no flag of hearth or
spout (07 R266). none: no value beside the codes meets the output. -/
def Prod.sigma (p : Prod) (m n : Nat) : Option W32 :=
  let terms := (List.range p.fr).flatMap fun r =>
    let hr := p.hRow m r
    let sr := p.sRow n r
    let he := p.h.extras hr
    let se := p.s.extras sr
    if he = [] ∧ se = [] then [] else
    (List.range p.k).flatMap fun kk =>
      let hc := p.hCol kk r
      let t := tsVal (p.h.ts hr hc) * tsVal (p.s.ts sr kk)
      ((he.filter (fun e => e.1 = hc)).map fun e => sbProduct e.2 (p.s.coded sr kk) t)
        ++ ((se.filter (fun e => e.1 = kk)).map fun e => sbProduct e.2 (p.h.coded hr hc) t)
  match terms with
  | [] => none
  | t => some (t.foldl (fun acc x => (addF acc x).1) 0)

/-- What a tile adds to its counts: block pairs below and above the window (04 Table 4.6), short runs that overflowed. -/
structure WinCount where
  below : Nat := 0
  above : Nat := 0
  ovfs : Nat := 0
  deriving DecidableEq, Repr

/-- An output of a tile with what forming it set and counted. -/
abbrev OutRes := Acc × Flags × WinCount

/-! Upper trellises -/

/-- Saturating 18-bit chain: once out of range it stays at that bound for the run (03 R69, R83). -/
def shortStep (st : Int × Bool) (x : Int) : Int × Bool :=
  if st.2 then st
  else
    let v := st.1 + x
    if v > 131071 then (131071, true) else if v < -131072 then (-131072, true) else (v, false)

/-- The digit planes of each cycle of a streaming element (03 R93). -/
def planeGroups (nd perCycle : Nat) : List (List Nat) :=
  (List.range (cdiv nd perCycle)).map fun g =>
    (List.range perCycle).filterMap fun i => if g * perCycle + i < nd then some (g * perCycle + i) else none

/-- The sum of one run over all planes, and how many of its short runs overflowed; the two chains of a W2 cask hold high and
low bytes (03 R68, R83, R93, R94). -/
def runTotal (f : Nat) (perCycle : Nat) (hs : List (List Int)) (ss : List Int) : Int × Nat :=
  let n := fmtBits f
  let chain (i : Nat) (planes : List Nat) : Int × Bool :=
    ((hs.zip ss).flatMap fun (h, s) => planes.map fun kk => boothDigit n s kk * h.getD i 0 * 4 ^ kk).foldl shortStep (0, false)
  (planeGroups (boothDigits f) perCycle).foldl (fun (acc : Int × Nat) planes =>
    if hs.any fun h => h.length = 2 then
      let hi := chain 0 planes
      let lo := chain 1 planes
      (acc.1 + 256 * hi.1 + lo.1, acc.2 + (if hi.2 then 1 else 0) + (if lo.2 then 1 else 0))
    else
      let c := chain 0 planes
      (acc.1 + c.1, acc.2 + (if c.2 then 1 else 0))) (0, 0)

/-- The 40-bit range of an upper accumulator (03 R82). -/
def upMax : Int := 2 ^ 39 - 1
/-- Add to an upper accumulator with saturation of the sum or the term (03 R82). -/
def upAdd (o : Acc) (t : Int) : Acc × Flags :=
  let v := o.a + t
  if v > upMax || t > upMax then ({ o with a := upMax, sat := true }, fOVF)
  else if v < -upMax || t < -upMax then ({ o with a := -upMax, sat := true }, fOVF)
  else ({ o with a := v }, 0)

/-- Add the sideboard term to an upper output, once in a tile (04 R143). -/
def upSigma (o : Acc) (sig : Option W32) (unit : Rat) : Acc × Flags :=
  match o.sg, sig with
  | false, some g =>
    match decFp32 g with
    | .fin n a => upAdd { o with sg := true } (rneInt ((Fv.fin n a).toRat / unit))
    | _ => ({ o with inv := true, sg := true }, fINV)
  | _, _ => (o, 0)

/-- Short runs of an output that overflowed: OVF, the output saturated and its headroom raised (03 R83; 04 R128). -/
def shortMark (n : Nat) : OutRes → OutRes := fun (o, fl, wc) =>
  if n = 0 then (o, fl, wc) else ({ o with sat := true, short := true }, fl ||| fOVF, { wc with ovfs := wc.ovfs + n })

/-- One output of an upper tile after segment `g`, whose held row is `a` of `hs` (03 R82 to R85; 04 Table 4.4, R143). -/
def upperSeg (p : Prod) (hs : HeldSeg) (ea : Option Int) (th ts : W32) (m n a : Nat) (sig : Option W32) (start : Acc) : OutRes :=
  let unit := pow2 (ea.getD 0) * tsVal th * tsVal ts
  let seg0 := (p.segs.getD hs.seg (0, 0, 0)).2.1
  let row := hs.rows.getD a []
  (p.runsIn hs.seg).zipIdx.foldl (fun ((o, fl, wc) : OutRes) ((r, k0, k1), ri) =>
    let hr := p.hRow m r
    let sr := p.sRow n r
    let held := ((row.drop (k0 - seg0)).take (k1 - k0)).map Stave.h
    let ss := (List.range (k1 - k0)).map fun j => signedCode p.s.d.fmt (p.s.code sr (k0 + j))
    let tot := runTotal p.s.d.fmt p.perCycle held ss
    let t1 := if p.h.d.asym then
        tot.1 - ((p.h.zp hr (p.hCol k0 r) : Nat) - (2 ^ (p.h.d.bits - 1) : Nat) : Int) * ss.sum
      else if p.s.d.asym then
        tot.1 - ((p.s.zp sr k0 : Nat) - (2 ^ (p.s.d.bits - 1) : Nat) : Int) * ((hs.sums.getD a []).getD ri 0)
      else tot.1
    let one := if p.blockStart r k0 then 1 else 0
    match p.pair th ts m n r k0 with
    | .zero | .badFold => (o, fl, wc)
    | .below => (o, fl ||| fUNF, { wc with below := wc.below + one })
    | .invalid =>
      let (o1, f1, wc1) := shortMark tot.2 (o, fl, wc)
      ({ o1 with inv := true }, f1 ||| fINV, wc1)
    | .above =>
      let (o1, f1, wc1) := shortMark tot.2 (o, fl, { wc with above := wc.above + one })
      if t1 = 0 then (o1, f1, wc1)
      else ({ o1 with a := if t1 < 0 then -upMax else upMax, sat := true }, f1 ||| fOVF, wc1)
    | .ok x =>
      let (o1, f1) := upSigma o sig unit
      let (o2, f2, wc2) := shortMark tot.2 (o1, fl ||| f1, wc)
      let mant : Int := ((Prod.scMant p.h hr (p.hCol k0 r) * Prod.scMant p.s sr k0 : Nat) : Int)
      let (o3, f3) := upAdd o2 (t1 * mant * 2 ^ (x - ea.getD x).toNat)
      (o3, f2 ||| f3, wc2)) (start, 0, {})

/-- The last wave of an upper tile: a sideboard term not yet added is added; without an anchor it is kept beside the zero
accumulator (04 R143). -/
def upperEnd (ea : Option Int) (th ts : W32) (sig : Option W32) (o : Acc) : Acc × Flags :=
  match ea, o.sg, sig with
  | some e, _, _ => upSigma o sig (pow2 e * tsVal th * tsVal ts)
  | none, false, some g =>
    if (decFp32 g).isFin then ({ o with sig := (addF o.sig g).1, sg := true }, 0) else ({ o with inv := true, sg := true }, fINV)
  | _, _, _ => (o, 0)

/-! Lower trellises -/

/-- The 56-bit range of a lower accumulator (03 R87). -/
def loMax : Int := 2 ^ 55 - 1
def loSat (v : Int) : Int × Bool := if v > loMax then (loMax, true) else if v < -loMax then (-loMax, true) else (v, false)

/-- Join two tags: opposite infinities and NaN give NaN (03 R88). -/
def Tag.join : Tag → Tag → Tag
  | .none, t => t
  | t, .none => t
  | .pinf, .pinf => .pinf
  | .ninf, .ninf => .ninf
  | _, _ => .nan

/-- Weight of one significand unit at exponent 0: G8 −7, G12 −14, G16 and FP32 −134 (03 R71). -/
def loBias (f : Nat) : Int := if f = fmtG8 then -7 else if f = fmtG12 then -14 else -134

/-- The span pass of a held G16 or FP32 element in its bay of 16, none when dropped (03 R72). -/
def spanPass (f : Nat) (top e : Nat) : Option Nat :=
  if f = fmtG16 ∨ f = fmtFP32 then
    let p := (top - e) / 16
    if p ≤ 2 then some p else none
  else some 0

/-- The top exponent of each bay of 16 held elements of a segment's row, by the places they take in the trellis (03 R72). -/
def bayTops (row : List Stave) : List Nat :=
  (List.range (cdiv row.length 16)).map fun b => (((row.drop (16 * b)).take 16).map Stave.e).foldl max 1

/-- The span passes a segment's held rows need: its worst bay's, over the elements that are not zero (03 R72, DEDUCED). -/
def passesOf (f : Nat) (rows : List (List Stave)) : Nat :=
  (rows.map fun row =>
    let tops := bayTops row
    (row.zipIdx.map fun (x, j) =>
      if x.h.all (· = 0) then 1 else match spanPass f (tops.getD (j / 16) 1) x.e with
        | some p => p + 1
        | none => 3).foldl max 1).foldl max 1

/-- The W32x piece pairs in pass order (04 Table 4.7); one pair otherwise. -/
def pieceOrder (w32x : Bool) : List (Nat × Nat) :=
  if w32x then [(0, 0), (0, 1), (0, 2), (1, 0), (1, 1), (2, 0)] else [(0, 0)]

/-- The weight exponent of a piece pair (04 Table 4.7). -/
def pieceExp (pi qi : Nat) : Int := -8 * ((pi : Int) + qi)

/-- A sideboard term on a lower tile's grid; none when it is not finite (04 R143). -/
def loSigma (g0 : Int) (th ts : W32) (sig : Option W32) : Option Int :=
  match sig with
  | some g => match decFp32 g with
    | .fin a b => some (rneInt ((Fv.fin a b).toRat / (pow2 g0 * tsVal th * tsVal ts)))
    | _ => none
  | none => none

/-- The tag that a sideboard term sets on a lower output (04 R143). -/
def sigmaTag (sig : Option W32) : Tag :=
  match sig.map fun g => decFp32 g with
  | some .nan => .nan
  | some (.inf true) => .ninf
  | some (.inf false) => .pinf
  | _ => .none

/-- A tag joins an output's: INV where NaN is read or made (03 R88, 02 Table 2.4). -/
def addTag (o : Acc) (t : Tag) : Acc × Flags :=
  let j := o.tag.join t
  ({ o with tag := j }, flagIf (t = .nan || (j = .nan && o.tag ≠ .nan)) fINV)

/-- Add a finite sideboard term to a partial sum with an output's first promoted term, once in a tile (04 R143). -/
def loTerm (sig : Option Int) (done : Bool) (ps term : Int) : Int × Bool :=
  loSat (ps + term + (if done then 0 else sig.getD 0))

/-- A streaming element on a lower trellis: its pieces, its exponent and class. -/
structure SEl where
  h : List Int
  e : Nat
  cls : Cls
  sub : Bool

def Prod.sEl (p : Prod) (sr kk : Nat) : SEl :=
  let c := p.s.code sr kk
  let (g, e) := loPieces p.w32x p.s.d.fmt c
  { h := g, e := e, cls := p.s.cls p.w32x sr kk, sub := loSub p.w32x p.s.d.fmt c }

/-- A lower output on a wave: the accumulator, the row's partial sum, saturated, sideboard term added, OVF. -/
structure LoSum where
  acc : Int
  ps : Int := 0
  sat : Bool
  done : Bool
  ovf : Bool := false

/-- One block pair of a run on a wave (03 R73, R74, R87; 04 Table 4.4): a pair above the window puts the output itself at its
bound, and a pair whose scale product in this pass lies below the window adds nothing (04 R126). -/
def loRun (p : Prod) (pr : Pair) (grid : Int) (sig : Option Int) (sp pi qi r k0 : Nat) (held : List (Nat × Stave)) (strm : List SEl)
    (m n : Nat) (st : LoSum) : LoSum :=
  (held.zip strm).foldl (fun st ((top, x), y) =>
    if !(x.cls.isFin && y.cls.isFin) || spanPass p.h.d.fmt top x.e ≠ some sp then st
    else
      let prod := x.h.getD pi 0 * y.h.getD qi 0
      match pr with
      | .invalid | .zero | .badFold | .below => st
      | .above =>
        if prod = 0 then st else { st with acc := 0, ps := if prod < 0 then -loMax else loMax, sat := true, ovf := true }
      | .ok e0 =>
        let sr := p.sRow n r
        if Prod.scVal p.h (p.hRow m r) (p.hCol k0 r) * Prod.scVal p.s sr k0 * pow2 (-16 * (sp : Int) + pieceExp pi qi) < pow2 (-64) then st
        else
          let ex : Int := e0 + x.e + y.e + loBias p.h.d.fmt + loBias p.s.d.fmt + pieceExp pi qi - grid
          let v := prod * (Prod.scMant p.s sr k0 : Nat)
          let term : Int := if ex ≥ 0 then v * 2 ^ ex.toNat else v / 2 ^ (-ex).toNat
          let (u, s1) := loTerm sig st.done st.ps term
          { st with ps := u, sat := st.sat || s1, done := true, ovf := st.ovf || s1 }) st

/-- The window counts of a segment's block pairs for one output: each pair at its largest product, and each later pass or piece
below the window in which the segment's part of the pair holds an element (04 R126, Table 4.4; which passes of a pair count is
DEDUCED, log 15). -/
def loCounts (p : Prod) (th ts : W32) (m n : Nat) (g : Nat) (held : List (Nat × Stave)) : WinCount :=
  let seg0 := (p.segs.getD g (0, 0, 0)).2.1
  let starts := (p.runsIn g).filter fun x => p.blockStart x.1 x.2.1 || x.2.1 = seg0
  starts.zipIdx.foldl (fun (wc : WinCount) ((r, k0, _), i) =>
    let len := match starts[i + 1]? with
      | some x => x.2.1 - k0
      | none => held.length
    let mine := (held.drop (k0 - seg0)).take len
    let one := if p.blockStart r k0 then 1 else 0
    match p.pair th ts m n r k0 with
    | .below => { wc with below := wc.below + one }
    | .above => { wc with above := wc.above + one }
    | .ok _ =>
      let base := Prod.scVal p.h (p.hRow m r) (p.hCol k0 r) * Prod.scVal p.s (p.sRow n r) k0
      let late := (List.range 3).flatMap fun sp => (pieceOrder p.w32x).filter fun (pi, qi) =>
        base * pow2 (-16 * ((sp : Nat) : Int) + pieceExp pi qi) < pow2 (-64)
          && mine.any fun (top, x) => spanPass p.h.d.fmt top x.e = some sp
      { wc with below := wc.below + late.length }
    | _ => wc) {}

/-- One output of a lower tile after segment `hs`, whose held row is `a` of it. The spec orders neither the passes of a segment
nor the segments among each other; here every span pass and piece pair of a segment runs before the next segment, which
matters only once a sum saturates. DESIGN CHOICE (log 15) (03 R72 to R74, R87, R88; 04 Table 4.4, R143, R148, R149). -/
def lowerSeg (p : Prod) (hs : HeldSeg) (eref : Option Int) (th ts : W32) (m n a : Nat) (sig : Option W32) (start : Acc) : OutRes :=
  let grid : Int := eref.getD 0 - 46
  let (r, seg0, seg1) := p.segs.getD hs.seg (0, 0, 0)
  let row := hs.rows.getD a []
  let tops := bayTops row
  let held := row.zipIdx.map fun (x, j) => (tops.getD (j / 16) 1, x)
  let strm := (List.range (seg1 - seg0)).map fun j => p.sEl (p.sRow n r) (seg0 + j)
  let runs := (p.runsIn hs.seg).map fun x => (x, p.pair th ts m n x.1 x.2.1)
  let tag := runs.foldl (fun (t : Tag) ((_, k0, k1), pr) =>
    if pr = .invalid then .nan
    else (((held.zip strm).drop (k0 - seg0)).take (k1 - k0)).foldl (fun u (x, y) => u.join (x.2.cls.meet y.cls)) t) .none
  let inx := (held.zip strm).any fun (x, y) => x.2.sub || y.sub
  let (o1, f1) := addTag start tag
  let sInt := loSigma grid th ts sig
  let waves := (List.range 3).flatMap fun sp => (pieceOrder p.w32x).map fun pq => (sp, pq)
  let t := waves.foldl (fun (st : LoSum) (sp, pi, qi) =>
    let part := runs.foldl (fun st ((r, k0, k1), pr) =>
      loRun p pr grid sInt sp pi qi r k0 ((held.drop (k0 - seg0)).take (k1 - k0)) ((strm.drop (k0 - seg0)).take (k1 - k0)) m n st) st
    let (v, s2) := loSat (part.acc + part.ps)
    { part with acc := v, ps := 0, sat := part.sat || s2, ovf := part.ovf || s2 }) { acc := o1.a, sat := o1.sat, done := o1.sg }
  let (o2, f2) := if t.done && !o1.sg then addTag o1 (sigmaTag sig) else (o1, 0)
  let wc := loCounts p th ts m n hs.seg held
  ({ o2 with a := t.acc, sat := t.sat, sg := t.done },
    f1 ||| f2 ||| flagIf t.ovf fOVF ||| flagIf (wc.below > 0) fUNF ||| flagIf inx fINX, wc)

/-- The last wave of a lower tile: a sideboard term not yet added is added (04 R143). -/
def lowerEnd (eref : Option Int) (th ts : W32) (sig : Option W32) (o : Acc) : Acc × Flags :=
  if o.sg then (o, 0)
  else
    let (o1, f1) := addTag o (sigmaTag sig)
    let (v, s) := loSat (o1.a + (loSigma (eref.getD 0 - 46) th ts sig).getD 0)
    ({ o1 with a := v, sat := o1.sat || s, sg := true }, f1 ||| flagIf s fOVF)

/-! Whole tiles -/

/-- One output after a segment, and after the tile's last wave. -/
def Prod.outSeg (p : Prod) (hs : HeldSeg) (e : Option Int) (th ts : W32) (m n a : Nat) (sig : Option W32) (o : Acc) : OutRes :=
  if p.lower then lowerSeg p hs e th ts m n a sig o else upperSeg p hs e th ts m n a sig o
def Prod.outEnd (p : Prod) (e : Option Int) (th ts : W32) (sig : Option W32) (o : Acc) : Acc × Flags :=
  if p.lower then lowerEnd e th ts sig o else upperEnd e th ts sig o

/-- Digit planes that the bays skip in one pass of a segment: a plane of a vector whose digits are zero in every column of a
bay. A bay that holds no element of the segment is not counted (03 R89, R91, DEDUCED). -/
def Prod.skips (p : Prod) (g : Nat) (ns : List Nat) : Nat :=
  let (r, a, b) := p.segs.getD g (0, 0, 0)
  let w := 16 / p.staves
  let bits := if p.lower then 10 else fmtBits p.s.d.fmt
  let groups := planeGroups (boothDigits p.s.d.fmt) p.perCycle
  let pass (digits : Nat → Nat → Int) : Nat :=
    (ns.map fun n => ((List.range (cdiv (b - a) w)).map fun y =>
      let cols := (List.range (min (y * w + w) (b - a) - y * w)).map fun j => digits (p.sRow n r) (a + y * w + j)
      (groups.filter fun g => g.all fun kk => cols.all fun c => boothDigit bits c kk = 0).length).sum).sum
  if p.lower then
    ((pieceOrder p.w32x).map fun q => pass fun sr kk => ((p.sEl sr kk).h.getD q.2 0)).sum
  else pass fun sr kk => signedCode p.s.d.fmt (p.s.code sr kk)

/-- The anchor Ea of an upper tile (03 R81). -/
def upperAnchor (ps : List (Nat × Nat × Nat × Nat × Nat × Pair)) : Option Int :=
  ps.foldl (fun a x => match x.2.2.2.2.2, a with
    | .ok e, none => some e
    | .ok e, some b => some (min b e)
    | _, a => a) none

/-- The reference exponent Eref of a lower tile: the largest magnitudes over whole runs, so that the cask does not move it, of
every block but those of pairs outside the window (03 R86, R95; 04 R126, R143). -/
def lowerRef (p : Prod) (refs sefs : Nat → W32) (ps : List (Nat × Nat × Nat × Nat × Nat × Pair)) (sig : List (Nat × Nat × Option W32)) :
    Option Int :=
  let bound (v : View) (row i : Nat) (ref : W32) (len : Nat) : Rat :=
    let fold := if v.d.scaled then tsVal (v.ts row i) / tsVal ref else 1
    if v.invalid row i || v.zero row i then 0
    else if v.d.fmt = fmtG8 ∨ v.d.fmt = fmtG12 then fmtTarget v.d.fmt * sc8Val (v.sc row i) * fold
    else ((List.range len).map fun j => (v.coded row (i + j)).mag * fold).foldl max 0
  let ok := ps.filter fun x => match x.2.2.2.2.2 with
    | .below | .above | .badFold => false
    | _ => true
  let mh := (ok.map fun (m, _, r, k0, k1, _) => bound p.h (p.hRow m r) (p.hCol k0 r) (refs m) (k1 - k0)).foldl max 0
  let ms' := (ok.map fun (_, n, r, k0, k1, _) => bound p.s (p.sRow n r) k0 (sefs n) (k1 - k0)).foldl max 0
  let sg := (sig.map fun (m, n, x) => match x.map fun g => decFp32 g with
    | some (.fin _ a) => a / (tsVal (refs m) * tsVal (sefs n))
    | _ => 0).foldl max 0
  let r := max (mh * ms') sg
  if r = 0 then none else
    let e := ratLog2 r
    some (if pow2 e = r then e else e + 1)

/-- Move an open slot's outputs onto a new anchor: upper multiplies, lower shifts with floor (07 R242). -/
def reanchor (lower : Bool) (old new : Int) (o : Acc) : Acc × Flags :=
  if lower then ({ o with a := o.a / 2 ^ (new - old).toNat }, 0)
  else
    let v := o.a * 2 ^ (old - new).toNat
    if v > upMax then ({ o with a := upMax, sat := true }, fOVF)
    else if v < -upMax then ({ o with a := -upMax, sat := true }, fOVF)
    else ({ o with a := v }, 0)

/-- The exact value of a drained output, sideboard term included (04 R122, R143). A tile without an anchor gives bit 0 no
weight, yet Table 4.4 saturates its outputs where every pair lies above the window: bit 0 then has the weight T_h × T_s
(exponent 0). DESIGN CHOICE (log 15). -/
def outExact (lower : Bool) (anchor : Option Int) (th ts : W32) (o : Acc) : Fv :=
  if o.inv then .nan
  else match o.tag with
    | .nan => .nan
    | .pinf => .inf false
    | .ninf => .inf true
    | .none =>
      .ofRat ((o.a : Rat) * pow2 (if lower then anchor.getD 46 - 46 else anchor.getD 0) * (tsVal th * tsVal ts) + (decFp32 o.sig).toRat)

end Sys2Proof.Machine
end

