-- ==== Sys2Proof/Machine/State.lean ====
section
/-! DEFINITION. The state of the module as plain data, its reset, and the reasons a step can stop. Each field cites the
chapter and rule that names it; INVENTORY.md lists them all. -/

namespace Sys2Proof.Machine

/-- Why the machine stops. -/
inductive Fault where
  /-- A command of a block whose RSV bits are off their reset value: "every behaviour of the register's own block is
  unspecified" (00 R704). Raised by every command of that block. Safe: the manual gives no effect. -/
  | rsvUnspecified
  deriving DecidableEq, Repr

/-- Why the model has no meaning for a command. -/
inductive Refusal where
  /-- The command has no meaning in the model yet. Raised by Dispatch only. Safe. -/
  | notModelled (mnemonic : String)
  deriving DecidableEq, Repr

/-! Rooms -/

/-- A latched group entry (12 Table 12.1, R420, R422). -/
structure Group where
  idx : Nat
  count : Nat
  rank : Nat
  shape : Nat
  fanout : Nat
  root : Nat
  house : Bool
  /-- Module number and lease index of each member. -/
  members : List (Nat × Nat)
  /-- The permutation array; [] when absent. -/
  perm : List Nat
  deriving DecidableEq, Repr

/-- What holds a room sequencer's issue (06 R187, R189, R210, R211; 07 R260, R262; 05 R180; 08 R291). -/
inductive Hold where
  | none
  | wait (token : Nat) (v : W32)
  | fence (scope : Nat)
  /-- Group operand, and for a table group the entry latched at issue, the arrival number, and how far the arrival is: 0 not sent, 1
  sent, 2 in its slot at the barrier root (12 R422, R428). -/
  | barrier (g : Nat) (grp : Option Group) (n st : Nat)
  | publish (g : Nat)
  /-- kind 0 CHECK, 1 COMMIT, 2 ADVANCE, 3 ABORT; step number; verdict scalar; SKIP. -/
  | stp (kind g step dst : Nat) (skip : Bool)
  /-- ADVANCE or ABORT has acted; the swap acknowledgement is awaited. -/
  | swapAck
  /-- An instruction fetch waits on a translation fault. -/
  | fetch (wid : Nat)
  deriving DecidableEq, Repr

/-- A room sequencer (06 R186). -/
structure Seqr where
  /-- Context and launch slot it runs. -/
  launch : Option (Nat × Nat) := .none
  pc : Nat := 0
  ended : Bool := false
  hold : Hold := .none
  /-- PC and word of the instruction that holds issue; it completes when the hold ends (06 R189). -/
  owed : Option (Nat × TWord) := .none
  /-- Issue is stopped for pre-emption (08 R302) or by a fault of the launch (06 R191). -/
  stopped : Bool := false
  deriving DecidableEq, Repr

/-- A mover's progress (08 R296 to R299). -/
structure Mover where
  /-- UNIT of Table 8.11: 0 MOV, 1 MOVB, 2 spout, 3 COLL, 4 RACK, 5 RESHARD. -/
  unit : Nat
  /-- The units: runs of (source address, destination address, bytes). -/
  units : List (List (Nat × Nat × Nat)) := []
  done : Nat := 0
  doneBytes : Nat := 0
  /-- The latched descriptors as read, and CHECK (R298). -/
  raw : List Byte := []
  check : Nat := 0
  /-- Waiting on a translation fault. -/
  wait : Option Nat := none
  /-- Source bytes held by source address: fetched from the fabric, read by the spout, or kept because source and
  destination overlap (07 R237). -/
  staged : Mem := []
  /-- 32-byte sectors of its destination, by address, that its source overlaps (07 R237). -/
  lap : List Nat := []
  /-- The spout's vector buffer: the vectors with their scales and zero points, by pantry offset, as read at issue (03 R108). -/
  vbuf : Mem := []
  /-- Addresses of fabric requests not yet answered. -/
  asked : List Nat := []
  /-- The unit's fabric writes have been sent. -/
  sent : Bool := false
  /-- TOTAL of a COLL or RESHARD: the fragments of its results, or of the plan's IN extents (R296). -/
  total : Nat := 0
  /-- Its mover record in steward scratch, as last written: at a fault, or at pre-emption (08 R298, Table 8.11). -/
  record : List Byte := []
  /-- Stopped by pre-emption or a resolved fault; MOVER_RESUME restarts it (08 R297, R299). -/
  paused : Bool := false
  deriving DecidableEq, Repr

/-- A collective operation in flight (12 R424 to R438). -/
structure ColOp where
  group : Group
  seq : Nat
  kind : Nat
  op : Nat
  sel : Nat
  vint : Bool
  /-- The vintage it sends: COMMITS at issue (13 R462). -/
  vintage : Nat
  /-- The source bytes have been read (into the mover's `staged`). -/
  loaded : Bool := false
  /-- Ranks whose READY has come, and those that have paused (R426, R436). -/
  ready : List Nat := []
  paused : List Nat := []
  /-- Fragments sent per rank; fragments received: rank, number, bytes. -/
  sent : List (Nat × Nat) := []
  /-- Fragments of all its streams: the operation is over once they are sent and its destination is written. -/
  toSend : Nat := 0
  rx : List (Nat × Nat × List Byte) := []
  /-- The results, by destination address, once every stream has come. -/
  formed : Bool := false
  img : Mem := []
  deriving DecidableEq, Repr

/-- A RACK in flight (10 R362 to R364): its first micro-batch slot and count, the time of its issue, the slots copied, those the
deadline has made late, and the slot whose remote writes are not yet acknowledged with its position and state. -/
structure RackOp where
  first : Nat
  count : Nat
  t : Nat := 0
  copied : List Nat := []
  late : List Nat := []
  cur : Option (Nat × Nat × Nat) := none
  deriving DecidableEq, Repr

/-- An issued instruction that has not completed (06 R187 to R189, R194). -/
structure Infl where
  uid : Nat
  pc : Nat
  op : Nat
  w : TWord
  descs : List Desc
  epoch : Nat
  /-- Tiles not yet finished. -/
  tilesLeft : Nat := 0
  /-- Tiles still in the sequencer, waiting for a place in their trellis's queue (06 R209): ordinal, row block, vector group,
  trellis, slot. -/
  toQueue : List (Nat × Nat × Nat × Nat × Nat) := []
  /-- Every effect has been made; INSTRUCTION_COMPLETE completes it. -/
  ready : Bool := false
  /-- Pantry ranges it may still write (06 R188). -/
  writes : List (Nat × Nat) := []
  /-- Conversion-error elements of unfinished destination tiles (05 R165). -/
  meas : List Meas := []
  mv : Option Mover := none
  col : Option ColOp := none
  rack : Option RackOp := none
  deriving DecidableEq, Repr

/-- One trellis tile of an instruction (06 R207, R208). -/
structure TileJob where
  uid : Nat
  ord : Nat
  rb : Nat
  vg : Nat
  slot : Nat
  mode : Nat
  /-- K segments, and how many have been loaded (03 R106). -/
  segs : Nat
  loaded : Nat := 0
  /-- The sideboard terms are ready or none are needed; the terms by held row and vector (04 R142). -/
  sbReady : Bool := true
  sigma : List (List (Option W32)) := []
  /-- Digit planes skipped in one span pass of the segments so far, and the span passes the worst bay needs (03 R72, R91). -/
  skips : Nat := 0
  passes : Nat := 1
  taste : Bool := false
  /-- A row-map write has met the tile in flight (03 Table 3.10). -/
  corrupt : Bool := false
  deriving DecidableEq, Repr

/-- State of an accumulator slot (03 R102 to R105, 07 Table 7.7). -/
inductive SlotSt where
  | free | filling | complete | opened
  deriving DecidableEq, Repr

/-- An accumulator slot: identity of its tile, anchor or reference exponent, reference tile scales by held row and by
vector, and outputs row by row (03 R81, R86, R105, R705). -/
structure Slot where
  st : SlotSt := .free
  uid : Nat := 0
  ord : Nat := 0
  dest : Nat := 0
  epoch : Nat := 0
  anchor : Option Int := none
  th : List W32 := []
  ts : List W32 := []
  outs : List (List Acc) := []
  /-- Headroom entries, by VA, that short-run overflows of the OPEN and MORE tiles held here mark when the sums land (04 R128). -/
  pend : List Nat := []
  deriving DecidableEq, Repr

/-- A trellis: tiles queued, tiles whose first digit has entered, the segment in the staves and the one in their shadow copies,
slots, and the landing port (03 R102, R106, 04 R119). -/
structure Trellis where
  queue : List TileJob := []
  flying : List TileJob := []
  cur : Option HeldSeg := none
  shadow : Option HeldSeg := none
  /-- When its last tile in flight ended (20 R667). -/
  idleSince : Nat := 0
  slots : List Slot := [{}, {}, {}, {}]
  /-- Complete tiles waiting to drain, in order. -/
  drains : List TileJob := []
  port : Option (TileJob × Slot) := none
  deriving DecidableEq, Repr

/-- A tasted tile: its operands as the tasting buffer holds them, scaled G16 (04 R146, 05 R166). -/
structure TasteJob where
  uid : Nat
  ord : Nat
  mode : Nat
  trellis : Nat
  dest : Desc
  /-- The buffer, and the operands in it, each with the tile's rows only; filter rows and stride. -/
  buf : Mem
  h : Desc
  s : Desc
  fr : Nat
  stride : Nat
  /-- Held rows and vectors of the tile in the tensors. -/
  ms : List Nat
  ns : List Nat
  sigma : List (List (Option W32))
  /-- What the slot held when the tile began, for a MORE or CLOSE tile. -/
  start : List (List Fv)
  /-- The narrow outputs have been written: row, position and value as decoded then, those of invalid blocks left out. -/
  landed : Bool := false
  y : List (Nat × Nat × Fv) := []
  deriving DecidableEq, Repr

/-- A room (06, 08 Table 8.2). -/
structure Room where
  /-- 0 active, 1 spare, 2 retired, 3 under test (21 Table 21.16). -/
  role : Nat
  lease : Option (Nat × Nat) := none
  pantry : Mem := []
  sreg : List W64 := List.replicate 16 0
  tok : List W32 := List.replicate 16 0
  seqr : Seqr := {}
  infl : List Infl := []
  /-- Pantry bytes as they stood before an unfinished instruction, by its number, stored over them (06 R188). -/
  prior : List (Nat × Mem) := []
  nextUid : Nat := 0
  trell : List Trellis := List.replicate 12 {}
  taste : List TasteJob := []
  /-- INV-in-step (13 R465). -/
  invStep : Bool := false
  /-- Clock stretch s and whether it is recovering (16 R548). -/
  stretch : Nat := 0
  recovering : Bool := false
  /-- Reference clock gated (21 R682). -/
  gated : Bool := false
  deriving DecidableEq, Repr

/-! Contexts -/

/-- A launch record (06 Table 6.5). -/
structure LaunchRec where
  entry : Nat
  dtab : Nat
  dtabCount : Nat
  first : Nat
  count : Nat
  flags : Nat
  tag : Nat
  args : List Byte
  deriving DecidableEq, Repr

/-- An accepted launch (06 R214 to R218). -/
structure Launch where
  lr : LaunchRec
  seq : Nat
  running : Bool := false
  tAccept : Nat := 0
  events : W64 := 0
  flags : Flags := 0
  /-- First fault: code, lease index, PC (06 R191). -/
  fault : Option (Nat × Nat × Nat) := none
  faultT : Nat := 0
  /-- Lease indices whose stream has ended (06 R190). -/
  ended : List Nat := []
  /-- An ADVANCE or ABORT of this launch was the last STP to act (13 R481). -/
  closed : Bool := false
  deriving DecidableEq, Repr

/-- A launch slot (06 R215, R216; 18 R601). -/
structure LSlot where
  lastSeq : Nat := 0
  held : Option Nat := none
  launch : Option Launch := none
  deriving DecidableEq, Repr

/-- The context descriptor as created (06 Table 6.3). -/
structure CtxDesc where
  ptroot : Nat := 0
  jobKey : Nat := 0
  stats : Nat := 0
  policy : Nat := 0
  save : Nat := 0
  ledger : Nat := 0
  registry : Nat := 0
  groups : Nat := 0
  cpl : Nat := 0
  msix : Nat := 0
  priority : Nat := 0
  roomsMin : Nat := 1
  roomsMax : Nat := 1
  pantryNeed : Nat := 0
  quantumUs : Nat := 0
  ladders : Nat := 0
  deriving DecidableEq, Repr

/-- A context's evaluation at a step boundary (05 R169 to R174). -/
structure VntEval where
  /-- The reduced records, by layer × 2 + ladder; PUBLISH has completed. -/
  reduced : List (Nat × List Byte) := []
  published : Bool := false
  /-- Each wing has evaluated. -/
  done : Bool := false
  /-- The wings differed and the firmware result is awaited (05 R169). -/
  firmware : Bool := false
  /-- The policy record as the evaluation reads it, and the entries each wing evaluated, once it has. -/
  policy : List Byte := []
  kept : List (List (Nat × BitVec 128)) := []
  /-- LSETs since those entries were kept: table index and image. -/
  lsets : List (Nat × Nat) := []
  /-- The boundary has passed: the copies only stay until ADVANCE or ABORT retires. -/
  finished : Bool := false
  deriving DecidableEq, Repr

/-- A minority member fetches its digest set again (14 R511): the source member, the root it must reach, and the reads
still open. -/
structure Rebuild where
  src : Nat
  want : List Byte
  left : Nat
  /-- Further members to fetch from, each with its root, when this one does not serve (R512). -/
  more : List (Nat × List Byte) := []
  deriving DecidableEq, Repr

/-- A context (06 R199 to R205). -/
structure Ctx where
  d : CtxDesc
  events : W64 := 0
  flagsum : Flags := 0
  /-- Physical room of each lease index while sliced in. -/
  rooms : List Nat := []
  /-- Lease size L. -/
  size : Nat
  slicedOut : Bool := false
  /-- Saved room images by lease index: the room and its flag words and LND_CTL by frame offset (08 Table 8.12). -/
  saved : List (Nat × Room × List (Nat × W32)) := []
  ended : Bool := false
  noLaunch : Bool := false
  slots : List LSlot := List.replicate 64 {}
  /-- Completion records held back while Bus Master Enable is clear (18 R594). -/
  heldCpl : List (Nat × List Byte × Bool) := []
  /-- First ladder entry of the context's range (05 R183); the size is d.ladders. -/
  ladderBase : Nat := 0
  vnt : VntEval := {}
  /-- Operation sequence per group (12 R425), and barriers reached per group and lease index, as group × 2^16 + index (R428). -/
  opSeq : List (Nat × Nat) := []
  arrivals : List (Nat × Nat) := []
  /-- Mismatch mark of the open step, WAIT_CHECK deadline mark (12 R440, 10 R364). -/
  mismatch : Bool := false
  deadline : Bool := false
  /-- When its time-slice quantum began, and its length in ns; the quantum has expired and the context gives way; the context's place
  in the round-robin: the lowest comes in first (06 R203). -/
  quantum : Nat × Nat := (0, 2000000)
  rotate : Bool := false
  turn : Nat := 0
  /-- LND_CTL of lease index 0 when the context last left its rooms (04 R157). -/
  lnd : W32 := 0x00C30100
  /-- Root of the weight digest of the open step (14 R510); a rebuild as a minority member (R511); the quick test of all
  rooms is due (R512); COMMITS of past digests in whose minority this module was. -/
  digest : Option (List Byte) := none
  rebuild : Option Rebuild := none
  needQuick : Bool := false
  minority : List Nat := []
  /-- All members have passed the quick test of R512: the digest is taken again at the next CHECK. -/
  retake : Bool := false
  /-- Streams whose counter a restore has rewound (10 R377). -/
  skewed : Nat := 0
  /-- COMMITS of the last scheduled snapshot started (14 R490). -/
  schedAt : Option Nat := none
  /-- Roots of the members, by rank, when the last comparison found no majority (R512). -/
  roots : List (Nat × List Byte) := []
  /-- Delivered slots of the last CHECK by replica (its module numbers), for a later REPLICA_DROP (14 R505). -/
  delivered : List (List Nat × Nat) := []
  /-- FANOUT and trainer modules of its last rack job, which a closed job leaves behind for CHECK (10 R366). -/
  tgroup : Nat × List Nat := (1, [])
  /-- The step whose boundary ADVANCE has passed, so that a repeated ADVANCE passes it once (13 R480). -/
  crossed : Option Nat := none
  /-- CHECK waits no longer for replays of this step (15 R540); COMMIT waits for the guard's snapshot (14 R507). -/
  evidOver : Bool := false
  guardDue : Bool := false
  deriving DecidableEq, Repr

/-! Memory system -/

/-- For whom bytes behind another module's global address are read or written: an instruction fetch of a room, the word a mover reads
again, a launch's descriptor image, a RESHARD's plan and its extents (read, written), a RACK's receive slot, a racking write, a
request at a VIRT window, the record of a job that is opened, an entry of a clip table or random-access index, the statistics record that
a sample's counts enter (read, written) (06 R186, R193; 08 R284, R290, R299; 09 R322, R325, R328, R341; 10 R354, R358, R363; 12 R446). -/
inductive FarWho where
  | fetch (room : Nat)
  | resume (room uid : Nat)
  | load (ctx slot : Nat)
  | plan (room : Nat) (head : Bool)
  | resh (ctx : Nat) (wr : Bool)
  | ring (room uid : Nat)
  | racking (ctx g off : Nat)
  | window (src tag : Nat)
  | job (ctx : Nat)
  | clip (ctx va : Nat)
  | stat (ctx id : Nat) (wr : Bool)
  deriving DecidableEq, Repr

/-- A piece of at most 4 KiB behind another module's global address: its bytes, or that its write is acknowledged, once answered. -/
structure Far where
  who : FarWho
  ga : Nat
  data : Option (List Byte) := none
  deriving DecidableEq, Repr

/-- Who waits on a translation fault (08 R291). -/
inductive Waiter where
  | mover (room uid : Nat)
  | fetch (room : Nat)
  | press (ctx : Nat)
  | racking (ctx : Nat)
  /-- A request of the fabric held at a VIRT window (R290); its packet is in `winHeld` under the wait's number. -/
  | window
  /-- The descriptor-table image of a launch that is to start (06 R193). -/
  | load (ctx slot : Nat)
  /-- A reshard that the steward runs, by the context number of its journal (12 R451). -/
  | resh (ctx : Nat)
  deriving DecidableEq, Repr

/-- Where the resolution of a fault stands (08 R292, R293; 18 R608, R609). -/
inductive WaitSt where
  | steward
  | filling (frame slotAddr pte : Nat)
  | host (fid : Nat)
  | queued
  deriving DecidableEq, Repr

/-- A translation fault being resolved; the fields of its mover record (08 Table 8.11). -/
structure WaitF where
  wid : Nat
  ctx : Nat
  who : Waiter
  st : WaitSt := .steward
  /-- The faulting address, and whether it is a global address (ACCESS[3]). -/
  va : Nat
  glob : Bool := false
  cause : Nat
  level : Nat
  pte : Nat
  access : Nat
  unit : Nat
  /-- When the host was handed the fault (R293). -/
  handT : Nat := 0
  pc : Nat := 0
  t : Nat := 0
  done : Nat := 0
  total : Nat := 0
  doneBytes : Nat := 0
  check : Nat := 0
  lease : Nat := 0
  deriving DecidableEq, Repr

structure Mmu where
  waits : List WaitF := []
  nextWid : Nat := 0
  /-- Fabric requests held at VIRT windows: wait, port, packet (08 R290). -/
  winHeld : List (Nat × Nat × Packet) := []
  /-- Pieces that lie behind other modules' addresses, asked for and answered (08 R284). -/
  far : List Far := []
  /-- Writes of units that never fault to words behind other modules' addresses, not yet sent (08 R284; log 16). -/
  posted : List Packet := []
  /-- An invalidation is running: the value written, and the first address of its range as it stood then (08 R287). -/
  inval : Option (W32 × Nat) := none
  /-- Retired 64 KiB frames (08 R308). -/
  retired : List Nat := []
  deriving DecidableEq, Repr

/-- One wing's vintner: entries that differ from their reset value, current and pending (05 R174, R183). -/
structure Vnt where
  cur : List (Nat × BitVec 128) := []
  pend : List (Nat × BitVec 128) := []
  deriving DecidableEq, Repr

/-! Time base (16) -/

structure Tb where
  /-- The root count, ns since start (16 R550). -/
  root : W64 := 0
  /-- Rate of the root, ns in 10^9 (16 R559), and the fraction of a ns not yet counted, in units of 10^-9 ns. -/
  rate : Int := 0
  frac : Int := 0
  /-- Replicas that do not follow the root: those ahead of it, and those behind it until its next load (16 R551). -/
  replicas : List (Nat × Nat) := []
  slips : Nat := 0
  /-- Islands whose reference is gated, and their last count (16 R553). -/
  gated : List (Nat × Nat) := []
  /-- Measurements that have failed in a row (16 R561). -/
  fails : Nat := 0
  deriving DecidableEq, Repr

/-! Fabric (11) -/

/-- A DATA flit of the transmit side: its lane, payload words, the packet they belong to, and its resends (11 R386 to
R390). -/
structure TxFlit where
  seq : Nat := 0
  vl : Nat
  resent : Nat := 0
  words : Nat
  payload : List Byte
  pkt : Packet
  /-- The last flit of its packet. -/
  last : Bool := true
  deriving DecidableEq, Repr

/-- A Gysal port; its STATE, RETRAINS and flags stand in FAB_PORT (11 R379 to R392, Table 11.15). -/
structure Port where
  trainSent : Bool := false
  trainSeen : Bool := false
  /-- The peer's receive buffer per lane. -/
  bufs : List Nat := [0, 0, 0, 0]
  /-- Flits not yet sent, in order, and flits sent and not acknowledged. -/
  txq : List TxFlit := []
  replay : List TxFlit := []
  /-- The weighted round robin: the lane whose turn it is and its flits left; on VL3 the excess of collective flits over three per
  rack flit, and whether a collective or a rack packet is under way (11 R391; 01 Table 1.7). -/
  turn : Nat × Nat := (2, 4)
  deficit : Int := 0
  under : Option Bool := none
  /-- Last FSEQ sent, last FSEQ accepted. -/
  txSeq : Nat := 0
  aseq : Nat := 0
  /-- Credits spent, the peer's last CFREE, and what this port has freed, per lane, running modulo 256. -/
  spent : List Nat := [0, 0, 0, 0]
  seen : List Nat := [0, 0, 0, 0]
  cfree : List Nat := [0, 0, 0, 0]
  /-- A NAK has been sent for the expected flit. -/
  nakSent : Bool := false
  /-- Bytes of a partial packet per lane. -/
  part : List (List Byte) := [[], [], [], []]
  /-- The header of a lane's partial packet was older than its lifetime (11 R404). -/
  stale : List Bool := [false, false, false, false]
  /-- Bulk flits whose buffer is not freed while the racking stage is held (08 R300). -/
  kept : Nat := 0
  /-- Last HELLO heard on the port, and when. -/
  hello : Option (Hello × Nat) := none
  /-- Packets of a lost link that wait LIFETIME (11 R405). -/
  lost : List Packet := []
  deriving DecidableEq, Repr

/-- A partner entry (11 Table 11.13). -/
structure Partner where
  serial : Nat
  num : Option Nat := none
  role : Nat := 0
  feed : Nat := 0xFF
  health : Nat := 0
  nearHello : Bool := false
  announced : Bool := false
  lastSeen : Nat := 0
  annT : Nat := 0
  ports : Nat := 0
  pos : Nat := 0xFF
  deriving DecidableEq, Repr

/-- A sealed piece of this module's position that a holder has listed (14 Table 14.7). -/
structure Located where
  holder : Nat
  gen : Nat
  idx : Nat
  commits : Nat
  off : Nat
  sha : List Byte
  deriving DecidableEq, Repr

/-- What a fabric request is for. -/
inductive ReqFor where
  /-- A mover's unit reads or writes a global address. -/
  | moverRd (room uid va n : Nat)
  | moverWr (room uid unit : Nat)
  /-- A collective fragment or control of an operation of a room; a RACK packet; a press source chunk. -/
  | col (room uid : Nat)
  | rack (c g : Nat)
  | press (c id off : Nat)
  /-- A piece behind another module's address (08 R284); a room's or a reshard's arrival at a group barrier (12 R428, R446). -/
  | far (who : FarWho) (ga : Nat)
  | arrival (ctx lease : Nat)
  | arrivalResh (ctx : Nat)
  /-- A steward frame fill from a global address. -/
  | fill (wid off : Nat)
  /-- A snapshot piece: its offer to candidate n, a write, its copy at the third location, its seal (14 R492 to R495);
  a read of a rebuild (14 R511). -/
  | snapOffer (c idx n : Nat)
  | snapWr (c idx : Nat)
  | snapThird (c idx : Nat)
  | snapSeal (c idx : Nat)
  | rebuild (c va : Nat)
  /-- SNAP_LOCATE to a member, a read of a located piece, a read of a class-1 range (14 R501). -/
  | locate (m : Nat)
  | pieceRd (l : Located) (off : Nat)
  | refetch (m va : Nat)
  | mgmt
  | echo (tag : Nat)
  | timing
  deriving DecidableEq, Repr

/-- A request that waits for its response (11 R406). -/
structure FabReq where
  tag : Nat
  who : ReqFor
  pkt : Packet
  expiries : Nat := 0
  /-- Tag of the ECHO sent at the last expiry, and whether it was answered. -/
  echoTag : Option Nat := none
  echoOk : Bool := false
  deriving DecidableEq, Repr

structure Fab where
  /-- Module number, when ASSIGN or a takeover has given one (11 R394, R412). -/
  num : Option Nat := none
  /-- The position this module has taken over (14 R502). -/
  taken : Option Nat := none
  /-- SLOT_ID and FEED_ID straps (11 R395, R416). -/
  slotId : Nat := 15
  feedId : Nat := 0xFF
  /-- The pins themselves, sampled in BOOT (22 R694). -/
  slotPin : Nat := 15
  feedPin : Nat := 0xFF
  ports : List Port := List.replicate 32 {}
  /-- Route-table entries that are not 0 (11 R398). -/
  route : List (Nat × Nat) := []
  partners : List Partner := []
  /-- The fabric manager's serial and module number once known (11 R412). -/
  manager : Option (Nat × Nat) := none
  /-- ASSIGN has been accepted since READY. -/
  assigned : Bool := false
  reqs : List FabReq := []
  nextTag : Nat := 1
  /-- Packets that have arrived whole: port (32 for this module itself) and packet. -/
  inbox : List (Nat × Packet) := []
  /-- The last 16 stop waves handled (11 R408). -/
  stops : List (Nat × Nat) := []
  /-- TRAIN exchanges refused for their version (11 R383), flits of a reserved FTYPE (R385), ANNOUNCEs refused (R415). -/
  refused : Nat := 0
  badFtype : Nat := 0
  noRoom : Nat := 0
  deriving DecidableEq, Repr

/-! Debug (17) -/

/-- A trace record (17 Table 17.4). -/
structure TraceRec where
  t : Nat
  island : Nat
  unit : Nat
  ty : Nat
  flags : Nat
  sseq : Nat
  pay : List Byte
  deriving DecidableEq, Repr

structure Dbg where
  /-- Per source: next SSEQ, queued records (at most 16), records lost since the last LOST record (17 R576, R579). -/
  sseq : List (Nat × Nat) := []
  queues : List (Nat × List TraceRec) := []
  qlost : List (Nat × Nat) := []
  /-- Latched at ARM: capacity in records and spill base (17 R578, 21 R685). -/
  cap : Nat := 2097152
  spill : Nat := 0
  /-- Records written since arming; records still to take after the trigger; triggers since arming. -/
  written : Nat := 0
  postLeft : Nat := 0
  trigs : Nat := 0
  /-- Counts the model keeps, their shadows, and the islands whose shadow is stale (17 R569, R571, R572). -/
  counts : List (Nat × Nat) := []
  shadow : List (Nat × Nat) := []
  stale : List Nat := []
  /-- Sample ring as latched (21 R685) and the next sample's sequence. -/
  sampleBase : Nat := 0
  sampleSize : Nat := 0
  sampleSeq : Nat := 0
  /-- Debug unlock (17 R577). -/
  unlocked : Bool := false
  /-- Time base at the global stop, when one has been raised (17 R583). -/
  stopT : Option Nat := none
  /-- STOP# is driven low by this module; its level as sampled (22 R695). -/
  stopDriven : Bool := false
  /-- When it last released STOP# (22 R695). -/
  stopRel : Option Nat := none
  deriving DecidableEq, Repr

/-! Press (09) and racking engine (10) -/

/-- A press job as latched at open: the record's bytes (09 Table 9.6), its bad-clip list, and its maximum sample size. -/
structure PressJob where
  rec' : List Byte
  maxSize : Nat
  bad : List Nat := []
  deriving DecidableEq, Repr

/-- A decoded picture in the press (09 R326, R339): the chunks cut when its access unit was, the access unit, the picture's number in it,
its field (0 the frame, 1 or 2 a field), or a mid-grey replacement. -/
structure Pic where
  chunks : Nat
  au : Nat
  n : Nat
  field : Nat := 0
  grey : Bool := false
  deriving DecidableEq, Repr

/-- A sample in the press (09 R315 to R342). -/
structure Sample where
  id : Nat
  ctx : Nat
  /-- Global position, index and epoch (10 R350). -/
  g : Nat
  idx : Nat
  epoch : Nat
  cluster : Nat
  /-- Clip table index and entry. -/
  clip : Nat
  entry : List Byte
  /-- First source byte offset and the display frame there; chunks fetched, their bytes by offset, those that could not be read, and the
  fabric pieces asked. -/
  start : Nat := 0
  startFrame : Nat := 0
  fetched : Nat := 0
  src : List (Nat × List Byte) := []
  lost : List Nat := []
  asked : List Nat := []
  /-- Chunks parsed; the units of the chunk in the demultiplexer not yet routed; the last needed chunk has been parsed. -/
  parsed : Nat := 0
  units : Option (List Nat) := none
  parsedAll : Bool := false
  core : Option Nat := none
  /-- Units waiting in the access-unit, audio and caption queues, each with the chunks parsed when it was cut; units taken from each. -/
  auQ : List Nat := []
  audioQ : List Nat := []
  capQ : List Nat := []
  auNo : Nat := 0
  audioNo : Nat := 0
  capNo : Nat := 0
  seq : Option SeqHdr := none
  /-- Granules of 64 KiB reserved in the wing's DPB pool. -/
  dpb : Option Nat := none
  /-- Display frames counted since the start, output frames decoded; those still in the DPB, those in the output queue, the last one. -/
  disp : Nat := 0
  pics : Nat := 0
  ready : List Pic := []
  outQ : List Pic := []
  last : Option Pic := none
  /-- Output frames tensorized; those of the block in progress; finished blocks in the sample block buffer; the sections so far by offset
  in the sample. -/
  frames : Nat := 0
  group : List Pic := []
  blocks : Nat := 0
  tensor : Mem := []
  /-- Bytes held in the PCM buffer; stretches of sound replaced by silence; the caption section. -/
  pcm : Nat := 0
  silent : List (Int × Nat) := []
  caps : List Byte := []
  lead : Nat := 0
  decoded : Nat := 0
  concealed : Nat := 0
  flagConceal : Bool := false
  capLoss : Bool := false
  spans : Nat := 0
  omitted : Nat := 0
  /-- Problems met so far, by reason (09 Table 9.10). -/
  reasons : List Nat := []
  /-- The sample is finished or dropped (`true`) and waits on the write of the statistics record (09 R341; 08 R300). -/
  held : Option (Bool × Bool) := none
  deriving DecidableEq, Repr

structure Prs where
  /-- Press size setting in GiB; none when never written (08 R276). -/
  sizeSet : Option Nat := none
  /-- The size in force since the last start. -/
  size : Nat := 24
  jobs : List (Nat × PressJob) := []
  samples : List Sample := []
  nextId : Nat := 0
  /-- Waiting DPB requests of each wing: sample and granules, in request order (09 R318). -/
  dpbQ : List (List (Nat × Nat)) := [[], []]
  /-- Admissions of each job in the round-robin's present round (09 R330). -/
  turns : List (Nat × Nat) := []
  deriving DecidableEq, Repr

/-- A position's arrival in the receive ring (10 R357 to R361): 0 arriving, 1 full, 2 dropped, 3 discarded. -/
structure Arrival where
  g : Nat
  got : List (Nat × Nat) := []
  total : Option Nat := none
  st : Nat := 0
  /-- When it became full or dropped (10 R367). -/
  t : Nat := 0
  deriving DecidableEq, Repr

/-- A rack job (10 Table 10.3, R352 to R361). -/
structure RackJob where
  key : Nat
  n : Nat
  micro : Nat
  fanout : Nat
  policy : Nat
  lookahead : Nat
  deadline : Nat
  recv : Nat
  slotBytes : Nat
  /-- Module numbers of the trainer and producer groups' members. -/
  trainers : List Nat
  producers : List Nat
  /-- The sample cursor. -/
  cursor : Nat
  arr : List Arrival := []
  /-- The next position this producer admits, and the horizons heard by trainer module. -/
  next : Nat := 0
  horizons : List (Nat × Nat) := []
  deriving DecidableEq, Repr

/-- A finished sample in the racking stage: its reservation, its bytes, and the copies not yet acknowledged (10 R358). -/
structure Staged where
  ctx : Nat
  g : Nat
  cluster : Nat := 0
  size : Nat
  bytes : List Byte
  sent : Bool := false
  waits : Nat := 0
  deriving DecidableEq, Repr

structure Rck where
  jobs : List (Nat × RackJob) := []
  stage : List Staged := []
  /-- Racking writes at the stage in order, the first of which holds on a fault or waits for the fabric: context, port and packet (08
  R300). -/
  held : List (Nat × Nat × Packet) := []
  deriving DecidableEq, Repr

/-! Collectives and reshards (12) -/

/-- A vintage-table key: context, group index, sending rank, LAYER and SLOT of the destination (12 R439). -/
structure VKey where
  ctx : Nat
  group : Nat
  rank : Nat
  layer : Nat
  slot : Nat
  deriving DecidableEq, Repr

/-- A reshard running on the module (12 R446 to R451). The journal itself lies in HBM. -/
structure Resh where
  ctx : Nat
  /-- Physical address of its journal. -/
  pa : Nat
  /-- Room and instruction number of the RESHARD, none when the steward runs it. -/
  inst : Option (Nat × Nat)
  /-- Operation sequence of the RESHARD (12 R425). -/
  seq : Nat := 0
  /-- Places of the round's OUT extents that are parked (12 R446). -/
  parked : List Nat := []
  /-- Ranks whose READY of the round has come, each with its operation sequence; those that have paused, with their modules; fragments
  sent per rank; stretches of streams that are still to be sent: rank, first fragment and the one after the last (12 R426, R436,
  R446). -/
  ready : List (Nat × Nat) := []
  paused : List (Nat × Nat) := []
  sent : List (Nat × Nat) := []
  owed : List (Nat × Nat × Nat) := []
  /-- Fragments received in the round: rank, number, bytes; sender's extents that have matched: rank and number in its stream; resends asked
  per extent, by rank and number (12 R446, R448). -/
  rx : List (Nat × Nat × List Byte) := []
  good : List (Nat × Nat) := []
  resends : List ((Nat × Nat) × Nat) := []
  /-- It has resumed past its parking: its peers send READY again (12 R450). -/
  again : Bool := false
  /-- Rank of the barrier root, and how far the arrival at the present barrier is: 0 not sent, 1 sent, 2 in its slot (12 R428, R446). -/
  root : Nat := 0
  arrive : Nat := 0
  deriving DecidableEq, Repr

structure Col where
  /-- READY, PAUSE and data packets that no operation in flight has taken yet. -/
  early : List Packet := []
  /-- The steward's reshard directory: context and journal address (12 R443). -/
  reshDir : List (Nat × Nat) := []
  /-- Journals, by context and address, whose reshard a reset has interrupted: launches wait for them (12 R451). -/
  cut : List (Nat × Nat) := []
  resh : List Resh := []
  /-- Vintage table (12 R439), at most 65,536 entries. -/
  vintages : List (VKey × Nat) := []
  deriving DecidableEq, Repr

/-! Host interface (18) -/

/-- The response side of a PF1 command slot (18 Table 18.4). -/
structure CmdSlot where
  status : Nat := 0
  detail : Nat := 0
  tagOut : Nat := 0
  rseq : Nat := 0
  rbody : List Byte := []
  deriving DecidableEq, Repr

/-- An NSP request in parts: source, REQ_ID, whole length, parts by offset (18 R612, R613). -/
structure NspPart where
  src : Nat
  reqId : Nat
  opcode : Nat
  total : Nat
  parts : List (Nat × List Byte) := []
  deriving DecidableEq, Repr

structure HostIf where
  /-- The 16 PF1 command slots (18 R604). -/
  cmds : List CmdSlot := List.replicate 16 {}
  /-- NSP: incomplete requests (at most 8), complete requests not yet executed, and the last 32 responses (18 R613). -/
  parts : List NspPart := []
  ready : List Req := []
  kept : List (Nat × Nat × Nat × List Byte) := []
  /-- Bus Master Enable of PF0 (18 R594). -/
  bme : Bool := false
  /-- PF0 BAR2 size in GiB (18 R591). -/
  bar2Gib : Nat := 1024
  /-- Unmasked MSI-X vectors and pending bits of PF0 and PF1 (18 R603). -/
  unmask0 : List Nat := []
  unmask1 : List Nat := []
  pend0 : List Nat := []
  pend1 : List Nat := []
  /-- Fault ring: host address and entries; next FID (18 R608). -/
  ring : Option (Nat × Nat) := none
  nextFid : Nat := 1
  /-- I3C dynamic address and MCTP endpoint ID, once assigned (18 R614). -/
  i3cAddr : Option Nat := none
  eid : Option Nat := none
  /-- Words latched by a read of a low word: interface, byte offset, value (18 R619). -/
  latch : List (Nat × Nat × W32) := []
  /-- An open command that waits for its job record (18 R605; 08 R284). -/
  waiting : Option Req := none
  deriving DecidableEq, Repr

/-- What the block has sent, in order (log 5). -/
inductive OutMsg where
  /-- A flit on a port: its 256 bytes; a TRAIN flit, whose words have no layout (11 R385, R383). -/
  | flit (port : Nat) (bytes : List Byte)
  | train (port : Nat) (f : TrainFlit)
  | msix (pf vec : Nat)
  /-- An NSP response: client, REQ_ID, opcode and payload, cut into datagrams of at most 1,428 bytes (18 R612). -/
  | nsp (src reqId op : Nat) (payload : List Byte)
  | pcieData (d : List Byte)
  | pcieUr
  /-- An ICMPv6 answer: receiver, type, data (18 R611); a PLDM answer: type, command, sensor, value (R614). -/
  | icmp (dst kind : Nat) (data : List Byte)
  | pldm (ty cmd sensor value : Nat)
  /-- A PCIe completion other than data and Unsupported Request: Request Retry Status, Completer Abort (18 R598; 20 R649). -/
  | pcieRrs
  | pcieCa
  /-- A register word read, by the interface that read it. -/
  | regData (iface : Nat) (v : W32)
  deriving DecidableEq, Repr

/-! The keeping store's lifetime items (17 R588 to R590) -/

structure Life where
  /-- Items accumulated in steward working memory, by key. -/
  work : List (Nat × Nat) := []
  /-- Time base at the last completed write (Table 17.12 AGE). -/
  lastT : Nat := 0
  /-- The 16 slots of the store: SEQ and items, none when invalid. -/
  slots : List (Option (Nat × List (Nat × Nat))) := List.replicate 16 none
  deriving DecidableEq, Repr

/-! Resilience (14) -/

/-- A piece placed on a holder (14 R492, R493). -/
structure SnapPart where
  idx : Nat
  holder : Nat
  off : Nat
  cofed : Bool := false
  /-- Writes not yet acknowledged; those of the third location. -/
  left : Nat := 0
  thirdLeft : Nat := 0
  third : Bool := false
  sealed : Bool := false
  deriving DecidableEq, Repr

/-- A snapshot generation under way (14 R489 to R495). -/
structure Snap where
  ctx : Nat
  gen : Nat
  commits : Nat
  risk : Bool
  reading : Bool := true
  /-- It began while COMMIT waited for the guard's snapshot (R507). -/
  guards : Bool := false
  /-- The pieces, data then parity; those placed; how many candidates the present piece's search has passed. -/
  pieces : List (List Byte) := []
  parts : List SnapPart := []
  cand : Nat := 0
  /-- The feed conditions are dropped for the present piece (R493). -/
  any : Bool := false
  /-- Modules that refused an offer of this generation (R494). -/
  refused : List Nat := []
  /-- At least K of its pieces are sealed and count (R495). -/
  whole : Bool := false
  deriving DecidableEq, Repr

/-- A located piece that is read: its bytes by offset as they come, and the reads still open. -/
structure RestPiece where
  loc : Located
  got : List (Nat × List Byte) := []
  left : Nat
  deriving DecidableEq, Repr

/-- RESTORE in progress (14 Table 14.8 steps 6 to 8): its request, the members whose SNAP_LOCATE answer is awaited, the pieces they list,
the pieces of one generation that are read, and then the re-fetch: the attempt, its source and the reads still open. -/
structure Restoring where
  q : Req
  ctx : Nat
  asked : List Nat := []
  found : List Located := []
  pieces : List RestPiece := []
  attempt : Nat := 0
  src : Option Nat := none
  left : Nat := 0
  deriving DecidableEq, Repr

/-- A piece this module holds for another (14 R494, R495). -/
structure HeldPiece where
  ctx : Nat
  src : Nat
  gen : Nat
  idx : Nat
  size : Nat
  off : Nat
  /-- COMMITS, co-fed bit and SHA-256 once sealed. -/
  sealed : Option (Nat × Bool × List Byte) := none
  deriving DecidableEq, Repr

/-- An entry of the suspect table (14 R514 to R516). -/
structure Suspect where
  mod : Nat
  cls : Nat
  count : Nat
  first : Nat
  last : Nat
  /-- A 10 ms window is open; a closed window waits for the rate limit. -/
  opened : Bool := true
  deferred : Bool := false
  deriving DecidableEq, Repr

structure Res where
  snaps : List Snap := []
  /-- Contexts for which a risk-driven snapshot is due. -/
  due : List Nat := []
  held : List HeldPiece := []
  suspects : List Suspect := []
  /-- Times of the SUSPECTs sent in the last second (14 R516). -/
  sentT : List Nat := []
  /-- Time of the last immediate input (Table 14.4 code 7), and complaints about this module with their times (code 6). -/
  immT : Option Nat := none
  complaints : List (Nat × Nat) := []
  /-- Events of inputs 0, 1, 3 and 4 with the stack or SRAM and their times, and for input 5 the rooms with INV-in-step and the rooms of
  the last 16 steps closed, newest first (Table 14.4). -/
  risk : List (Nat × Nat × Nat) := []
  storms : List (Nat × Nat) := []
  /-- Contributions of the last tick, and when one last rose or the level last fell (14 R496). -/
  contrib : List Nat := []
  riseT : Nat := 0
  /-- Time of the last risk-driven start, and its level (14 R497). -/
  snapT : Option (Nat × Nat) := none
  /-- RESTORE in progress (14 R501). -/
  restore : Option Restoring := none
  deriving DecidableEq, Repr

/-! Test (15) -/

/-- A replay of a disagreeing tile (15 R538, R539): the step, the room and tile, the runs so far by room and comparison, the
operands kept, and the written narrow outputs by row and position. -/
structure Replay where
  id : Nat
  ctx : Nat
  step : Nat
  room : Nat
  uid : Nat
  ord : Nat
  runs : List (Nat × Nat) := []
  job : TasteJob
  y : List (Nat × Nat × Fv)
  deriving DecidableEq, Repr

/-- A room's line of the repair record (15 R524): role, time base of its last pass, powered minutes of its TRANSIENT
verdicts. -/
structure RoomRec where
  role : Nat := 0
  pass : Nat := 0
  trans : List Nat := []
  /-- A reset met its test: it is due first (15 Table 15.4). -/
  first : Bool := false
  deriving DecidableEq, Repr

/-- A pack kernel that runs on a room under test: its pack, its KID, its SEED as the JOB_KEY of the test context, its program, its
output range, its expected digest; the test context's stream registry; whether it ended by a fault; the digests of its runs so far
(15 R520, R521, R535, R543). -/
structure KRun where
  pack : Nat
  kid : Nat
  seed : Nat
  prog : List Byte
  image : List Byte
  out : Nat × Nat
  want : List Byte
  regs : Mem := []
  bad : Bool := false
  got : List (List Byte) := []
  deriving DecidableEq, Repr

/-- An in-field test (15 R529 to R534): the room, its origin (Table 15.9), and how it came to be tested. -/
structure Ift where
  room : Nat
  origin : Nat
  /-- 0 waits for a spare or a pre-emption point, 1 running, 2 the room is retired and its lease index waits for a spare
  (R537). -/
  st : Nat := 0
  /-- When it fell due (R532). -/
  t : Nat := 0
  /-- Context and lease index whose image is restored into the room after a test in place. -/
  back : Option (Nat × Nat) := none
  /-- When the pack kernels of the test began, and how many it has run; the one that runs; SPT_FLAGS as the test found them (R521,
  R543). -/
  kt : Option Nat := none
  kn : Nat := 0
  krun : Option KRun := none
  spt : W32 := 0
  deriving DecidableEq, Repr

structure Tst where
  /-- Next self-test stage while in TEST; the full test runs. -/
  stage : Nat := 0
  full : Bool := true
  /-- Stages that the next start overrides, and those this start overrides (15 R528). -/
  nextOver : List Nat := []
  override : List Nat := []
  /-- Rooms found bad by this start; a vestibule outcome: cause and stage. -/
  bad : List Nat := []
  fail : Option (Nat × Nat) := none
  /-- Time base at entry to VESTIBULE. -/
  vestT : Nat := 0
  repair : List RoomRec := List.replicate 72 {}
  /-- Row-map words of the repair record that are not 0, by register offset. -/
  rowmaps : List (Nat × W32) := []
  tests : List Ift := []
  replays : List Replay := []
  nextReplay : Nat := 0
  /-- Pattern packs: PACK_ID, SEQ, bytes; suspended kernels (15 R541 to R543). -/
  packs : List (Nat × Nat × List Byte) := []
  suspended : List Nat := []
  /-- By room, the pack kernel whose turn is next (15 R543). -/
  turns : List (Nat × Nat) := []
  /-- Signature records as CBOR, oldest first, at most 1,024; those of this start; the array SIG_EXPORT has frozen. -/
  sigs : List (List Byte) := []
  newSigs : Nat := 0
  sigArray : List Byte := []
  deriving DecidableEq, Repr

/-! Power (20) -/

structure Pwr where
  /-- The rail awaited in the order of Table 20.1 (1 hub, 2 HBM, 3 west, 4 east), 0 when none is. -/
  rail : Nat := 0
  /-- No start until the input has fallen below 38 V and risen again (R648, R673); the stop was a thermal trip. -/
  locked : Bool := false
  tripped : Bool := false
  /-- Input below 40 V (R647). -/
  under : Bool := false
  /-- PERST# is low (R657, R649). -/
  perst : Bool := false
  /-- Admission is stopped: an excursion of 15 ms, a sensor at critical; each wing's hold ends at this time (R668, R672). -/
  excess : Bool := false
  crit : Bool := false
  wingHold : List Nat := [0, 0]
  /-- The characterisation table of the keeping store: the estimate for a tile on an upper and on a lower trellis, in mW (R666;
  the numbers are those of its worked example, log 4). -/
  tileMw : Nat × Nat := (1400, 3350)
  /-- Estimates of the tiles admitted since the last measurement, in mW (R666). -/
  extra : Nat := 0
  /-- The room that admission's rotation serves first (01 Table 1.7). -/
  rot : Nat := 0
  /-- Start tokens each wing has granted: the 100 ns they belong to, and how many (R667). -/
  tokens : List (Nat × Nat) := [(0, 0), (0, 0)]
  /-- When DRAINING began (R655). -/
  drainT : Nat := 0
  /-- How the last power-on period ended: 0 not yet, 1 orderly, 2 abrupt (R656). -/
  lastEnd : Nat := 0
  deriving DecidableEq, Repr

/-! Security and firmware (19) -/

/-- A firmware image: manifest bytes with their signature, and chunks (19 R634). -/
structure FwImage where
  manifest : List Byte := []
  chunks : List (Nat × List Byte) := []
  deriving DecidableEq, Repr

/-- Bytes of one chunk collected in steward memory, with the digest its parts carry (19 R637). Chunk 0xFFFF is the
manifest. -/
structure FwPart where
  kind : Nat
  chunk : Nat
  digest : List Byte
  parts : List (Nat × List Byte) := []
  deriving DecidableEq, Repr

structure Sec where
  /-- SIGNER_HASH 0 and 1, their revocation fuses, ID_SEED, DEV_KEY, floor fuses blown (19 Table 19.1, R643). -/
  signers : List (List Byte) := [List.replicate 32 0, List.replicate 32 0]
  revoked : List Bool := [false, false]
  idSeed : List Byte := List.replicate 72 0
  devKey : List Byte := List.replicate 32 0
  fuses : Nat := 0
  /-- Keeping store: floor history, ENDORSEMENT, CMD_KEY with its generation, last accepted counter (R623, R627, R629). -/
  floors : List Nat := []
  endorsement : List Byte := List.replicate 16224 0
  cmdKey : List Byte := List.replicate 32 0
  keyGen : Nat := 0
  counter : Nat := 0
  /-- The active image; image staging with its state (Table 19.10), identity and length; the copy journal's index. -/
  active : FwImage := {}
  img : FwImage := {}
  imgState : Nat := 0
  imgId : List Byte := []
  imgBytes : Nat := 0
  journal : Nat := 0
  /-- Pack staging: state, chunk digests, length, chunks. -/
  packState : Nat := 0
  packDigests : List (List Byte) := []
  packBytes : Nat := 0
  packChunks : List (Nat × List Byte) := []
  /-- Steward memory: collected parts. -/
  parts : List FwPart := []
  /-- M0 to M7, and the quote held for reading (R625, R645). -/
  meas : List (List Byte) := List.replicate 8 (List.replicate 32 0)
  quote : List Byte := []
  /-- Audit entries, oldest first, at most 4,096; number of the next; by source, the time and number of the entry that takes
  its further AUTH refusals (R633). -/
  audit : List (List Byte) := []
  auditSeq : Nat := 0
  auths : List (Nat × Nat × Nat) := []
  /-- The active image is the one from manufacture, whose check is the boot ROM's own outcome (log 29). -/
  factory : Bool := true
  deriving DecidableEq, Repr

/-- The whole module. -/
structure State where
  /-- The commands waiting, first in first out. -/
  pending : List Instr
  /-- Control registers that differ from their reset value, by byte offset in the register space (21). -/
  regs : List (Nat × W32)
  rooms : List Room
  ctxs : List (Option Ctx)
  hbm : Mem
  buttery : Mem
  hostMem : Mem
  mmu : Mmu
  vnt : List Vnt
  tb : Tb
  fab : Fab
  dbg : Dbg
  prs : Prs
  rck : Rck
  life : Life
  col : Col
  host : HostIf
  res : Res
  tst : Tst
  pwr : Pwr
  sec : Sec
  out : List OutMsg
  /-- Free values drawn so far (log 6). -/
  free : Nat
  deriving DecidableEq, Repr

/-- Role of a room as manufactured: four of the 72 are spares (01 R13, 00 Table 0.3). -/
def roleAtReset (r : Nat) : Nat := if r = 34 ∨ r = 35 ∨ r = 70 ∨ r = 71 then 1 else 0

/-- The module right after power-good: device state BOOT (20 Table 20.2; log 5), no command waiting, every register at its reset
value, no context, memory with nothing listed; the first start and its BOOT counted (17 Table 17.11). Values without a reset
value in the manual are log 4's. -/
def State.reset : State where
  pending := []
  regs := []
  rooms := (List.range 72).map fun r => { role := roleAtReset r }
  ctxs := List.replicate 16 none
  hbm := []
  buttery := []
  hostMem := []
  mmu := {}
  vnt := [{}, {}]
  tb := {}
  fab := {}
  dbg := {}
  prs := {}
  rck := {}
  life := { work := [(lfStartsKey, 1), (lfBootKey, 1)] }
  col := {}
  host := {}
  res := {}
  tst := { repair := (List.range 72).map fun r => { role := roleAtReset r } }
  pwr := {}
  sec := {}
  out := []
  free := 0
where
  /-- Lifetime items: starts; entries to BOOT (17 Table 17.11). -/
  lfStartsKey : Nat := 1 * 2 ^ 16
  lfBootKey : Nat := 17 * 2 ^ 16 + 1

end Sys2Proof.Machine
end

