-- ==== Sys2Proof/Machine/Regs.lean ====
section
/-! DEFINITION. The register map: every control register's fields, types and reset values (chapter 21 and the tables
it names), and reads and writes of stored register words (18 R615 to R621, 00 R704). -/

namespace Sys2Proof.Machine

/-- Access type of a field (00 Table 0.2). `act` is a W1S or RWX field that starts an action and reads 0. -/
inductive RT where
  | rw | ro | w1c | w1s | act | rsv
  deriving DecidableEq, Repr

structure RField where
  lo : Nat
  width : Nat
  ty : RT
  rst : Nat := 0
  deriving DecidableEq, Repr

/-! Byte offsets of the module-level registers (21 Table 21.3) -/

abbrev rSTW_ID : Nat := 0x000000
abbrev rSTW_SERIAL : Nat := 0x000008
abbrev rSTW_QUANTUM : Nat := 0x000010
abbrev rSTW_BAR2_ORIGIN : Nat := 0x000020
abbrev rSTW_HOST_STATUS : Nat := 0x000024
abbrev rSTW_RISK_CTL : Nat := 0x000030
abbrev rSTW_RISK : Nat := 0x000034
abbrev rSTW_COLLATE : Nat := 0x000038
abbrev rSTW_TEST_CTL : Nat := 0x000040
abbrev rSTW_TEST_STATUS : Nat := 0x000044
abbrev rPWR_CTL : Nat := 0x040000
abbrev rPWR_STATUS : Nat := 0x040004
abbrev rPWR_DRAW : Nat := 0x040008
abbrev rSEC_STATUS : Nat := 0x080000
abbrev rSEC_FLOOR : Nat := 0x080004
abbrev rLIF_STATUS : Nat := 0x0C0000
abbrev rTB_CTL : Nat := 0x100000
abbrev rTB_STATUS : Nat := 0x100004
abbrev rTB_NOW : Nat := 0x100010
abbrev rTB_PTM_HOST : Nat := 0x100018
abbrev rTB_PTM_LOCAL : Nat := 0x100020
abbrev rDBG_CNT_CTL : Nat := 0x140000
abbrev rDBG_FREEZE_SEQ : Nat := 0x140004
abbrev rDBG_SAMPLE_BASE : Nat := 0x140008
abbrev rDBG_SAMPLE_SIZE : Nat := 0x140010
abbrev rDBG_TRACE_CTL : Nat := 0x140020
abbrev rDBG_TRACE_STATUS : Nat := 0x140024
abbrev rDBG_TRACE_SRC : Nat := 0x140028
abbrev rDBG_TRACE_LOST : Nat := 0x14002C
abbrev rDBG_TRIG_TIME : Nat := 0x140030
abbrev rDBG_SPILL_BASE : Nat := 0x140038
abbrev rDBG_SPILL_SIZE : Nat := 0x140040
abbrev rDBG_STOP_CTL : Nat := 0x140048
abbrev rDBG_TRACE_NEWEST : Nat := 0x14004C
abbrev rMMU_CTL : Nat := 0x180000
abbrev rMMU_INVAL_VA : Nat := 0x180008
abbrev rMMU_INVAL_CTL : Nat := 0x18000C
abbrev rFAB_CTL : Nat := 0x1C0000
abbrev rFAB_PORT (p : Nat) : Nat := 0x1C0080 + 4 * p
abbrev rCOL_STATUS : Nat := 0x200000
abbrev rRCK_STATUS : Nat := 0x240000
abbrev rRNG_LIVE (c : Nat) : Nat := 0x280000 + 4 * c
abbrev rPRS_LIMITER : Nat := 0x2C0000
abbrev rPRS_FENCED : Nat := 0x2C0008
abbrev rVNT_STATUS (w : Nat) : Nat := 0x300000 + 0x40000 * w
abbrev rVNT_EPOCH (w c : Nat) : Nat := 0x300040 + 0x40000 * w + 4 * c
/-- Frame base of room n (21 Table 21.1). -/
abbrev rRoom (n : Nat) : Nat := 0x1000000 + 0x40000 * n
abbrev rRM_LATCLASS (n : Nat) : Nat := rRoom n
abbrev rRM_STRETCH_CTL (n : Nat) : Nat := rRoom n + 4
abbrev rRM_LEASE (n : Nat) : Nat := rRoom n + 8
abbrev rTR_FLAGS (n t : Nat) : Nat := rRoom n + 0x100 + 0x20 * t
abbrev rTR_ROWMAP_LO (n t : Nat) : Nat := rRoom n + 0x104 + 0x20 * t
abbrev rTR_ROWMAP_HI (n t : Nat) : Nat := rRoom n + 0x108 + 0x20 * t
abbrev rLND_FLAGS (n : Nat) : Nat := rRoom n + 0x300
abbrev rLND_CTL (n : Nat) : Nat := rRoom n + 0x304
abbrev rHRT_FLAGS (n : Nat) : Nat := rRoom n + 0x340
abbrev rSPT_FLAGS (n : Nat) : Nat := rRoom n + 0x380

/-! Field maps -/

/-- Fields of the module-level registers that are one word each, by byte offset. -/
def regTable : List (Nat × List RField) :=
  [(0x000000, [⟨16, 16, .ro, 0xA4⟩, ⟨8, 8, .rsv, 0x0⟩, ⟨0, 8, .ro, 0x21⟩]),
     (0x000008, [⟨0, 32, .ro, 0x1⟩]),
     (0x00000C, [⟨0, 32, .ro, 0x0⟩]),
     (0x000010, [⟨24, 8, .rsv, 0x0⟩, ⟨0, 24, .rw, 0x7D0⟩]),
     (0x000020, [⟨10, 22, .rsv, 0x0⟩, ⟨0, 10, .rw, 0x0⟩]),
     (0x000024, [⟨24, 8, .w1c, 0x0⟩, ⟨16, 8, .w1c, 0x0⟩, ⟨8, 8, .ro, 0x0⟩, ⟨3, 5, .rsv, 0x0⟩, ⟨0, 3, .ro, 0x0⟩]),
     (0x000030, [⟨28, 4, .rw, 0x4⟩, ⟨20, 8, .rw, 0x3C⟩, ⟨12, 8, .rw, 0xA⟩, ⟨1, 11, .rsv, 0x0⟩, ⟨0, 1, .ro, 0x0⟩]),
     (0x000034, [⟨29, 3, .ro, 0x0⟩, ⟨26, 3, .w1c, 0x0⟩, ⟨22, 4, .ro, 0x0⟩, ⟨16, 6, .rsv, 0x0⟩, ⟨8, 8, .w1c, 0x0⟩, ⟨0, 8, .w1c, 0x0⟩]),
     (0x000038, [⟨19, 13, .ro, 0x0⟩, ⟨16, 3, .rsv, 0x0⟩, ⟨8, 8, .w1c, 0x0⟩, ⟨0, 8, .w1c, 0x0⟩]),
     (0x000040, [⟨24, 8, .rw, 0x6⟩, ⟨16, 8, .rw, 0x3C⟩, ⟨8, 8, .rw, 0x32⟩, ⟨4, 4, .rw, 0x4⟩, ⟨2, 2, .rsv, 0x0⟩, ⟨1, 1, .rw, 0x0⟩, ⟨0, 1, .rsv, 0x0⟩]),
     (0x000044, [⟨28, 4, .ro, 0xF⟩, ⟨24, 4, .ro, 0x0⟩, ⟨21, 3, .ro, 0x0⟩, ⟨16, 5, .ro, 0x0⟩, ⟨8, 8, .w1c, 0x0⟩, ⟨0, 8, .w1c, 0x0⟩]),
     (0x040000, [⟨30, 2, .act, 0x0⟩, ⟨29, 1, .rw, 0x0⟩, ⟨28, 1, .rw, 0x0⟩, ⟨24, 4, .rsv, 0x0⟩, ⟨16, 8, .rw, 0x3C⟩, ⟨8, 8, .rw, 0x7C⟩, ⟨0, 8, .rsv, 0x0⟩]),
     (0x040004, [⟨28, 4, .ro, 0x1⟩, ⟨25, 3, .ro, 0x0⟩, ⟨24, 1, .ro, 0x0⟩, ⟨20, 4, .ro, 0x0⟩, ⟨19, 1, .ro, 0x0⟩, ⟨18, 1, .ro, 0x0⟩, ⟨17, 1, .ro, 0x0⟩, ⟨16, 1, .ro, 0x0⟩, ⟨8, 8, .w1c, 0x0⟩, ⟨0, 8, .w1c, 0x0⟩]),
     (0x040008, [⟨16, 16, .ro, 0x0⟩, ⟨0, 16, .ro, 0x0⟩]),
     (0x080000, [⟨29, 3, .ro, 0x0⟩, ⟨27, 2, .ro, 0x0⟩, ⟨26, 1, .ro, 0x0⟩, ⟨24, 2, .ro, 0x0⟩, ⟨17, 7, .ro, 0x0⟩, ⟨16, 1, .rsv, 0x0⟩, ⟨8, 8, .w1c, 0x0⟩, ⟨0, 8, .w1c, 0x0⟩]),
     (0x080004, [⟨0, 32, .ro, 0x0⟩])]
  ++ [(0x0C0000, [⟨31, 1, .w1s, 0x0⟩, ⟨24, 7, .rsv, 0x0⟩, ⟨16, 8, .w1c, 0x0⟩, ⟨4, 12, .ro, 0x0⟩, ⟨0, 4, .ro, 0x0⟩]),
     (0x100000, [⟨31, 1, .rw, 0x0⟩, ⟨18, 13, .rsv, 0x0⟩, ⟨0, 18, .rw, 0x0⟩]),
     (0x100004, [⟨31, 1, .ro, 0x0⟩, ⟨30, 1, .ro, 0x0⟩, ⟨24, 6, .rsv, 0x0⟩, ⟨16, 8, .w1c, 0x0⟩, ⟨0, 16, .ro, 0x0⟩]),
     (0x100010, [⟨0, 32, .ro, 0x0⟩]),
     (0x100014, [⟨0, 32, .ro, 0x0⟩]),
     (0x100018, [⟨0, 32, .ro, 0x0⟩]),
     (0x10001C, [⟨0, 32, .ro, 0x0⟩]),
     (0x100020, [⟨0, 32, .ro, 0x0⟩]),
     (0x100024, [⟨0, 32, .ro, 0x0⟩]),
     (0x140000, [⟨30, 2, .rw, 0x0⟩, ⟨24, 6, .rw, 0xA⟩, ⟨17, 7, .rsv, 0x0⟩, ⟨16, 1, .act, 0x0⟩, ⟨13, 3, .rsv, 0x0⟩, ⟨0, 13, .rw, 0x1FFF⟩]),
     (0x140004, [⟨0, 32, .ro, 0x0⟩]),
     (0x140008, [⟨0, 32, .rw, 0x0⟩]),
     (0x14000C, [⟨0, 32, .rw, 0x0⟩]),
     (0x140010, [⟨16, 16, .rsv, 0x0⟩, ⟨0, 16, .rw, 0x10⟩]),
     (0x140020, [⟨31, 1, .act, 0x0⟩, ⟨30, 1, .rw, 0x0⟩, ⟨29, 1, .rw, 0x0⟩, ⟨28, 1, .rw, 0x0⟩, ⟨27, 1, .rw, 0x0⟩, ⟨26, 1, .rw, 0x0⟩, ⟨25, 1, .act, 0x0⟩, ⟨24, 1, .act, 0x0⟩, ⟨12, 12, .rw, 0x0⟩, ⟨0, 12, .rsv, 0x0⟩]),
     (0x140024, [⟨29, 3, .ro, 0x0⟩, ⟨28, 1, .w1c, 0x0⟩, ⟨27, 1, .ro, 0x0⟩, ⟨0, 27, .rsv, 0x0⟩])]
  ++ [(0x140028, [⟨12, 20, .rsv, 0x0⟩, ⟨0, 12, .rw, 0x10⟩]),
     (0x14002C, [⟨0, 32, .w1c, 0x0⟩]),
     (0x140030, [⟨0, 32, .ro, 0x0⟩]),
     (0x140034, [⟨0, 32, .ro, 0x0⟩]),
     (0x140038, [⟨0, 32, .rw, 0x0⟩]),
     (0x14003C, [⟨0, 32, .rw, 0x0⟩]),
     (0x140040, [⟨7, 25, .rsv, 0x0⟩, ⟨0, 7, .rw, 0x0⟩]),
     (0x140048, [⟨2, 30, .rsv, 0x0⟩, ⟨1, 1, .ro, 0x0⟩, ⟨0, 1, .act, 0x0⟩]),
     (0x14004C, [⟨0, 32, .ro, 0x0⟩]),
     (0x180000, [⟨16, 16, .rsv, 0x0⟩, ⟨0, 16, .rw, 0x64⟩]),
     (0x180008, [⟨16, 16, .rw, 0x0⟩, ⟨0, 16, .rw, 0x0⟩]),
     (0x18000C, [⟨31, 1, .w1s, 0x0⟩, ⟨21, 10, .rsv, 0x0⟩, ⟨20, 1, .rw, 0x0⟩, ⟨19, 1, .rw, 0x0⟩, ⟨16, 3, .rsv, 0x0⟩, ⟨12, 4, .rw, 0x0⟩, ⟨6, 6, .rsv, 0x0⟩, ⟨0, 6, .rw, 0x10⟩]),
     (0x1C0000, [⟨28, 4, .rw, 0x3⟩, ⟨20, 8, .rw, 0x1⟩, ⟨12, 8, .rw, 0xA⟩, ⟨4, 8, .rw, 0xA⟩, ⟨0, 4, .rsv, 0x0⟩]),
     (0x200000, [⟨24, 8, .w1c, 0x0⟩, ⟨16, 8, .w1c, 0x0⟩, ⟨8, 8, .w1c, 0x0⟩, ⟨4, 4, .rsv, 0x0⟩, ⟨0, 4, .ro, 0x0⟩]),
     (0x240000, [⟨24, 8, .w1c, 0x0⟩, ⟨16, 8, .w1c, 0x0⟩, ⟨8, 8, .w1c, 0x0⟩, ⟨4, 4, .rsv, 0x0⟩, ⟨0, 4, .ro, 0x0⟩]),
     (0x2C0000, [⟨28, 4, .rsv, 0x0⟩, ⟨24, 4, .ro, 0x0⟩, ⟨20, 4, .rw, 0xA⟩, ⟨10, 10, .ro, 0x0⟩, ⟨8, 2, .rsv, 0x0⟩, ⟨0, 8, .ro, 0x0⟩])]
  ++ [(0x2C0008, [⟨0, 32, .ro, 0x0⟩]),
     (0x2C000C, [⟨0, 32, .ro, 0x0⟩])]

/-- FAB_PORT (11 Table 11.15); ROLE is fixed by port number. -/
def fPort (far : Bool) : List RField :=
  if far then [⟨28, 4, .ro, 0x0⟩, ⟨27, 1, .ro, 0x1⟩, ⟨23, 4, .ro, 0xF⟩, ⟨22, 1, .ro, 0x0⟩, ⟨16, 6, .rsv, 0x0⟩, ⟨8, 8, .w1c, 0x0⟩, ⟨4, 4, .rsv, 0x0⟩, ⟨3, 1, .w1c, 0x0⟩, ⟨2, 1, .w1c, 0x0⟩, ⟨1, 1, .w1c, 0x0⟩, ⟨0, 1, .rw, 0x0⟩]
  else [⟨28, 4, .ro, 0x0⟩, ⟨27, 1, .ro, 0x0⟩, ⟨23, 4, .ro, 0xF⟩, ⟨22, 1, .ro, 0x0⟩, ⟨16, 6, .rsv, 0x0⟩, ⟨8, 8, .w1c, 0x0⟩, ⟨4, 4, .rsv, 0x0⟩, ⟨3, 1, .w1c, 0x0⟩, ⟨2, 1, .w1c, 0x0⟩, ⟨1, 1, .w1c, 0x0⟩, ⟨0, 1, .rw, 0x0⟩]

/-- RNG_LIVE (21 Table 21.12), VNT_STATUS (05 Table 5.8), VNT_EPOCH (21 Table 21.13). -/
def fRngLive : List RField := [⟨13, 19, .rsv, 0x0⟩, ⟨0, 13, .ro, 0x0⟩]
def fVntStatus : List RField := [⟨24, 8, .w1c, 0x0⟩, ⟨16, 8, .w1c, 0x0⟩, ⟨4, 12, .w1c, 0x0⟩, ⟨1, 3, .rsv, 0x0⟩, ⟨0, 1, .ro, 0x0⟩]
def fVntEpoch : List RField := [⟨16, 16, .rsv, 0x0⟩, ⟨0, 16, .ro, 0x0⟩]

/-- Engine flag word (02 Table 2.5) and row maps (03 Table 3.10). -/
def fFlags : List RField := [⟨4, 28, .rsv, 0x0⟩, ⟨3, 1, .w1c, 0x0⟩, ⟨2, 1, .w1c, 0x0⟩, ⟨1, 1, .w1c, 0x0⟩, ⟨0, 1, .w1c, 0x0⟩]
def fRowmap : List RField := [⟨31, 1, .rw, 0x0⟩, ⟨29, 2, .rsv, 0x0⟩, ⟨24, 5, .rw, 0x0⟩, ⟨23, 1, .rw, 0x0⟩, ⟨21, 2, .rsv, 0x0⟩, ⟨16, 5, .rw, 0x0⟩, ⟨15, 1, .rw, 0x0⟩, ⟨13, 2, .rsv, 0x0⟩, ⟨8, 5, .rw, 0x0⟩, ⟨7, 1, .rw, 0x0⟩, ⟨5, 2, .rsv, 0x0⟩, ⟨0, 5, .rw, 0x0⟩]

/-- The words of a room frame by offset in the frame (21 Tables 21.14, 21.16; 03 Table 3.11; 16 Table 16.4; 04 Table 4.10). -/
def roomFields (o : Nat) : Option (List RField) :=
  if o = 0 then some [⟨1, 31, .rsv, 0x0⟩, ⟨0, 1, .ro, 0x0⟩]
  else if o = 4 then some [⟨24, 8, .rsv, 0x0⟩, ⟨16, 8, .w1c, 0x0⟩, ⟨12, 4, .rsv, 0x0⟩, ⟨8, 4, .rw, 0x4⟩, ⟨0, 8, .rw, 0x1E⟩]
  else if o = 8 then some [⟨30, 2, .ro, 0x0⟩, ⟨29, 1, .ro, 0x0⟩, ⟨28, 1, .rsv, 0x0⟩, ⟨24, 4, .ro, 0x0⟩, ⟨7, 17, .rsv, 0x0⟩, ⟨0, 7, .ro, 0x0⟩]
  else if 0x100 ≤ o ∧ o < 0x280 then
    (if (o - 0x100) % 0x20 = 0 then some fFlags
     else if (o - 0x100) % 0x20 = 4 ∨ (o - 0x100) % 0x20 = 8 then some fRowmap else none)
  else if o = 0x300 ∨ o = 0x340 ∨ o = 0x380 then some fFlags
  else if o = 0x304 then some [⟨24, 8, .rsv, 0x0⟩, ⟨20, 4, .rw, 0xC⟩, ⟨16, 4, .rw, 0x3⟩, ⟨12, 4, .rsv, 0x0⟩, ⟨0, 12, .rw, 0x100⟩]
  else none

/-- Fields of the register at a byte offset, none where no register lies (21 R676, R677). -/
def regFields (o : Nat) : Option (List RField) :=
  if o % 4 ≠ 0 then none
  else if 0x1000000 ≤ o then
    if o < 0x2200000 then roomFields (o % 0x40000) else none
  else if 0x1C0080 ≤ o ∧ o < 0x1C0100 then some (fPort (decide (o ≥ 0x1C00C0)))
  else if 0x280000 ≤ o ∧ o < 0x280040 then some fRngLive
  else if o = 0x300000 ∨ o = 0x340000 then some fVntStatus
  else if (0x300040 ≤ o ∧ o < 0x300080) ∨ (0x340040 ≤ o ∧ o < 0x340080) then some fVntEpoch
  else (regTable.find? fun r => r.1 = o).map (·.2)

/-- Reset value of a word from its fields. -/
def fieldsReset (fs : List RField) : W32 := BitVec.ofNat 32 ((fs.map fun f => f.rst * 2 ^ f.lo).sum)
/-- Reset value of the register at an offset; 0 where none lies. -/
def regReset (o : Nat) : W32 := ((regFields o).map fieldsReset).getD 0

/-- The bits of a field. -/
def RField.mask (f : RField) : W32 := BitVec.ofNat 32 ((2 ^ f.width - 1) * 2 ^ f.lo)
/-- The RSV bits of a word. -/
def rsvMask (fs : List RField) : W32 := (fs.filter fun f => f.ty = .rsv).foldl (fun m f => m ||| f.mask) 0

/-- What a write leaves in one field's bits (00 Table 0.2, R704; 18 R618: any bit of a W1C count clears the field). -/
def RField.apply (f : RField) (old new : W32) : W32 :=
  match f.ty with
  | .rw | .rsv => new &&& f.mask
  | .ro => old &&& f.mask
  | .w1c => if f.width = 1 then old &&& ~~~new &&& f.mask else if new &&& f.mask = 0 then old &&& f.mask else 0
  | .w1s => (old ||| new) &&& f.mask
  | .act => 0

/-- The word after a write. -/
def regApply (fs : List RField) (old new : W32) : W32 := fs.foldl (fun v f => v ||| f.apply old new) 0

namespace State

/-- The stored word of a register. -/
def reg (s : State) (o : Nat) : W32 := (mapGet s.regs o).getD (regReset o)

/-- Store a word; a word equal to the reset value is not listed. -/
def setReg (s : State) (o : Nat) (v : W32) : State :=
  { s with regs := mapSet s.regs o (if v = regReset o then none else some v) }

/-- Bits [lo + w − 1 : lo] of a register. -/
def regBits (s : State) (o lo w : Nat) : Nat := (s.reg o).toNat / 2 ^ lo % 2 ^ w
def setRegBits (s : State) (o lo w v : Nat) : State :=
  let old := (s.reg o).toNat
  s.setReg o (BitVec.ofNat 32 (old - old / 2 ^ lo % 2 ^ w * 2 ^ lo + v % 2 ^ w * 2 ^ lo))
def regBit (s : State) (o lo : Nat) : Bool := s.regBits o lo 1 = 1
def setRegBit (s : State) (o lo : Nat) (b : Bool) : State := s.setRegBits o lo 1 (if b then 1 else 0)
/-- Add to a saturating count field. -/
def regCount (s : State) (o lo w n : Nat) : State := s.setRegBits o lo w (min (2 ^ w - 1) (s.regBits o lo w + n))
/-- Set sticky flags of an engine flag word (02 R60). -/
def orFlags (s : State) (o : Nat) (f : Flags) : State := s.setReg o (s.reg o ||| f.setWidth 32)

/-- Registers of a range of offsets take their reset values. -/
def resetRegs (s : State) (p : Nat → Bool) : State := { s with regs := s.regs.filter fun r => !p r.1 }

/-- A frame (00 R704: "the register's own block"; a room frame is confined to its room). -/
abbrev frameOf (o : Nat) : Nat := o / 0x40000

/-- Some RSV bit of the frame is off its reset value (00 R704). -/
def rsvOpen (s : State) (frame : Nat) : Bool :=
  s.regs.any fun r => frameOf r.1 = frame &&
    ((regFields r.1).map fun fs => decide ((r.2 ^^^ fieldsReset fs) &&& rsvMask fs ≠ 0)).getD false

end State

/-! Blocks whose RSV bits stop a command (00 R704) -/

abbrev bSTW : Nat := 0
abbrev bPWR : Nat := 1
abbrev bSEC : Nat := 2
abbrev bLIF : Nat := 3
abbrev bTB : Nat := 4
abbrev bDBG : Nat := 5
abbrev bMMU : Nat := 6
abbrev bFAB : Nat := 7
abbrev bCOL : Nat := 8
abbrev bRCK : Nat := 9
abbrev bRNG : Nat := 10
abbrev bPRS : Nat := 11
abbrev bVNTW : Nat := 12
abbrev bVNTE : Nat := 13
abbrev bRoom (n : Nat) : Nat := 64 + n

/-- `t` with the queue of `s`: a meaning acts on everything but the queue. -/
def State.after (s t : State) : State := { t with pending := s.pending }

/-- Every meaning: a command of blocks whose RSV bits are off reset has unspecified behaviour; else its effect. -/
def run (blocks : List Nat) (s t : State) : Host.Outcome State Fault Refusal :=
  if blocks.any s.rsvOpen then .fault .rsvUnspecified else .next (s.after t)

end Sys2Proof.Machine
end

