-- ==== Sys2Proof/Machine/Xlat.lean ====
section
/-! DEFINITION. Translation of context virtual addresses and of global addresses that name this module, and access to
memory through them (08 R270 to R290). -/

namespace Sys2Proof.Machine

/-- Where an address leads. -/
inductive Loc where
  | hbm (pa : Nat)
  | host (a : Nat)
  | glob (ga : Nat)
  | butt (off : Nat)
  | pantry (room off : Nat)
  deriving DecidableEq, Repr

/-- Access kinds (08 R284, Table 8.11 ACCESS). -/
inductive Acs where
  | rd | wr | fetch | atomic
  deriving DecidableEq, Repr

def Acs.bits : Acs → Nat
  | .rd => 1 | .wr => 2 | .fetch => 4 | .atomic => 2

/-- A walk's failure: cause (08 Table 8.10), level and entry. -/
structure XErr where
  cause : Nat
  level : Nat := 0
  pte : Nat := 0
  /-- The failing address is a global address of this module's own windows (Table 8.11 ACCESS[3]). -/
  glob : Bool := false
  deriving DecidableEq, Repr

/-- Not a cause of Table 8.10: the room of the lease index is out, and the access waits (R282). -/
abbrev cABSENT : Nat := 0
abbrev cNOT_VALID : Nat := 1
abbrev cWRITE_PROTECT : Nat := 2
abbrev cEXEC_PROTECT : Nat := 3
abbrev cRESERVED : Nat := 4
abbrev cMALFORMED : Nat := 5
abbrev cAPERTURE : Nat := 6
abbrev cREMOTE : Nat := 7
abbrev cWALK_ECC : Nat := 8
/-- Not a cause of Table 8.10: the bytes lie behind another module's global address, and the fabric is asked for them. -/
abbrev cFAR : Nat := 9

/-! Reserved regions (08 Table 8.4) -/

/-- End of device memory. -/
abbrev hbmEnd : Nat := 0xC000000000
abbrev wingSize : Nat := 0x6000000000
/-- The stack that holds a device address (08 R271): its wing's stacks 0 to 7 or 8 to 15 (01 Table 1.1), by its 4 KiB granule. -/
def hbmStack (a : Nat) : Nat :=
  let g := a % wingSize / 4096
  a / wingSize * 8 + (g ^^^ g / 8 ^^^ g / 64) % 8
/-- Distance of an address from its wing's end. -/
def fromTop (a : Nat) : Nat := wingSize - a % wingSize
def inControl (a : Nat) : Bool := fromTop a ≤ 0x80000000
def inLedger (a : Nat) : Bool := 0x80000000 < fromTop a && fromTop a ≤ 0x100000000
def inSave (a : Nat) : Bool := 0x100000000 < fromTop a && fromTop a ≤ 0x400000000
/-- General memory: below every reserved region of its wing; `press` is the press size in GiB. -/
def inGeneral (press a : Nat) : Bool := a < hbmEnd && 0x400000000 + press * 2 ^ 29 < fromTop a
/-- The launch region (18 R599) and the window table (08 R289). -/
abbrev launchBase : Nat := 0x5F80000000
abbrev windowBase : Nat := 0x5F80040000
/-- The context-mappable part of the buttery lies after the other three parts of Table 8.3 (log 16). -/
abbrev butMapBase : Nat := 288 * 2 ^ 20
abbrev butEnd : Nat := 384 * 2 ^ 20

/-! The walk (08 R283 to R285) -/

/-- Size of the page a leaf maps at a level. -/
def leafSize (level : Nat) : Nat := if level = 1 then 2 ^ 30 else if level = 2 then 2 ^ 21 else 2 ^ 16

/-- Outcome of a valid leaf (08 R285): MALFORMED, then RESERVED_TARGET, then the protections. `led`: a reshard journal
may lie in the ledger region (12 R443, log 16). -/
def leafTarget (press : Nat) (led : Bool) (level pte va : Nat) (acs : Acs) : Except XErr Loc :=
  let size := leafSize level
  let addr := pte / 4096 * 4096
  let err (c : Nat) : Except XErr Loc := .error { cause := c, level := level, pte := pte }
  let off := va % size
  let tgt := pte / 16 % 4
  if addr % size ≠ 0 then err cMALFORMED
  else
    let reserved :=
      if tgt = 0 then !(inGeneral press addr && inGeneral press (addr + size - 1)) && !(led && inLedger addr)
      else if tgt = 3 then !(butMapBase ≤ addr && addr + size ≤ butEnd)
      else if tgt = 2 then addr / 2 ^ 62 % 4 = 1 || addr / 2 ^ 62 % 4 = 3
      else false
    if reserved then err cRESERVED
    else if (acs = .wr ∨ acs = .atomic) ∧ pte / 4 % 2 = 0 then err cWRITE_PROTECT
    else if acs = .fetch ∧ pte / 8 % 2 = 0 then err cEXEC_PROTECT
    else .ok (if tgt = 0 then .hbm (addr + off) else if tgt = 1 then .host (addr + off)
      else if tgt = 2 then .glob (addr + off) else .butt (addr + off))

/-- One level of the walk; `fuel` counts the levels left. -/
def walkPt (hbm : Mem) (press : Nat) (led : Bool) (va : Nat) (acs : Acs) : Nat → Nat → Except XErr Loc
  | 0, _ => .error { cause := cMALFORMED }
  | fuel + 1, table =>
    let level := 3 - fuel
    let idx := if level = 1 then va / 2 ^ 30 % 2 ^ 18 else if level = 2 then va / 2 ^ 21 % 512 else va / 2 ^ 16 % 32
    let pte := hbm.le (table + 8 * idx) 8
    if pte % 2 = 0 then .error { cause := cNOT_VALID, level := level, pte := pte }
    else if pte / 2 % 2 = 1 then leafTarget press led level pte va acs
    else if level = 3 then .error { cause := cMALFORMED, level := level, pte := pte }
    else walkPt hbm press led va acs fuel (pte / 4096 * 4096)

/-- The address of the level-3 entry of a VA, when the upper levels lead there (08 R292). -/
def pteAddr (hbm : Mem) (root va : Nat) : Option Nat :=
  let p1 := hbm.le (root + 8 * (va / 2 ^ 30 % 2 ^ 18)) 8
  let p2 := hbm.le (p1 / 4096 * 4096 + 8 * (va / 2 ^ 21 % 512)) 8
  if p1 % 4 = 1 ∧ p2 % 4 = 1 then some (p2 / 4096 * 4096 + 8 * (va / 2 ^ 16 % 32)) else none

/-! The mover record (08 Table 8.11) -/

/-- The 64 bytes of a mover record. -/
def WaitF.record (w : WaitF) : List Byte :=
  leBytes 8 w.va ++ leBytes 8 w.pc ++ leBytes 8 w.t ++ leBytes 4 w.done ++ leBytes 4 w.total ++ leBytes 8 w.doneBytes
    ++ leBytes 4 w.check ++ leBytes 1 w.ctx ++ leBytes 1 w.unit ++ leBytes 2 w.lease ++ leBytes 1 w.cause
    ++ leBytes 1 (w.access + if w.glob then 8 else 0) ++ leBytes 1 w.level ++ leBytes 1 0 ++ leBytes 4 0 ++ leBytes 8 w.pte

def WaitF.acs (w : WaitF) : Acs := if w.access = 4 then .fetch else if w.access = 2 then .wr else .rd

namespace State

def ctx (s : State) (c : Nat) : Option Ctx := s.ctxs.getD c none
def room (s : State) (r : Nat) : Room := s.rooms.getD r { role := 2 }
def setRoom (s : State) (r : Nat) (x : Room) : State := { s with rooms := s.rooms.set r x }
def modRoom (s : State) (r : Nat) (f : Room → Room) : State := s.setRoom r (f (s.room r))
def setCtx (s : State) (c : Nat) (x : Option Ctx) : State := { s with ctxs := s.ctxs.set c x }
def modCtx (s : State) (c : Nat) (f : Ctx → Ctx) : State := s.setCtx c ((s.ctx c).map f)

/-- Time base (16 R550). -/
def now (s : State) : Nat := s.tb.root.toNat
/-- An island's replica (16 R551, R553). -/
def nowAt (s : State) (i : Nat) : Nat := ((mapGet s.tb.gated i).orElse fun _ => mapGet s.tb.replicas i).getD s.now

/-- The kernel that runs in a test context, by its number here: 16 and the room's, since it is none of the 16 contexts (15 R520, R521). -/
def kernel (s : State) (c : Nat) : Option KRun :=
  if c < 16 then none else (s.tst.tests.find? fun x => x.room + 16 = c).bind (·.krun)
def modKernel (s : State) (c : Nat) (f : KRun → KRun) : State :=
  { s with tst := { s.tst with tests := s.tst.tests.map fun x => if x.room + 16 = c then { x with krun := x.krun.map f } else x } }

/-- JOB_KEY of a context; of a test context, its kernel's seed (06 Table 6.3; 15 R520). -/
def jobKey (s : State) (c : Nat) : Nat := ((s.kernel c).map (·.seed)).getD (((s.ctx c).map (·.d.jobKey)).getD 0)

/-- The room's own pantry aperture (08 Table 8.5). -/
def ownLoc (own : Option Nat) (va : Nat) : Except XErr Loc :=
  match own with
  | none => .error { cause := cAPERTURE }
  | some r => if 0xF00000 ≤ va % 2 ^ 24 ∧ va % 2 ^ 24 < 0xF7FF00 then .error { cause := cAPERTURE } else .ok (.pantry r (va % 2 ^ 24))

/-- A context's VA for an access; `own` is the issuing room, none for hub units (08 Table 8.5). A test
context has only its room's own pantry (15 R542; log 33). Only MOV, MOVB and the collective
engine use the lease aperture (R282): `aper` says so, and an access of another unit there faults. -/
def xlat (s : State) (c : Nat) (own : Option Nat) (va : Nat) (acs : Acs) (led : Bool := false) (aper : Bool := false) :
    Except XErr Loc :=
  match s.ctx c with
  | none => if (s.kernel c).isNone then .error { cause := cNOT_VALID }
    else if 0xFFFFFF000000 ≤ va ∧ va < 2 ^ 48 then ownLoc own va else .error { cause := cAPERTURE }
  | some x =>
    if va ≥ 2 ^ 48 then .error { cause := cAPERTURE }
    else if va < 0xFFFE00000000 then walkPt s.hbm s.prs.size led va acs 3 x.d.ptroot
    else if va < 0xFFFF00000000 then
      let li := va / 2 ^ 24 % 256
      let off := va % 2 ^ 24
      if acs = .fetch ∨ !aper ∨ li ≥ x.size ∨ off ≥ 0xF00000 then .error { cause := cAPERTURE }
      else match x.rooms[li]? with
        | some r => if (s.room r).lease = some (c, li) then .ok (.pantry r off) else .error { cause := cABSENT }
        | none => .error { cause := cABSENT }
    else if va < 0xFFFFFF000000 then .error { cause := cAPERTURE }
    else ownLoc own va

/-! Reads and writes at a location -/

def locByte (s : State) : Loc → Byte
  | .hbm a => s.hbm.get a
  | .host a => s.hostMem.get a
  | .butt a => s.buttery.get a
  | .pantry r o => (s.room r).pantry.get o
  | .glob _ => 0

def locRead (s : State) (l : Loc) (n : Nat) : List Byte :=
  match l with
  | .hbm a => s.hbm.read a n
  | .host a => s.hostMem.read a n
  | .butt a => s.buttery.read a n
  | .pantry r o => (s.room r).pantry.read o n
  | .glob _ => List.replicate n 0

def locWrite (s : State) (l : Loc) (bs : List Byte) : State :=
  match l with
  | .hbm a => { s with hbm := s.hbm.write a bs }
  | .host a => { s with hostMem := s.hostMem.write a bs }
  | .butt a => { s with buttery := s.buttery.write a bs }
  | .pantry r o => s.modRoom r fun x => { x with pantry := x.pantry.write o bs }
  | .glob _ => s

/-- Pieces of a VA range that each lie in one 64 KiB page: (va, length). -/
def pieces (va : Nat) : Nat → Nat → List (Nat × Nat)
  | 0, _ => []
  | fuel + 1, n =>
    if n = 0 then [] else
      let k := min n (0x10000 - va % 0x10000)
      (va, k) :: pieces (va + k) fuel (n - k)

def vaPieces (va n : Nat) : List (Nat × Nat) := pieces va (n / 0x10000 + 2) n

/-! Fabric windows (08 R289, R290) -/

/-- The window's target of a space-0b00 address of this module. -/
def window (s : State) (ga n : Nat) (acs : Acs) : Except XErr Loc :=
  let w := ga / 2 ^ 36 % 256
  let off := ga % 2 ^ 36
  let e := windowBase + 32 * w
  let base := s.hbm.le e 8
  let limit := s.hbm.le (e + 8) 8
  let fl := s.hbm.le (e + 0x10) 1
  let c := s.hbm.le (e + 0x11) 1
  let need := match acs with
    | .rd | .fetch => 4
    | .wr => 8
    | .atomic => 16
  if fl % 2 = 0 ∨ off + n > limit ∨ fl / need % 2 = 0 then .error { cause := cREMOTE }
  else if fl / 2 % 2 = 0 then
    if base + off + n ≤ hbmEnd then .ok (.hbm (base + off)) else .error { cause := cREMOTE }
  else if (s.ctx c).isNone then .error { cause := cREMOTE }
  else s.xlat c none (base + off) acs

/-- The places of a range of this module's own global addresses, page by page of the window's target; the failing VA of a virtual
window or the failing address, and the error (R289, R290). -/
def winSpan (s : State) (ga n : Nat) (acs : Acs) : Except (Nat × XErr) (List (Nat × Loc × Nat)) :=
  let va := s.hbm.le (windowBase + 32 * (ga / 2 ^ 36 % 256)) 8 + ga % 2 ^ 36
  (vaPieces va n).foldl (fun acc (a, k) =>
    match acc with
    | .error e => .error e
    | .ok ls => match s.window (ga + (a - va)) k acs with
      | .error e => .error (ga + (a - va), { e with glob := true })
      | .ok l => .ok (ls ++ [(ga + (a - va), l, k)])) (.ok [])

/-- A global address of this module's own space 0b00. -/
def ownGlobal (s : State) (ga : Nat) : Bool := decide (some (ga / 2 ^ 44 % 2 ^ 18) = s.fab.num) && decide (ga / 2 ^ 62 = 0)

/-- A located range with its own-module global addresses led through the window table: address, place and length of each piece. -/
def resolve (s : State) (a : Nat) (l : Loc) (n : Nat) (acs : Acs) : Except (Nat × XErr) (List (Nat × Loc × Nat)) :=
  match l with
  | .glob ga =>
    if s.ownGlobal ga then (s.winSpan ga n acs).map fun ls => ls.map fun x => (a + (x.1 - ga), x.2.1, x.2.2) else .ok [(a, l, n)]
  | _ => .ok [(a, l, n)]

/-- The places of a VA range: address, place and length of each piece; or the failing address and error. -/
def vaSpan (s : State) (c : Nat) (own : Option Nat) (va n : Nat) (acs : Acs) (aper : Bool := false) :
    Except (Nat × XErr) (List (Nat × Loc × Nat)) :=
  (vaPieces va n).foldl (fun acc (a, k) =>
    match acc with
    | .error e => .error e
    | .ok ls => match s.xlat c own a acs false aper with
      | .error e => .error (a, e)
      | .ok l => (s.resolve a l k acs).map fun more => ls ++ more) (.ok [])

/-- The first piece of a span that lies behind another module's address. -/
def farOf (ls : List (Nat × Loc × Nat)) : Option (Nat × XErr) :=
  ls.findSome? fun x => match x.2.1 with
    | .glob ga => some (x.1, { cause := cFAR, pte := ga })
    | _ => none

/-- The bytes of a VA range that lie on this module, or the failing address and error. -/
def readVa (s : State) (c : Nat) (own : Option Nat) (va n : Nat) (acs : Acs := .rd) : Except (Nat × XErr) (List Byte) :=
  match s.vaSpan c own va n acs with
  | .error e => .error e
  | .ok ls => match farOf ls with
    | some e => .error e
    | none => .ok (ls.flatMap fun x => s.locRead x.2.1 x.2.2)

/-- Bytes go to a list of places in turn. -/
def spread (s : State) (ls : List (Nat × Loc × Nat)) (bs : List Byte) : State :=
  (ls.foldl (fun (a : State × List Byte) x => (a.1.locWrite x.2.1 (a.2.take x.2.2), a.2.drop x.2.2)) (s, bs)).1

/-- Store bytes at a VA range on this module, or the failing address and error with nothing stored. -/
def writeVa (s : State) (c : Nat) (own : Option Nat) (va : Nat) (bs : List Byte) : Except (Nat × XErr) State :=
  match s.vaSpan c own va bs.length .wr with
  | .error e => .error e
  | .ok ls => match farOf ls with
    | some e => .error e
    | none => .ok (s.spread ls bs)

/-- Context memory of the units that never fault (headroom, statistics, policy, registry, group tables): bytes of a
range, free where it does not translate (log 16). -/
def ctxRead (s : State) (c va n : Nat) : List Byte :=
  match s.readVa c none va n with
  | .ok bs => bs
  | .error _ => (List.range n).map fun i => Config.freeByte (va + i)
/-- Bytes go to a list of places in turn, those behind other modules' addresses to writes that wait to be sent. -/
def post (s : State) (ls : List (Nat × Loc × Nat)) (bs : List Byte) : State :=
  (ls.foldl (fun (a : State × List Byte) x => (match x.2.1 with
    | .glob ga => { a.1 with mmu := { a.1.mmu with posted := a.1.mmu.posted ++ [{
        op := 0, dst := ga / 2 ^ 44 % 2 ^ 18, addr := ga, arg := x.2.2, data := a.2.take x.2.2 }] } }
    | l => a.1.locWrite l (a.2.take x.2.2), a.2.drop x.2.2)) (s, bs)).1

/-- The matching store; bytes behind another module's address go there by a write of the fabric, and a store that does not translate is
dropped (R284; log 16). -/
def ctxWrite (s : State) (c va : Nat) (bs : List Byte) : State :=
  match s.vaSpan c none va bs.length .wr with
  | .ok ls => s.post ls bs
  | .error _ => s
def ctxLe (s : State) (c va n : Nat) : Nat := leNum (s.ctxRead c va n)
def ctxSetLe (s : State) (c va n v : Nat) : State := s.ctxWrite c va (leBytes n v)

end State

end Sys2Proof.Machine
end

