-- ==== Sys2Proof/Machine/Ledger.lean ====
section
/-! DEFINITION. Headers kept in two copies (12 R444, 13 R461), the step ledger and the sample-ledger record (13 R460 to
R462, 10 R374, R375). LEDGER is a device physical address (log 16). -/

namespace Sys2Proof.Machine

/-- CHECK of a 128-byte header: first 32 bits of SHA-256 over bytes 0x08 to 0x7F with CHECK taken as 0, followed by the
new SEQ (12 Table 12.5, 13 Table 13.1). -/
def hdrCheck (bs : List Byte) (checkOff : Nat) : Nat := sha32 ((patchLe bs checkOff 4 0).drop 8 ++ leBytes 8 (fieldLe bs 0 8))
def hdrValid (bs : List Byte) (checkOff : Nat) : Bool := fieldLe bs checkOff 4 = hdrCheck bs checkOff

/-- The governing copy of a two-copy header and its index: valid, with the higher SEQ. -/
def hdrGov (m : Mem) (a b checkOff : Nat) : Option (Nat × List Byte) :=
  let x := m.read a 128
  let y := m.read b 128
  match hdrValid x checkOff, hdrValid y checkOff with
  | true, true => if fieldLe x 0 8 ≥ fieldLe y 0 8 then some (0, x) else some (1, y)
  | true, false => some (0, x)
  | false, true => some (1, y)
  | false, false => none

/-- Write a changed header into the copy that does not hold the higher valid SEQ: fields and CHECK, then SEQ. -/
def hdrPut (m : Mem) (a b checkOff : Nat) (f : List Byte → List Byte) : Mem :=
  let (i, old) := (hdrGov m a b checkOff).getD (1, List.replicate 128 0#8)
  let new := patchLe (f old) 0 8 (fieldLe old 0 8 + 1)
  let new := patchLe new checkOff 4 (hdrCheck new checkOff)
  m.write (if i = 0 then b else a) new

/-- Step-ledger phases (13 Table 13.1). -/
abbrev phOPEN : Nat := 0
abbrev phCHECKED : Nat := 1
abbrev phCOMMITTING : Nat := 2
abbrev phADVANCING : Nat := 3

/-- The step-ledger header (13 Table 13.1). `valid` is false when neither copy is valid. -/
structure StepHdr where
  valid : Bool
  seq : Nat
  step : Nat
  commits : Nat
  phase : Nat
  flags : Nat
  sentMode : Nat
  sentDesc : Nat
  digestEvery : Nat
  lossMax : Nat
  tOpen : Nat
  deriving DecidableEq, Repr

namespace State

def ledgerOf (s : State) (c : Nat) : Nat := ((s.ctx c).map (·.d.ledger)).getD 0

def stepHdr (s : State) (c : Nat) : StepHdr :=
  let l := s.ledgerOf c
  let g := hdrGov s.hbm l (l + 0x80) 0x24
  let bs := (g.map (·.2)).getD (List.replicate 128 0#8)
  let f := fieldLe bs
  { valid := g.isSome, seq := f 0 8, step := f 8 8, commits := f 0x10 8, phase := f 0x18 1, flags := f 0x19 1,
    sentMode := f 0x1A 1, sentDesc := f 0x1C 2, digestEvery := f 0x1E 2, lossMax := f 0x20 4, tOpen := f 0x28 8 }

/-- The open step's number; a test context has no step, and takes 0, so that its bits depend on its seed alone (15 R520). -/
def stepNo (s : State) (c : Nat) : Nat := if c < 16 then (s.stepHdr c).step else 0

/-- Change the header through its two copies. -/
def putStepHdr (s : State) (c : Nat) (f : List Byte → List Byte) : State :=
  let l := s.ledgerOf c
  { s with hbm := hdrPut s.hbm l (l + 0x80) 0x24 f }

def setPhase (s : State) (c ph : Nat) : State := s.putStepHdr c fun b => patchLe b 0x18 1 ph
def setDirty (s : State) (c : Nat) (d : Bool) : State :=
  s.putStepHdr c fun b => let f := fieldLe b 0x19 1; patchLe b 0x19 1 (f - f % 2 + if d then 1 else 0)
def dirty (s : State) (c : Nat) : Bool := (s.stepHdr c).flags % 2 = 1

/-- Physical address of the step record of step n (13 R460). -/
def stepRec (s : State) (c n : Nat) : Nat := s.ledgerOf c + 0x400 + 256 * (n % 252)
/-- Physical address of the sample-ledger record of step n (10 Table 10.7). -/
def sampleRec (s : State) (c n : Nat) : Nat := s.ledgerOf c + 0x50000 + 256 * (n % 1024)

def hbmLe (s : State) (a n : Nat) : Nat := s.hbm.le a n
def hbmSet (s : State) (a n v : Nat) : State := { s with hbm := s.hbm.setLe a n v }
def hbmWrite (s : State) (a : Nat) (bs : List Byte) : State := { s with hbm := s.hbm.write a bs }

/-- The open sample-ledger record: of the open step, with B nonzero and FINAL clear (10 R375, log 18). -/
def openSample (s : State) (c : Nat) : Option Nat :=
  let st := (s.stepHdr c).step
  let a := s.sampleRec c st
  if s.hbmLe a 8 = st ∧ s.hbmLe (a + 0x10) 8 ≠ 0 ∧ s.hbmLe (a + 0x20) 4 % 2 = 0 then some a else none

/-- SAMPLES_USED of the open record (10 Table 10.8). -/
def samplesUsed (s : State) (c : Nat) : Nat := ((s.openSample c).map fun a => s.hbmLe (a + 0x18) 4).getD 0

/-- A launch of the context ends with the header OPEN or CHECKED and neither ADVANCE nor ABORT closed the step: DIRTY is
set (13 R481, log 18). -/
def noteLaunchEnd (s : State) (c : Nat) (closed : Bool) : State :=
  let h := s.stepHdr c
  if h.valid ∧ (h.phase = phOPEN ∨ h.phase = phCHECKED) ∧ !(closed ∧ h.phase = phOPEN) then s.setDirty c true else s

/-! Reshard journals (12 R444): header copies at 0x000 and 0x800 -/

def journal (s : State) (pa : Nat) : Option (List Byte) := (hdrGov s.hbm pa (pa + 0x800) 0x1C).map (·.2)
def putJournal (s : State) (pa : Nat) (f : List Byte → List Byte) : State :=
  { s with hbm := hdrPut s.hbm pa (pa + 0x800) 0x1C f }
def journalState (s : State) (pa : Nat) : Nat := ((s.journal pa).map fun b => fieldLe b 8 1).getD 0

/-- The context's journal holds STATE 1 (12 R452). -/
def reshardOn (s : State) (c : Nat) : Bool :=
  match mapGet s.col.reshDir c with
  | some pa => s.journalState pa = 1
  | none => false

end State

end Sys2Proof.Machine
end

