-- ==== Sys2Proof/Machine/Trace.lean ====
section
/-! DEFINITION. Trace records, their queues and the store (17 R576 to R582), and the counters (17 R568 to R572). -/

namespace Sys2Proof.Machine

/-- Trace-store states (17 Table 17.8). -/
abbrev tsIDLE : Nat := 0
abbrev tsARMED : Nat := 1
abbrev tsPOST : Nat := 2
abbrev tsFULL : Nat := 3
abbrev tsDONE : Nat := 4
abbrev tsSTOPPED : Nat := 5

/-- Island numbers (17 Table 17.1). -/
abbrev isHub : Nat := 136
abbrev isMgmt : Nat := 137
abbrev isHost : Nat := 138
abbrev isRoot : Nat := 139

/-- Trace record types (17 Table 17.5). -/
abbrev tyMARK : Nat := 1
abbrev tyISSUE : Nat := 2
abbrev tyCOMPLETE : Nat := 3
abbrev tyTILE_START : Nat := 4
abbrev tyTILE_END : Nat := 5
abbrev tyFLAG : Nat := 6
abbrev tyFAULT : Nat := 7
abbrev tyEVENT : Nat := 8
abbrev tyPHASE : Nat := 9
abbrev tyPORT : Nat := 0xA
abbrev tyPRESS : Nat := 0xB
abbrev tyRACKING : Nat := 0xC
abbrev tyCOLLECTIVE : Nat := 0xD
abbrev tyTRIGGER : Nat := 0x10
abbrev tyGAP : Nat := 0x11
abbrev tySTEP : Nat := 0x12
abbrev tyLOST : Nat := 0x13

/-- Class of a type; none for the types written whenever the trace is armed. -/
def traceClass (ty : Nat) : Option Nat :=
  match ty with
  | 1 => some 0 | 2 => some 1 | 3 => some 1 | 4 => some 2 | 5 => some 2 | 6 => some 3 | 7 => some 4 | 8 => some 4
  | 9 => some 5 | 10 => some 6 | 11 => some 7 | 12 => some 8 | 13 => some 9 | 14 => some 10 | 15 => some 11
  | _ => none

/-- The 32 bytes of a record. -/
def TraceRec.bytes (r : TraceRec) : List Byte :=
  leBytes 8 r.t ++ leBytes 1 r.island ++ leBytes 1 r.unit ++ leBytes 1 r.ty ++ leBytes 1 r.flags ++ leBytes 4 r.sseq
    ++ (r.pay ++ List.replicate 16 0#8).take 16

/-- First byte of the trace store in the buttery: the parts of Table 8.3 lie in its order (log 16). -/
abbrev traceBase : Nat := 0

def natGet (l : List (Nat × Nat)) (k : Nat) : Nat := (mapGet l k).getD 0
def natPut (l : List (Nat × Nat)) (k v : Nat) : List (Nat × Nat) := mapSet l k (if v = 0 then none else some v)

/-- Counter families (17 Table 17.2). -/
abbrev fmTRELLIS : Nat := 0
abbrev fmLANDING : Nat := 1
abbrev fmSPOUT : Nat := 3
abbrev fmMOVER : Nat := 4
abbrev fmSEQ : Nat := 5
abbrev fmHBM : Nat := 6
abbrev fmPRESS : Nat := 7
abbrev fmRACKING : Nat := 8
abbrev fmPORT : Nat := 9
abbrev fmCOLL : Nat := 10
/-- The counters of family 10 for a group of a context, kept beside the families (17 R570). -/
abbrev fmGROUP : Nat := 13
abbrev fmPOWER : Nat := 11
abbrev fmSTEWARD : Nat := 12

/-- Key of a counter: family, unit, index. -/
def cntKey (fam unit idx : Nat) : Nat := fam * 2 ^ 20 + unit * 64 + idx

/-- The counts the model keeps; the others measure time, cycles or activity that it leaves out and read as free values
(log 10). -/
def countKept (fam idx : Nat) : Bool :=
  match fam with
  | 0 => idx = 1 || idx = 4 || idx = 5 || idx = 7
  | 1 => idx = 0 || idx = 2 || idx = 3
  | 3 => idx = 1
  | 4 => idx ≤ 3
  | 5 => idx = 1 || idx = 4 || idx = 5
  | 6 => idx = 8 || idx = 9
  | 7 => idx ≤ 4
  | 8 => idx ≤ 6
  | 9 => idx ≤ 4 || idx = 9 || idx = 10
  | 10 => idx = 0 || idx = 1
  | 11 => idx ≤ 2 || idx = 5
  | 12 => true
  | 13 => idx = 0 || idx = 1
  | _ => false

/-- Units and counters per unit of a family (17 Table 17.2; HBM: bytes read and written in the four classes of Table 1.7, then three counts). -/
def famUnits (fam : Nat) : Nat :=
  match fam with
  | 0 => 864 | 1 => 72 | 2 => 72 | 3 => 72 | 4 => 72 | 5 => 72 | 6 => 16 | 7 => 72 | 8 => 1 | 9 => 32 | 10 => 16 | _ => 1
def famCounters (fam : Nat) : Nat :=
  match fam with
  | 0 => 8 | 1 => 6 | 2 => 4 | 3 => 4 | 4 => 5 | 5 => 7 | 6 => 11 | 7 => 5 | 8 => 7 | 9 => 11 | 10 => 5 | 11 => 6 | _ => 7

/-- The island whose counter a unit of a family holds (17 Tables 17.1, 17.2). -/
def unitIsland (fam unit : Nat) : Nat :=
  match fam with
  | 0 => unit / 12
  | 6 => 72 + unit
  | 7 => 128 + unit / 9
  | 8 => isHub
  | 9 => 96 + unit
  | 10 => isHub
  | 13 => isHub
  | 11 => isMgmt
  | 12 => isMgmt
  | _ => unit

namespace State

def modDbg (s : State) (f : Dbg → Dbg) : State := { s with dbg := f s.dbg }
def traceState (s : State) : Nat := s.regBits rDBG_TRACE_STATUS 29 3
def setTraceState (s : State) (v : Nat) : State := s.setRegBits rDBG_TRACE_STATUS 29 3 v

/-- Put one record into the store (17 R579 to R582). -/
def storeRec (s : State) (r : TraceRec) : State :=
  let st := s.traceState
  let wrap := s.regBit rDBG_TRACE_CTL 30
  let n := s.dbg.written
  let cap := s.dbg.cap
  let put (t : State) (slot : Nat) : State :=
    let t := if slot < 2097152 then { t with buttery := t.buttery.write (traceBase + 32 * slot) r.bytes }
      else t.hbmWrite (t.dbg.spill + 32 * (slot - 2097152)) r.bytes
    (t.setReg rDBG_TRACE_NEWEST (BitVec.ofNat 32 slot)).modDbg fun d => { d with written := d.written + 1 }
  if st = tsFULL then s.regCount rDBG_TRACE_LOST 0 32 1
  else if st ≠ tsARMED ∧ st ≠ tsPOST then s
  else if !wrap then
    let t := put s n
    if n + 1 ≥ cap then t.setTraceState tsFULL else t
  else
    let t := put s (n % cap)
    let t := if n ≥ cap then t.setRegBit rDBG_TRACE_STATUS 27 true else t
    if st = tsPOST then
      let t := t.modDbg fun d => { d with postLeft := d.postLeft - 1 }
      if t.dbg.postLeft = 0 then t.setTraceState tsDONE else t
    else t

/-- A record of a source: numbered, and flagged after the trigger or with its context. -/
def mkRec (s : State) (island unit ty : Nat) (c : Option Nat) (pay : List Byte) : TraceRec :=
  { t := s.nowAt island, island := island, unit := unit, ty := ty,
    flags := (if s.dbg.trigs > 0 then 1 else 0) + ((c.filter (· < 16)).map fun x => 2 + 16 * x).getD 0,
    sseq := natGet s.dbg.sseq island, pay := pay }

/-- A source offers a record: its class must be enabled and the trace armed; its queue holds 16 (17 R577, R579). -/
def trace (s : State) (island unit ty : Nat) (c : Option Nat) (pay : List Byte) : State :=
  let st := s.traceState
  let on := match traceClass ty with
    | none => true
    | some k => s.regBit rDBG_TRACE_SRC k && (k ≠ 11 || s.dbg.unlocked)
  if !on || (st ≠ tsARMED && st ≠ tsPOST && st ≠ tsFULL) then s
  else
    let r := s.mkRec island unit ty c pay
    let q := (mapGet s.dbg.queues island).getD []
    let s1 := s.modDbg fun d => { d with sseq := natPut d.sseq island ((r.sseq + 1) % 2 ^ 32) }
    if q.length ≥ 16 then
      (s1.modDbg fun d => { d with qlost := natPut d.qlost island (natGet d.qlost island + 1) }).regCount rDBG_TRACE_LOST 0 32 1
    else s1.modDbg fun d => { d with queues := mapSet d.queues island (some (q ++ [r])) }

/-- The store takes the oldest record of a source's queue; a source that lost records then queues its LOST record. -/
def takeRec (s : State) (island : Nat) : State :=
  match (mapGet s.dbg.queues island).getD [] with
  | [] => s
  | r :: rest =>
    let s1 := (s.storeRec r).modDbg fun d => { d with queues := mapSet d.queues island (if rest.isEmpty then none else some rest) }
    let n := natGet s.dbg.qlost island
    if n = 0 then s1
    else (s1.modDbg fun d => { d with qlost := natPut d.qlost island 0 }).trace island 0 tyLOST none (leBytes 8 n)

/-! Counters -/

def bump (s : State) (fam unit idx n : Nat) : State :=
  s.modDbg fun d => { d with counts := natPut d.counts (cntKey fam unit idx) ((natGet d.counts (cntKey fam unit idx) + n) % 2 ^ 64) }

/-- A live counter, and its frozen shadow. -/
def count (s : State) (fam unit idx : Nat) : Nat :=
  if countKept fam idx then natGet s.dbg.counts (cntKey fam unit idx) else (Config.timing (s.free + cntKey fam unit idx)).toNat
def shadowCount (s : State) (fam unit idx : Nat) : Nat :=
  if countKept fam idx then natGet s.dbg.shadow (cntKey fam unit idx)
  else (Config.timing (s.regBits rDBG_FREEZE_SEQ 0 32 + cntKey fam unit idx)).toNat

/-- Reference clock of the island that counts a unit of a family is gated (R572). -/
def unitGated (s : State) (fam unit : Nat) : Bool := s.tb.gated.any fun x => x.1 = unitIsland fam unit

/-- Families included in freezes and samples. -/
def families (s : State) : List Nat := (List.range 13).filter fun f => (s.regBits rDBG_CNT_CTL 0 13).testBit f

/-- Write one sample record into the sample ring, or count it lost when the ring is full (17 R573, R574). -/
def sampleNow (s : State) (triggered : Bool) : State :=
  let fams := s.families
  let units := fams.flatMap fun f => (List.range (famUnits f)).map fun u => (f, u)
  let gated := units.any fun x => s.unitGated x.1 x.2
  let body := units.flatMap fun x => (List.range (famCounters x.1)).flatMap fun k =>
    leBytes 8 (if s.unitGated x.1 x.2 then 2 ^ 64 - 1 else s.count x.1 x.2 k)
  let size := 32 + body.length
  let base := s.dbg.sampleBase
  let n := (s.dbg.sampleSize - 64) / size
  let head := s.hbmLe base 4
  let tail := s.hbmLe (base + 4) 4
  if n = 0 ∨ (head + 2 ^ 32 - tail) % 2 ^ 32 ≥ n then s.hbmSet (base + 8) 8 (s.hbmLe (base + 8) 8 + 1)
  else
    let h := leBytes 8 s.now ++ leBytes 4 s.dbg.sampleSeq ++ leBytes 2 (s.regBits rDBG_CNT_CTL 0 13)
      ++ leBytes 2 ((if triggered then 1 else 0) + if gated then 2 else 0) ++ leBytes 4 size ++ List.replicate 12 0#8
    let s1 := s.hbmWrite (base + 64 + size * (head % n)) (h ++ body)
    (s1.hbmSet base 4 (head + 1)).modDbg fun d => { d with sampleSeq := (d.sampleSeq + 1) % 2 ^ 32 }

end State

end Sys2Proof.Machine
end

