-- ==== Sys2Proof/Machine/Ops.lean ====
section
/-! DEFINITION. Shared operations: events, launch faults, sticky flags, completion records, MSI-X, tokens, races. -/

namespace Sys2Proof.Machine

abbrev ownBase : Nat := 0xFFFFFF000000
abbrev descTab : Nat := 0xF80000
abbrev argArea : Nat := 0xF7FF00

/-- Device states of PWR_STATUS.STATE (20 Table 20.2). -/
abbrev stOFF : Nat := 0
abbrev stBOOT : Nat := 1
abbrev stTEST : Nat := 2
abbrev stVESTIBULE : Nat := 3
abbrev stREADY : Nat := 4
abbrev stRUNNING : Nat := 5
abbrev stDRAINING : Nat := 6
abbrev stSTOPPED : Nat := 7

/-- Event bits (07 Table 7.16). -/
abbrev evBUDGET : Nat := 0
abbrev evDIVERGE : Nat := 1
abbrev evRESTORE_SKEW : Nat := 2
abbrev evCOFED : Nat := 3
abbrev evPRESS : Nat := 4
abbrev evSENTINEL : Nat := 5
abbrev evDIGEST : Nat := 6
abbrev evSHORTFALL : Nat := 7
abbrev evTASTE : Nat := 8
abbrev evSECURED : Nat := 9

/-- Completion statuses (06 Table 6.6). -/
abbrev csDONE : Nat := 0
abbrev csFAULT : Nat := 1
abbrev csSTOPPED : Nat := 2
abbrev csRESET : Nat := 3
abbrev csSEQ : Nat := 4
abbrev csLEASE : Nat := 5

/-- Port states (11 Table 11.2). -/
abbrev psDOWN : Nat := 0
abbrev psTRAINING : Nat := 1
abbrev psFEC_LOCK : Nat := 2
abbrev psINIT : Nat := 3
abbrev psUP : Nat := 4
abbrev psRETRAIN : Nat := 5
abbrev psDISABLED : Nat := 6

/-- Keys of lifetime items (17 Table 17.11): item and index. -/
abbrev lfMinutes : Nat := 0
abbrev lfStarts : Nat := 1
abbrev lfOrderly : Nat := 2
abbrev lfAbrupt : Nat := 3
abbrev lfStateMin : Nat := 4
abbrev lfJunction : Nat := 5
abbrev lfDroop : Nat := 6
abbrev lfStretch : Nat := 7
abbrev lfVolt : Nat := 8
abbrev lfPower : Nat := 9
abbrev lfEcc : Nat := 10
abbrev lfSpare : Nat := 11
abbrev lfRung : Nat := 12
abbrev lfPort : Nat := 13
abbrev lfDecode : Nat := 14
abbrev lfTest : Nat := 15
abbrev lfCrit : Nat := 16
abbrev lfState : Nat := 17
abbrev lfErase : Nat := 18

/-- Bytes of a flit (11 Tables 11.3, 11.4). -/
def flitBytes (ftype vl fseq aseq : Nat) (cf : List Nat) (words : Nat) (payload : List Byte) : List Byte :=
  let h := ftype + vl * 2 ^ 4 + fseq % 4096 * 2 ^ 8 + aseq % 4096 * 2 ^ 20
    + cf.getD 0 0 % 256 * 2 ^ 32 + cf.getD 1 0 % 256 * 2 ^ 40 + cf.getD 2 0 % 256 * 2 ^ 48 + cf.getD 3 0 % 256 * 2 ^ 56
    + words % 16 * 2 ^ 64
  let head := leBytes 12 h
  let body := (payload ++ List.replicate 240 0#8).take 240
  head ++ leBytes 4 (crc32c (head ++ body)).toNat ++ body

namespace State

def devState (s : State) : Nat := s.regBits rPWR_STATUS 28 4
def setDevState (s : State) (v : Nat) : State := s.setRegBits rPWR_STATUS 28 4 v
/-- The device runs programs and events of its engines (20 Table 20.2). -/
def working (s : State) : Bool := s.devState = stREADY || s.devState = stRUNNING || s.devState = stDRAINING

/-- Effects of rooms and hub engines happen only while they run (17 R584, 20 Table 20.2). -/
def live (s : State) (t : State) : State := if s.working then t else s

def emit (s : State) (m : OutMsg) : State := { s with out := s.out ++ [m] }

/-- Send an MSI-X message, or set its pending bit while the vector is masked (18 R603). -/
def msix (s : State) (pf vec : Nat) : State :=
  if pf = 0 then
    if s.host.unmask0.contains vec then s.emit (.msix 0 vec)
    else { s with host := { s.host with pend0 := if s.host.pend0.contains vec then s.host.pend0 else vec :: s.host.pend0 } }
  else
    if s.host.unmask1.contains vec then s.emit (.msix 1 vec)
    else { s with host := { s.host with pend1 := if s.host.pend1.contains vec then s.host.pend1 else vec :: s.host.pend1 } }

/-! Launch slots -/

def lslot (s : State) (c sl : Nat) : LSlot := ((s.ctx c).map fun x => x.slots.getD sl {}).getD {}
def modSlot (s : State) (c sl : Nat) (f : LSlot → LSlot) : State :=
  s.modCtx c fun x => { x with slots := x.slots.set sl (f (x.slots.getD sl {})) }
def launch (s : State) (c sl : Nat) : Option Launch := (s.lslot c sl).launch
def modLaunch (s : State) (c sl : Nat) (f : Launch → Launch) : State :=
  s.modSlot c sl fun x => { x with launch := x.launch.map f }

/-- Lease indices of a launch's range. -/
def rangeOf (l : LaunchRec) : List Nat := (List.range l.count).map (l.first + ·)
/-- Physical rooms of a launch that are placed (06 R201). -/
def launchRooms (s : State) (c sl : Nat) : List Nat :=
  match s.ctx c, s.launch c sl with
  | some x, some l => (rangeOf l.lr).filterMap fun li => x.rooms[li]?
  | _, _ => []

/-! Completion records (06 R218, Table 6.6; 18 R594, R602) -/

/-- The 64 bytes of a completion record. -/
def cplBytes (tag status fault li pc tAcc tDone events flags seq : Nat) : List Byte :=
  leBytes 8 tag ++ leBytes 2 status ++ leBytes 2 fault ++ leBytes 2 li ++ leBytes 2 0 ++ leBytes 8 pc
    ++ leBytes 8 tAcc ++ leBytes 8 tDone ++ leBytes 8 events ++ leBytes 4 flags ++ leBytes 4 0 ++ leBytes 8 seq

/-- Write a completion record and send its message, or hold both while Bus Master Enable is clear. -/
def postCpl (s : State) (c sl : Nat) (bs : List Byte) (msi : Bool) : State :=
  match s.ctx c with
  | none => s
  | some x =>
    if s.host.bme then
      let s := { s with hostMem := s.hostMem.write (x.d.cpl + 64 * sl) bs }
      if msi then s.msix 0 x.d.msix else s
    else s.setCtx c (some { x with heldCpl := x.heldCpl ++ [(sl, bs, msi)] })

/-- Rooms of a context that wait at a barrier go on without completion (06 R212). -/
def dropBarriers (s : State) (c : Nat) : State :=
  let up (x : Room) : Room := match x.seqr.launch, x.seqr.hold with
    | some (d, _), .barrier _ _ _ _ => if d = c then { x with seqr := { x.seqr with hold := .none, owed := .none } } else x
    | _, _ => x
  ((((s.ctx c).map (·.rooms)).getD []).foldl (fun t r => t.modRoom r up) s).modCtx c fun x => { x with
    saved := x.saved.map fun v => (v.1, up v.2.1, v.2.2) }

/-! Global stop, device states, lifetime items and triggers (17 R581 to R585) -/

def portState (s : State) (p : Nat) : Nat := s.regBits (rFAB_PORT p) 28 4

def port (s : State) (p : Nat) : Port := s.fab.ports.getD p {}
def modPort (s : State) (p : Nat) (f : Port → Port) : State :=
  { s with fab := { s.fab with ports := s.fab.ports.set p (f (s.port p)) } }

/-- House position of this module: from its straps, or the one it has taken over (11 R394, R395). -/
def housePos (s : State) : Option Nat :=
  s.fab.taken.orElse fun _ => if s.fab.slotId ≤ 8 then some s.fab.slotId else none

/-- A port is in UP; a module outside a house uses its far ports only (11 R395). -/
def portUp (s : State) (p : Nat) : Bool := s.portState p = psUP && (decide (16 ≤ p) || s.housePos.isSome)

/-- A flit goes out on a port, with its ASEQ and CFREE (11 R385). -/
def putFlit (s : State) (p ftype vl seq words : Nat) (payload : List Byte) : State :=
  let q := s.port p
  (s.emit (.flit p (flitBytes ftype vl seq q.aseq q.cfree words payload))).bump fmPORT p 0 1

/-- Word 1 of a STOP flit (11 R409). -/
def stopWord (id origin : Nat) (valid : Bool) (t : Nat) : List Byte :=
  leBytes 8 (id % 65536 + origin % 2 ^ 18 * 2 ^ 16 + if valid then 2 ^ 34 else 0) ++ leBytes 8 t

/-- Start or relay a stop wave: the pair is recorded and three STOP flits go out on every port in UP; STOP# is driven
low (11 R408, R409). -/
def stopWave (s : State) (id origin : Nat) (valid : Bool) (t : Nat) : State :=
  if s.fab.stops.contains (id, origin) then s
  else
    let ups := ((List.range 32).filter s.portUp).flatMap (List.replicate 3)
    ups.foldl (fun u p => u.putFlit p 3 0 0 0 (stopWord id origin valid t)) { s with
      fab := { s.fab with stops := ((id, origin) :: s.fab.stops).take 16 }
      dbg := { s.dbg with stopDriven := true } }

/-- Every accepted launch gets a completion record with STATUS 2 and its message, and rooms that wait at a barrier are released (06 R212;
17 R585). -/
def stopLaunches (s : State) : State :=
  (List.range 16).foldl (fun t c => (List.range 64).foldl (fun u sl =>
    match u.launch c sl with
    | none => u
    | some l => (u.postCpl c sl
        (cplBytes l.lr.tag csSTOPPED 0 0 0 l.tAccept u.now l.events.toNat l.flags.toNat l.seq) (l.lr.flags % 2 = 1)).modSlot c sl
        fun x => { x with launch := none }) (t.dropBarriers c)) s

/-- A freeze into the shadows of every enabled family; gated islands keep theirs (17 R571, R572). -/
def freezeShadows (s : State) : State :=
  if s.regBits rDBG_CNT_CTL 30 2 ≠ 1 then s
  else
    let fams := s.regBits rDBG_CNT_CTL 0 13
    let gated := s.tb.gated.map (·.1)
    let keep (k : Nat) : Bool := fams.testBit (k / 2 ^ 20) && !s.unitGated (k / 2 ^ 20) (k / 64 % 2 ^ 14)
    let old := s.dbg.shadow.filter fun x => !keep x.1
    let sh := (s.dbg.counts.filter fun x => keep x.1).foldl (fun m x => natPut m x.1 x.2) old
    (s.modDbg fun d => { d with shadow := sh, stale := gated }).setReg rDBG_FREEZE_SEQ (s.reg rDBG_FREEZE_SEQ + 1)

/-- A freeze trigger: shadows in FREEZE mode, one extra sample in SAMPLE mode (17 R571, R574). -/
def freezeTrigger (s : State) : State :=
  if s.regBits rDBG_CNT_CTL 30 2 = 2 then s.sampleNow true else s.freezeShadows

/-- Add to a lifetime item. -/
def lifeAdd (s : State) (item idx n : Nat) : State :=
  let k := item * 2 ^ 16 + idx
  { s with life := { s.life with work := natPut s.life.work k (natGet s.life.work k + n) } }

/-- An event that an input of the risk monitor counts: code, stack or SRAM (14 Table 14.4). -/
def riskEvent (s : State) (code key : Nat) : State := { s with res := { s.res with risk := s.res.risk ++ [(code, key, s.now)] } }

/-- A steward action's trace record; the codes are an open value (log 21). -/
def steward (s : State) (act arg : Nat) : State :=
  s.trace isMgmt 0 0xE none (leBytes 2 (Config.actCode act).toNat ++ leBytes 6 0 ++ leBytes 8 arg)

/-! Gated islands (16 R553; 21 R682) -/

/-- Gate an island's reference: it stops keeping time. -/
def gate (s : State) (i : Nat) : State :=
  if s.tb.gated.any fun x => x.1 = i then s
  else
    let s1 := { s with tb := { s.tb with gated := (i, s.nowAt i) :: s.tb.gated } }
    if i < 72 then s1.modRoom i fun x => { x with gated := true } else s1

/-- An island wakes: its replica is set, it writes a gap marker and GAPS counts. -/
def wake (s : State) (i : Nat) : State :=
  match mapGet s.tb.gated i with
  | none => s
  | some t =>
    let s1 := { s with tb := { s.tb with gated := s.tb.gated.filter fun x => x.1 ≠ i } }
    let s2 := if i < 72 then s1.modRoom i fun x => { x with gated := false } else s1
    (s2.regCount rTB_STATUS 16 8 1).trace i 0 tyGAP none (leBytes 8 t ++ leBytes 8 s2.now)

/-- A change of the device state: trace, lifetime count, PF1 vector 2 (20 R653). -/
def enter (s : State) (v : Nat) : State :=
  if s.devState = v then s
  else (((s.setDevState v).steward 0 v).lifeAdd lfState v 1).msix 1 2

/-- The module halts in STOPPED: the trace store freezes, shadows are taken, launches end (17 R571, R582 to R585; 20 R652). -/
def halt (s : State) : State :=
  if !s.working then s
  else
    let s1 := (s.freezeTrigger).modDbg fun d => { d with stopT := some s.now }
    let s2 := ((s1.stopLaunches).enter stSTOPPED).msix 1 3
    let st := s2.traceState
    let s3 := if st = tsARMED ∨ st = tsPOST ∨ st = tsFULL then s2.setTraceState tsSTOPPED else s2
    s3.setRegBit rDBG_STOP_CTL 1 true

/-- Raise the global stop here: STOP_ID is time-base bits [25:10] (11 R409). -/
def globalStop (s : State) : State :=
  (s.stopWave (s.now / 1024 % 65536) (s.fab.num.getD 0) s.fab.num.isSome s.now).halt

/-- A trace trigger from an island (17 R581, R582). The code of the trigger's source is an open value. -/
def trigger (s : State) (island src : Nat) : State :=
  let st := s.traceState
  let lo := BitVec.ofNat 32 s.now
  let hi := BitVec.ofNat 32 (s.now / 2 ^ 32)
  if st = tsFULL then
    ((s.setRegBit rDBG_TRACE_STATUS 28 true).setReg rDBG_TRIG_TIME lo).setReg (rDBG_TRIG_TIME + 4) hi
  else if st ≠ tsARMED ∧ st ≠ tsPOST then s
  else
    let first := s.dbg.trigs = 0
    let s1 := s.modDbg fun d => { d with trigs := d.trigs + 1 }
    let pay := Config.trigCode src :: List.replicate 7 0#8 ++ leBytes 8 s1.dbg.trigs
    let r := s1.mkRec island 0 tyTRIGGER none pay
    let s2 := s1.modDbg fun d => { d with sseq := natPut d.sseq island ((r.sseq + 1) % 2 ^ 32) }
    if !first then s2.storeRec r
    else
      let s3 := (s2.setReg rDBG_TRIG_TIME lo).setReg (rDBG_TRIG_TIME + 4) hi
      let s4 := s3.storeRec r
      let s5 := if s4.regBit rDBG_TRACE_CTL 30 then
          let n := min (s4.regBits rDBG_TRACE_CTL 12 12 * 1024) (s4.dbg.cap - 1)
          if n = 0 then s4.setTraceState tsDONE
          else (s4.modDbg fun d => { d with postLeft := n }).setTraceState tsPOST
        else s4
      if s5.regBit rDBG_TRACE_CTL 28 then s5.globalStop else s5

/-- Post an event: its bit sets in EVENTS and in the EVENTS of the context's running launches (07 R269). -/
def postEvent (s : State) (c ev : Nat) : State :=
  if 16 ≤ c then s else
  let s := s.trace isMgmt 0 tyEVENT (some c) (leBytes 2 (0x100 + ev))
  let s := if s.regBit rDBG_TRACE_CTL 26 then s.trigger isMgmt 3 else s
  s.modCtx c fun x =>
    { x with
      events := x.events ||| BitVec.ofNat 64 (2 ^ ev)
      slots := x.slots.map fun sl =>
        { sl with launch := sl.launch.map fun l => if l.running then { l with events := l.events ||| BitVec.ofNat 64 (2 ^ ev) } else l } }

/-- A fault ends a kernel's run in its test context (15 R520, R521). -/
def kernelFault (s : State) (c : Nat) : State :=
  (s.modKernel c fun k => { k with bad := true }).modRoom (c - 16) fun x => { x with seqr := { x.seqr with stopped := true } }

/-- Raise a fault of a launch: the first by time base stands, ties to the lower lease index; issue stops in every room of
the range (06 R191). -/
def launchFault (s : State) (c sl li pc code : Nat) : State :=
  if 16 ≤ c then s.kernelFault c else
  let isl := (((s.ctx c).map (·.rooms)).getD []).getD li isMgmt
  let s := s.trace isl 15 tyFAULT (some c) (leBytes 2 code ++ leBytes 2 li ++ leBytes 4 0 ++ leBytes 8 pc)
  let s := if s.regBit rDBG_TRACE_CTL 27 then s.trigger isl 2 else s
  let s1 := s.modLaunch c sl fun l => match l.fault with
    | none => { l with fault := some (code, li, pc), faultT := s.now }
    | some (_, li', _) => if l.faultT = s.now ∧ li < li' then { l with fault := some (code, li, pc) } else l
  (s.launchRooms c sl).foldl (fun t r => t.modRoom r fun x =>
    if x.seqr.launch = some (c, sl) then { x with seqr := { x.seqr with stopped := true } } else x) s1

/-- Raise a fault from an instruction of a room. -/
def roomFault (s : State) (r pc : Nat) (f : FaultCode) : State :=
  match (s.room r).seqr.launch, (s.room r).lease with
  | some (c, sl), some (_, li) => s.launchFault c sl li pc f.code
  | _, _ => s

/-- Set sticky flags in an engine's word; they enter FLAGSUM, the launch's FLAGS and INV-in-step (02 R60, 06 Table 6.3,
Table 6.6, 13 R465). -/
def raiseFlags (s : State) (r reg : Nat) (f : Flags) : State :=
  if f = 0 then s else
  let new := f &&& ~~~((s.reg reg).setWidth 4)
  let s := if new = 0 || ((s.room r).lease.map (fun l => decide (16 ≤ l.1))).getD false then s else
    s.trace r (if reg % 0x40000 < 0x300 then (reg % 0x40000 - 0x100) / 0x20 else 12 + (reg % 0x40000 - 0x300) / 0x40) tyFLAG
      ((s.room r).lease.map (·.1)) (leBytes 4 new.toNat)
  let s := s.orFlags reg f
  let s := if f &&& fINV ≠ 0 then s.modRoom r fun x => { x with invStep := true } else s
  match (s.room r).seqr.launch with
  | some (c, sl) =>
    let s := s.modCtx c fun x => { x with flagsum := x.flagsum ||| f }
    s.modLaunch c sl fun l => { l with flags := l.flags ||| f }
  | none => s

/-- A room no longer runs a launch. -/
def Seqr.idle : Seqr := {}

/-- End a launch with a status: its rooms go idle, the record is written, the slot is free (06 R190, R218). -/
def endLaunch (s : State) (c sl status : Nat) : State :=
  match s.launch c sl with
  | none => s
  | some l =>
    let s1 := (s.launchRooms c sl).foldl (fun t r => t.modRoom r fun x =>
      if x.seqr.launch = some (c, sl) then { x with seqr := {}, infl := [], prior := [], trell := x.trell.map fun tr =>
        { idleSince := tr.idleSince,
          slots := tr.slots.map fun sl => if sl.st = .opened then sl else {} } } else x) s
    let (fc, fl, fp) := if status = csFAULT then l.fault.getD (0, 0, 0) else (0, 0, 0)
    let bs := cplBytes l.lr.tag status fc fl fp l.tAccept s.now l.events.toNat l.flags.toNat l.seq
    let s2 := s1.postCpl c sl bs (l.lr.flags % 2 = 1)
    let s3 := (if status = csFAULT ∨ status = csRESET then s2.dropBarriers c else s2).modSlot c sl fun x => { x with launch := none }
    if l.running then s3.noteLaunchEnd c (l.closed && status = csDONE) else s3

/-! Tokens and completion (06 R189) -/

def addToken (s : State) (r k : Nat) : State :=
  s.modRoom r fun x => { x with tok := x.tok.set k (x.tok.getD k 0 + 1) }

/-- An instruction's word names a token. -/
def tokenOf (s : State) (r : Nat) (w : TWord) : State := if w.tke then s.addToken r w.token.toNat else s

def findInfl (s : State) (r uid : Nat) : Option Infl := (s.room r).infl.find? fun i => i.uid = uid
def modInfl (s : State) (r uid : Nat) (f : Infl → Infl) : State :=
  s.modRoom r fun x => { x with infl := x.infl.map fun i => if i.uid = uid then f i else i }

/-- An instruction completes: its trace record, and its token (07 R225; 17 Table 17.5). -/
def finish (s : State) (r pc : Nat) (w : TWord) : State :=
  (s.trace r 15 tyCOMPLETE ((s.room r).lease.map (·.1)) (leBytes 8 pc ++ leBytes 1 (if w.tke then w.token.toNat else 0))).tokenOf r w

/-- Complete an instruction in flight: it leaves the list. -/
def complete (s : State) (r uid : Nat) : State :=
  match s.findInfl r uid with
  | none => s
  | some i => (s.modRoom r fun x =>
      { x with infl := x.infl.filter (fun j => j.uid ≠ uid), prior := mapSet x.prior uid none }).finish r i.pc i.w

/-! Races (06 R188) -/

/-- A range covers a virtual address. -/
def covers (rs : List (Nat × Nat)) (va : Nat) : Bool := rs.any fun (a, n) => a ≤ va && va < a + n

/-- Some unfinished instruction of the room other than `uid` writes this address. -/
def racy (s : State) (r uid va : Nat) : Bool := (s.room r).infl.any fun i => i.uid ≠ uid && covers i.writes va
/-- Some unfinished earlier instruction writes this address. -/
def racyRead (s : State) (r uid va : Nat) : Bool := (s.room r).infl.any fun i => i.uid < uid && covers i.writes va

/-- In a race over a 32-byte sector the old data win (06 R188, log 7). -/
def oldWins (s : State) (uid va : Nat) : Bool := Config.freeBit (s.free + uid + va / 32)

/-- A pantry byte as an instruction of the room reads it: where unfinished earlier instructions write it, as one of them left it or
as it stood before, sector by sector (06 R188, log 7). -/
def pantByte (s : State) (r uid off : Nat) : Nat :=
  let x := s.room r
  let hot := x.infl.filter fun i => i.uid < uid && covers i.writes (ownBase + off)
  hot.foldr (fun i v => match mapGet x.prior i.uid with
    | some m => if s.oldWins i.uid (ownBase + off) then m.nat off else v
    | none => v) (x.pantry.nat off)

/-- A tensor in the room's pantry as an instruction reads it. -/
def view (s : State) (r uid : Nat) (d : Desc) : View := { d := d, rd := fun a => s.pantByte r uid a }

/-- Bytes that two unfinished instructions write hold the data of either, sector by sector (06 R188, log 7). `m` holds the bytes as
the instruction `uid` writes them. -/
def settle (s : State) (r uid : Nat) (rs : List (Nat × Nat)) (m : Mem) : Mem :=
  let hot := rs.flatMap fun (a, n) => ((List.range n).map (a + ·)).filter fun va => s.racy r uid va && s.oldWins uid va
  hot.foldl (fun m va => m.set (pantOff va) ((s.room r).pantry.get (pantOff va))) m

/-- The bytes of ranges as the pantry holds them. -/
def pantCopy (m : Mem) (rs : List (Nat × Nat)) : Mem := m.filter fun c => rs.any fun x => pantOff x.1 ≤ c.1 && c.1 < pantOff x.1 + x.2

/-- Store a pantry as an instruction left it, settling races over the ranges it writes; what stood there before its first store is
kept until it completes (06 R188). -/
def putPantry (s : State) (r uid : Nat) (rs : List (Nat × Nat)) (m : Mem) : State :=
  let s1 := s.modRoom r fun x =>
    { x with
      pantry := s.settle r uid rs m
      prior := if (mapGet x.prior uid).isSome then x.prior else mapSet x.prior uid (some (pantCopy x.pantry rs)) }
  { s1 with free := s1.free + 1 }

end State

end Sys2Proof.Machine
end

