-- ==== Sys2Proof/Machine/Flags.lean ====
section
/-! DEFINITION. Engine flag words (02 R60 to R63, Table 2.5; 07 R251): which register holds an engine's flags, setting by
engine, and read-and-clear. -/

namespace Sys2Proof.Machine

/-- The flag word of engine n of FLGRC's mask: 0 to 11 trellises, 12 landing, 13 hearth, 14 spout (07 R251). -/
def engineReg (r n : Nat) : Nat :=
  if n < 12 then rTR_FLAGS r n else if n = 12 then rLND_FLAGS r else if n = 13 then rHRT_FLAGS r else rSPT_FLAGS r

namespace State

def trFlags (s : State) (r t : Nat) (f : Flags) : State := s.raiseFlags r (rTR_FLAGS r t) f
def lndFlags (s : State) (r : Nat) (f : Flags) : State := s.raiseFlags r (rLND_FLAGS r) f
def hrtFlags (s : State) (r : Nat) (f : Flags) : State := s.raiseFlags r (rHRT_FLAGS r) f
def sptFlags (s : State) (r : Nat) (f : Flags) : State := s.raiseFlags r (rSPT_FLAGS r) f

/-- LND_CTL of a context: that of the room of lease index 0, or the value it left its rooms with (04 R157). -/
def lndOf (s : State) (c : Nat) : W32 :=
  match s.ctx c with
  | some x => (x.rooms.head?.map fun r => s.reg (rLND_CTL r)).getD x.lnd
  | none => regReset (rLND_CTL 0)

/-- The steward writes a register word but for its RSV bits (00 R704). -/
def setRegKept (s : State) (o : Nat) (v : W32) : State :=
  let m := ((regFields o).map rsvMask).getD 0
  s.setReg o ((v &&& ~~~m) ||| (s.reg o &&& m))

/-- LND_CTL of every room of a context, in its leases and in its saved images (04 R157). -/
def setLnd (s : State) (c : Nat) (v : W32) : State :=
  let s1 := (((s.ctx c).map (·.rooms)).getD []).foldl (fun t r => if (t.room r).lease.map (·.1) = some c then t.setRegKept (rLND_CTL r) v else t) s
  s1.modCtx c fun x => { x with
    lnd := v
    saved := x.saved.map fun y => (y.1, y.2.1, y.2.2.map fun g => if g.1 = rLND_CTL 0 - rRoom 0 then (g.1, v) else g) }

/-- Clear the four flags of an engine word, keeping its RSV bits (02 R62). -/
def clearFlags (s : State) (reg : Nat) : State := s.setReg reg (s.reg reg &&& ~~~0xF#32)

/-- OR of every engine flag word of a room. -/
def roomFlags (s : State) (r : Nat) : Flags :=
  (List.range 15).foldl (fun f n => f ||| (s.reg (engineReg r n)).setWidth 4) 0

end State

/-- Latency class of a room: 1 when a spare row of any trellis is in service (03 R99). -/
def State.latClass (s : State) (r : Nat) : Nat :=
  if (List.range 12).any fun t => [rTR_ROWMAP_LO r t, rTR_ROWMAP_HI r t].any fun o => s.reg o &&& 0x80808080#32 ≠ 0
  then 1 else 0

end Sys2Proof.Machine
end

