-- ==== Sys2Proof/Machine/Fabric.lean ====
section
/-! DEFINITION. The Gysal link and transport: flits, retry, credits, routing, packets and requests (11 R382 to R407). -/

namespace Sys2Proof.Machine

/-- Transaction codes (11 Table 11.9) and response statuses (Table 11.10). -/
abbrev opREAD : Nat := 1
abbrev opWRITE : Nat := 2
abbrev opATOMIC : Nat := 3
abbrev opCOLFRAG : Nat := 4
abbrev opRACK : Nat := 5
abbrev opMGMT : Nat := 6
abbrev opECHO : Nat := 7
abbrev rsOK : Nat := 0
abbrev rsWINDOW : Nat := 1
abbrev rsNO_ROUTE : Nat := 2
abbrev rsSPACE : Nat := 3
abbrev rsALIGN : Nat := 4
abbrev rsECC : Nat := 5
abbrev rsLINK_LOST : Nat := 6
abbrev rsNOT_READY : Nat := 7

end Sys2Proof.Machine

namespace Sys2Proof.Packet

open Sys2Proof.Machine

/-- Virtual lane of a packet (11 Table 11.5). -/
def vl (k : Packet) : Nat :=
  if k.op = opMGMT ∨ k.op = opECHO then 0
  else if k.rsp then 2
  else if k.op = opCOLFRAG ∨ (k.op = opRACK ∧ k.arg % 4 = 0) then 3
  else 1

def dataWords (k : Packet) : Nat := cdiv k.data.length 16

/-- Header and data words as bytes (11 Table 11.8). -/
def bytes (k : Packet) : List Byte :=
  let b (x : Bool) : Nat := if x then 1 else 0
  let w0 := k.op % 256 + b k.dup * 2 ^ 8 + b k.rsp * 2 ^ 9 + b k.isLocal * 2 ^ 10 + k.dataWords % 512 * 2 ^ 12
    + k.tag % 65536 * 2 ^ 24 + k.dst % 2 ^ 18 * 2 ^ 40 + k.src % 2 ^ 18 * 2 ^ 64 + k.status % 256 * 2 ^ 88 + k.birth % 2 ^ 32 * 2 ^ 96
  leBytes 16 w0 ++ leBytes 8 k.addr ++ leBytes 8 k.arg ++ (k.data ++ List.replicate 15 0#8).take (16 * k.dataWords)

/-- The header at the head of a lane's bytes, once it is there, as a packet without its data. -/
def header (bs : List Byte) : Option Packet :=
  if bs.length < 32 then none
  else
    let w0 := leNum (bs.take 16)
    some {
      op := w0 % 256, dup := w0.testBit 8, rsp := w0.testBit 9, isLocal := w0.testBit 10
      tag := w0 / 2 ^ 24 % 65536, dst := w0 / 2 ^ 40 % 2 ^ 18, src := w0 / 2 ^ 64 % 2 ^ 18
      status := w0 / 2 ^ 88 % 256, birth := w0 / 2 ^ 96 % 2 ^ 32
      addr := leNum ((bs.drop 16).take 8), arg := leNum ((bs.drop 24).take 8) }

/-- The packet at the head of a lane's bytes, and the bytes after it, once all its words are there. -/
def take (bs : List Byte) : Option (Packet × List Byte) :=
  (header bs).bind fun k =>
    let n := 16 * (leNum (bs.take 16) / 2 ^ 12 % 512)
    if bs.length < 32 + n then none else some ({ k with data := (bs.drop 32).take n }, bs.drop (32 + n))

/-- Every whole packet of a lane's bytes, and what is left. -/
def takeAll : Nat → List Byte → List Packet × List Byte
  | 0, bs => ([], bs)
  | f + 1, bs => match take bs with
    | none => ([], bs)
    | some (k, rest) => let (ks, r) := takeAll f rest; (k :: ks, r)

/-- Cut a packet into flit payloads of at most 15 words; a flit holds words of one packet (log 22). -/
def flits (k : Packet) : List TxFlit :=
  let bs := k.bytes
  (List.range (cdiv bs.length 240)).map fun i =>
    let p := (bs.drop (240 * i)).take 240
    { vl := k.vl, words := p.length / 16, payload := p, pkt := k, last := decide (bs.length ≤ 240 * (i + 1)) }

end Sys2Proof.Packet

namespace Sys2Proof.Machine

/-! Cutting at 4 KiB (08 R296; 11 R402) -/

/-- Cut one run at 4 KiB aligned addresses of its key (the destination, or the source of a spout read). -/
def cutRun (bySrc : Bool) : Nat → Nat → Nat → Nat → List (Nat × Nat × Nat)
  | 0, _, _, _ => []
  | f + 1, src, dst, n =>
    if n = 0 then [] else
      let key := if bySrc then src else dst
      let k := min n (4096 - key % 4096)
      (src, dst, k) :: cutRun bySrc f (src + k) (dst + k) (n - k)

def runsOf (bySrc : Bool) (src dst n : Nat) : List (Nat × Nat × Nat) := cutRun bySrc (n / 4096 + 2) src dst n

/-- 4 KiB pieces of a fabric range. -/
def globPieces (ga n : Nat) : List (Nat × Nat) := (runsOf true ga 0 n).map fun x => (x.1, x.2.2)

namespace State

def modFab (s : State) (f : Fab → Fab) : State := { s with fab := f s.fab }

def aligned (s : State) : Bool := s.regBit rTB_STATUS 31

/-- LIFETIME, T_REQ, HELLO_US and RETRY_MAX as they act (11 Table 11.14). -/
def lifetimeNs (s : State) : Nat := (let v := s.regBits rFAB_CTL 4 8; if v = 0 then 10 else v) * 100000
def retryMax (s : State) : Nat := s.regBits rFAB_CTL 28 4
def helloNs (s : State) : Nat := (let v := s.regBits rFAB_CTL 12 8; if v = 0 then 10 else v) * 1000

/-! Sending flits -/

def emitFlit (s : State) (p : Nat) (ftype : Nat) (x : TxFlit) : State :=
  s.putFlit p ftype x.vl x.seq x.words x.payload

/-- A lane may send a new DATA flit: credit left, fewer than 512 unacknowledged, and VL1 to VL3 only when ALIGNED (11
R388, R390; 16 R557). -/
def laneOpen (s : State) (p : Nat) (vl : Nat) : Bool :=
  let q := s.port p
  (vl = 0 || s.aligned) && (q.spent.getD vl 0 + 256 - q.seen.getD vl 0) % 256 < q.bufs.getD vl 0 && q.replay.length < 512

/-- Flits per round of a lane, and the lane after it (11 R391). -/
def laneShare (v : Nat) : Nat := if v = 2 then 4 else if v = 1 then 2 else 10
def laneAfter (v : Nat) : Nat := if v = 2 then 1 else if v = 1 then 3 else 2

/-- A lane has a flit that it may send. -/
def laneReady (s : State) (p v : Nat) : Bool := s.laneOpen p v && (s.port p).txq.any fun x => x.vl = v

/-- The lane a port serves next, and the round robin's turn after its flit: VL0 first, then 4, 2 and 10 flits of VL2, VL1 and VL3
in a round; a lane with no flit ready yields its turn (11 R391). -/
def nextLane (s : State) (p : Nat) : Option (Nat × (Nat × Nat)) :=
  let (t, n) := (s.port p).turn
  if s.laneReady p 0 then some (0, (t, n))
  else
    let order := (if n = 0 then [] else [(t, n)])
      ++ [laneAfter t, laneAfter (laneAfter t), t].map fun v => (v, laneShare v)
    (order.find? fun x => s.laneReady p x.1).map fun x => (x.1, (x.1, x.2 - 1))

/-- The flit a lane sends next: the first one, and on VL3 the first of the class whose turn it is, 3 collective flits to 1 rack flit
while both have flits; the turn passes at packet boundaries (11 R391; 01 R23). -/
def nextFlit (q : Port) (v : Nat) : Option TxFlit :=
  let of (b : Bool) : Option TxFlit := q.txq.find? fun x => x.vl = v && decide (x.pkt.op = opCOLFRAG) = b
  if v ≠ 3 then q.txq.find? fun x => x.vl = v
  else match q.under with
    | some b => of b
    | none => match of true, of false with
      | some x, some y => some (if q.deficit ≤ 0 then x else y)
      | some x, none => some x
      | none, y => y

/-- What sending a flit does to the sharing of VL3: both classes count while both have flits ready (11 R391). -/
def shareAfter (q : Port) (x : TxFlit) : Int × Option Bool :=
  let col : Bool := x.pkt.op = opCOLFRAG
  let both := [true, false].all fun b => q.txq.any fun y => y.vl = 3 && decide (y.pkt.op = opCOLFRAG) = b
  if x.vl ≠ 3 then (q.deficit, q.under)
  else (if both then q.deficit + (if col then 1 else -3) else 0, if x.last then none else some col)

/-- Send what the port can send, in the order of R391 (log 10). -/
def pumpN (p : Nat) : Nat → State → State
  | 0, s => s
  | n + 1, s =>
    if !s.portUp p ∨ s.devState = stSTOPPED then s
    else
      let q := s.port p
      match s.nextLane p with
      | none => s
      | some (v, turn) =>
        match nextFlit q v with
        | none => s
        | some x =>
          let x' := { x with seq := (q.txSeq + 1) % 4096 }
          let s1 := s.modPort p fun q =>
            { q with
              txq := q.txq.erase x
              turn := turn
              deficit := (shareAfter q x).1
              under := (shareAfter q x).2
              replay := q.replay ++ [x']
              txSeq := x'.seq
              spent := q.spent.set v ((q.spent.getD v 0 + 1) % 256) }
          pumpN p n (s1.emitFlit p 1 x')

def pump (s : State) (p : Nat) : State := pumpN p (s.port p).txq.length s

/-! Routing (11 R397, R398) -/

/-- Ports in UP that hear hellos of module d. -/
def nearPorts (s : State) (d : Nat) : List Nat :=
  (List.range 16).filter fun p => s.portUp p && (((s.port p).hello.bind fun h => h.1.num) = some d)

/-- The far port of a packet, by the route table. -/
def farPort (s : State) (k : Packet) : Option Nat :=
  let d := k.dst
  let mask := natGet s.fab.route (d / 64)
  let ps := ((List.range 16).filter fun i => mask.testBit i && s.portState (16 + i) = psUP).map (16 + ·)
  if ps.isEmpty then none else ps[(d ^^^ k.tag ^^^ (k.tag / 256)) % ps.length]?

/-- The near port of a packet, by its neighbours' hellos. -/
def nearPort (s : State) (k : Packet) : Option Nat :=
  match s.nearPorts k.dst with
  | [] => none
  | [p] => some p
  | p :: q :: _ => some (if k.tag % 2 = 0 then p else q)

/-- The port a packet takes, none when there is no route (R397). -/
def routePort (s : State) (k : Packet) : Option Nat :=
  (if s.fab.num.map (· / 8) = some (k.dst / 8) then s.nearPort k else none).orElse fun _ => s.farPort k

/-- BIRTH of a packet sent now (11 R404, 16 R557). -/
def birthNow (s : State) : Nat :=
  if !s.aligned then 0 else let b := s.now / 1024 % 2 ^ 32; if b = 0 then 1 else b

/-- Put a packet that has arrived whole into the inbox. -/
def arrive (s : State) (p : Nat) (k : Packet) : State := s.modFab fun f => { f with inbox := f.inbox ++ [(p, k)] }

/-- Put a packet's flits on a port as they are. -/
def sendRaw (s : State) (p : Nat) (k : Packet) : State := (s.modPort p fun q => { q with txq := q.txq ++ k.flits }).pump p

/-- Send a packet on a given port. -/
def sendOn (s : State) (p : Nat) (k : Packet) : State := s.sendRaw p { k with birth := s.birthNow }

/-- Send a packet on the route of its destination; to this module it only arrives. A request without a route gets a
NO_ROUTE response (11 R397). -/
def send (s : State) (k : Packet) : State :=
  if some k.dst = s.fab.num then s.arrive 32 { k with birth := s.birthNow }
  else match s.routePort k with
  | some p => s.sendOn p k
  | none =>
    if k.rsp then s
    else s.arrive 32 { k with rsp := true, status := rsNO_ROUTE, dst := k.src, src := k.dst, data := [] }

/-- Issue a request: a fresh tag, remembered until its response (11 R406). -/
def request (s : State) (who : ReqFor) (k : Packet) : State :=
  let tag := s.fab.nextTag
  let k := { k with tag := tag, src := s.fab.num.getD 0 }
  (s.modFab fun f =>
    { f with nextTag := (tag + 1) % 65536, reqs := f.reqs ++ [{ tag := tag, who := who, pkt := k }] }).send k

/-- Send the response of a request that arrived on a port (32: this module). Link-local requests are answered on their
port. -/
def respond (s : State) (p : Nat) (k : Packet) (status : Nat) (data : List Byte) (addr arg : Nat := 0) : State :=
  let r : Packet := {
    op := k.op, rsp := true, isLocal := k.isLocal, tag := k.tag, dst := k.src, src := s.fab.num.getD 0
    status := status, addr := addr, arg := arg, data := data }
  if k.isLocal ∧ p < 32 then s.sendOn p r else s.send r

/-! Bytes behind another module's global address (08 R284) -/

/-- The 4 KiB pieces of the far places of a range: the first byte's offset in the range, global address and length. -/
def farPieces (ls : List (Nat × Loc × Nat)) : List (Nat × Nat) :=
  ls.flatMap fun x => match x.2.1 with
    | .glob ga => globPieces ga x.2.2
    | _ => []

/-- What an engine has of a far piece. -/
def farGot (s : State) (who : FarWho) (ga : Nat) : Option (List Byte) :=
  (s.mmu.far.find? fun x => x.who = who && x.ga = ga).bind (·.data)

def modFar (s : State) (f : List Far → List Far) : State := { s with mmu := { s.mmu with far := f s.mmu.far } }
def farDrop (s : State) (who : FarWho) : State := s.modFar fun l => l.filter fun x => x.who ≠ who

/-- Forget what a room's units have asked for. -/
def farDropRoom (s : State) (r : Nat) : State :=
  s.modFar fun l => l.filter fun x => match x.who with
    | .fetch q => q ≠ r
    | .plan q _ => q ≠ r
    | .resume q _ => q ≠ r
    | .ring q _ => q ≠ r
    | _ => true

/-- Every far piece of a range has been answered. -/
def farReady (s : State) (who : FarWho) (ls : List (Nat × Loc × Nat)) : Bool :=
  (farPieces ls).all fun x => (s.farGot who x.1).isSome

/-- Ask for the far pieces not asked for yet; pieces of another range of the same engine are forgotten. `wr` gives the bytes of a
write by piece. -/
def farAsk (s : State) (who : FarWho) (ps : List (Nat × Nat)) (wr : Option (Nat → List Byte)) : State :=
  let have' (g : Nat) : Bool := s.mmu.far.any fun x => x.who = who && x.ga = g
  let new := ps.filter fun x => !have' x.1
  let s1 := s.modFar fun l => (l.filter fun x => x.who ≠ who || ps.any fun y => y.1 = x.ga) ++ new.map fun x => { who := who, ga := x.1 }
  new.foldl (fun t (g, n) => t.request (.far who g) (match wr with
    | none => { op := opREAD, dst := g / 2 ^ 44 % 2 ^ 18, addr := g, arg := n }
    | some f => { op := opWRITE, dst := g / 2 ^ 44 % 2 ^ 18, addr := g, arg := n, data := f g })) s1

/-- The bytes of a range whose far pieces have come. -/
def farBytes (s : State) (who : FarWho) (ls : List (Nat × Loc × Nat)) : List Byte :=
  ls.flatMap fun x => match x.2.1 with
    | .glob ga => (globPieces ga x.2.2).flatMap fun y => (s.farGot who y.1).getD []
    | l => s.locRead l x.2.2

/-- Read a VA range wherever it lies: its bytes, or none while far pieces are on their way. -/
def farRead (s : State) (who : FarWho) (c : Nat) (own : Option Nat) (va n : Nat) (acs : Acs := .rd) :
    Except (Nat × XErr) (Option (List Byte) × State) :=
  (s.vaSpan c own va n acs).map fun ls =>
    if s.farReady who ls then (some (s.farBytes who ls), s.farDrop who) else (none, s.farAsk who (farPieces ls) none)

/-- The bytes of far places among those that `bs` gives a list of places in turn, by global address of the piece. -/
def farData (ls : List (Nat × Loc × Nat)) (bs : List Byte) (g : Nat) : List Byte :=
  (ls.foldl (fun (a : List Byte × Option (List Byte)) x => match x.2.1 with
    | .glob ga => (a.1.drop x.2.2, match (globPieces ga x.2.2).find? fun y => y.1 = g with
      | some y => some ((a.1.drop (g - ga)).take y.2)
      | none => a.2)
    | _ => (a.1.drop x.2.2, a.2)) (bs, none)).2.getD []

/-- Store bytes at a VA range wherever it lies: true once every far piece is acknowledged and the rest is stored. -/
def farWrite (s : State) (who : FarWho) (c : Nat) (own : Option Nat) (va : Nat) (bs : List Byte) :
    Except (Nat × XErr) (Bool × State) :=
  (s.vaSpan c own va bs.length .wr).map fun ls =>
    if s.farReady who ls then (true, (s.farDrop who).spread ls bs)
    else (false, s.farAsk who (farPieces ls) (some (farData ls bs)))

/-- Take a packet out of the inbox: the port it came on, 32 when it was not there. -/
def fromInbox (s : State) (k : Packet) : Nat × State :=
  match s.fab.inbox.find? fun x => x.2 = k with
  | some x => (x.1, s.modFab fun f => { f with inbox := f.inbox.erase x })
  | none => (32, s)

/-! Receiving flits -/

/-- ASEQ and CFREE of an arriving flit: acknowledged flits leave the replay buffer, credits return (11 R385). -/
def heard (s : State) (p : Nat) (l : LinkHdr) : State :=
  let q := s.port p
  let rec drop : List TxFlit → Option (List TxFlit)
    | [] => none
    | x :: t => if x.seq = l.aseq % 4096 then some t else drop t
  s.modPort p fun _ => { q with replay := (drop q.replay).getD q.replay, seen := l.cfree.map (· % 256) }

/-- A flit has been heard, and the port sends what that lets it send. -/
def hear (s : State) (p : Nat) (l : LinkHdr) : State := (s.heard p l).pump p

/-- Port in UP leaves it: partial packets are discarded, the replay buffer empties; each packet with a flit
unacknowledged, or sent in part, is resent at once, waits LIFETIME, or is an ATOMIC reported LINK_LOST; a packet of which nothing
has been sent takes a new route (11 R389, R397, R405; log 22). -/
def loseLink (s : State) (p : Nat) : State :=
  let q := s.port p
  let queued := (q.txq.map (·.pkt)).eraseDups
  let whole (k : Packet) : Bool := (q.txq.filter fun x => x.pkt = k).length ≥ k.flits.length
  let pk := ((q.replay.map (·.pkt)) ++ queued.filter fun k => !whole k).eraseDups
  let waits (k : Packet) : Bool := !k.rsp && (k.op = opWRITE || k.op = opCOLFRAG || (k.op = opRACK && k.arg % 4 = 0))
  let s1 := s.modPort p fun q =>
    { q with
      replay := [], txq := [], turn := (2, 4), deficit := 0, under := none, txSeq := 0, aseq := 0, spent := [0, 0, 0, 0], seen := [0, 0, 0, 0], cfree := [0, 0, 0, 0]
      nakSent := false, part := [[], [], [], []], stale := [false, false, false, false], kept := 0, trainSent := false, trainSeen := false
      lost := q.lost ++ pk.filter waits }
  let s2 := if pk.isEmpty then s1 else s1.setRegBit (rFAB_PORT p) 2 true
  let s3 := (pk.filter fun k => !waits k).foldl (fun t k =>
    if k.op = opATOMIC ∧ !k.rsp then
      t.arrive 32 { k with rsp := true, status := rsLINK_LOST, dst := k.src, src := k.dst, data := [] }
    else if k.isLocal then t
    else t.send { k with dup := true }) s2
  (queued.filter fun k => !pk.contains k && !k.isLocal).foldl (fun t k => t.send k) s3

/-- A REPORT to the fabric manager, once it is known (11 Table 11.12); a module without a number waits for no answer, which could not reach
it (log 21). The record's layout is an open value (log 21). -/
def reportMgr (s : State) (kind a b : Nat) : State :=
  match s.fab.manager with
  | none => s
  | some (_, m) =>
    let k : Packet := { op := opMGMT, dst := m, arg := 7, data := Config.reportRec kind a b }
    if s.fab.num.isSome then s.request .mgmt k else s.send { k with tag := s.fab.nextTag }

/-- Change a port's STATE with its trace record and its REPORT; an entry to RETRAIN counts (11 R383, Table 11.15; 17 Table
17.11). -/
def setPort (s : State) (p st : Nat) : State :=
  let old := s.portState p
  let s1 := (s.setRegBits (rFAB_PORT p) 28 4 st).trace (96 + p) 0 tyPORT none (leBytes 1 old ++ leBytes 1 st)
  let s2 := if st = psRETRAIN then ((s1.regCount (rFAB_PORT p) 8 8 1).lifeAdd lfPort p 1).riskEvent 3 0
    else if st = psDOWN then s1.lifeAdd lfPort (32 + p) 1 else s1
  s2.reportMgr 0 p st

/-- Receive buffers this module advertises (11 R384, Table 11.5; 16 R557). -/
def myBufs (s : State) : List Nat :=
  if s.devState = stBOOT ∨ s.devState = stTEST ∨ s.devState = stVESTIBULE ∨ !s.aligned then [16, 0, 0, 0] else [16, 96, 96, 192]

/-- Send a TRAIN flit. -/
def sendTrain (s : State) (p : Nat) (reset : Bool) : State :=
  let q := s.port p
  ((s.emit (.train p {
    version := Config.fabricVersion, port := p, pos := s.housePos.getD 0xFF, bufs := s.myBufs, reset := reset
    link := { aseq := q.aseq, cfree := q.cfree } })).bump fmPORT p 0 1).modPort p fun q => { q with trainSent := true }

/-- A fresh TRAIN exchange on every port, as on entry to READY and when ALIGNED first sets (11 R384, 16 R557). -/
def retrainAll (s : State) : State :=
  (List.range 32).foldl (fun t p => if t.portUp p ∨ t.portState p = psINIT then t.sendTrain p true else t) s

/-- Age of a packet exceeds its lifetime (11 R404, 16 R557). -/
def tooOld (s : State) (k : Packet) : Bool :=
  s.aligned && k.birth ≠ 0 &&
    (let a := (s.now / 1024 + 2 ^ 32 - k.birth % 2 ^ 32) % 2 ^ 32
     (if a ≥ 2 ^ 31 then 0 else a) * 1024 > s.lifetimeNs)

end State

end Sys2Proof.Machine

namespace Sys2Proof.DataFlit

open Sys2Proof.Machine

/-- The first 12 bytes of a DATA flit: type, lane, sequence number, acknowledged number, credits, count of words (11 Table 11.3). -/
def head (f : DataFlit) : Nat := leNum (f.bytes.take 12)
def link (f : DataFlit) : LinkHdr :=
  let h := f.head
  { aseq := h / 2 ^ 20 % 4096, cfree := [h / 2 ^ 32 % 256, h / 2 ^ 40 % 256, h / 2 ^ 48 % 256, h / 2 ^ 56 % 256] }
def seq (f : DataFlit) : Nat := f.head / 2 ^ 8 % 4096
/-- Its FEC and its CRC are good (11 R385, R387). -/
def good (f : DataFlit) : Bool :=
  f.fecOk && (crc32c (f.bytes.take 12 ++ f.bytes.drop 16)).toNat = leNum ((f.bytes.drop 12).take 4)
/-- It is a flit of a type (11 Table 11.4). -/
def isType (f : DataFlit) (t : Nat) : Bool := f.bytes.length = 256 && f.head % 16 = t

end Sys2Proof.DataFlit

namespace Sys2Proof.Machine

namespace State

/-- The racking stage holds a write that faulted: it returns no credits upstream (08 R300). -/
def rackStopped (s : State) : Bool := !s.rck.held.isEmpty

/-- An IDLE flit: with nothing else to send it carries ASEQ and CFREE (11 R385, R391; log 22). -/
def sendIdle (s : State) (p : Nat) : State := if s.portUp p then s.putFlit p 0 0 0 0 [] else s

/-- A flit accepted in sequence: its words join the lane's partial packet, and every packet that is whole arrives. A packet whose header, when
it is received, is older than its lifetime is dropped whole (11 R387, R404). The flit's buffer is freed, but for a rack transfer's while the
racking stage is held (11 R390; 08 R300). -/
def takeFlit (s : State) (p : Nat) (f : DataFlit) : State :=
  let v := f.head / 2 ^ 4 % 4
  let words := f.head / 2 ^ 64 % 16
  let q := s.port p
  let prior := q.part.getD v []
  let bs := prior ++ (f.bytes.drop 16).take (16 * words)
  let (ks, rest) := Packet.takeAll 16 bs
  let was := decide (32 ≤ prior.length)
  let old := q.stale.getD v false
  let restOld := match Packet.header rest with
    | some k => if ks.isEmpty && was then old else s.tooOld k
    | none => false
  let keep := v = 3 && s.rackStopped && (Packet.header bs).any fun k => k.op = opRACK
  let s1 := s.modPort p fun q =>
    { q with
      aseq := (q.aseq + 1) % 4096, nakSent := false, part := q.part.set v rest, stale := q.stale.set v restOld
      cfree := if keep then q.cfree else q.cfree.set v ((q.cfree.getD v 0 + 1) % 256), kept := if keep then q.kept + 1 else q.kept }
  let dropped (t : State) : State := (t.setRegBit (rFAB_PORT p) 3 true).bump fmPORT p 10 1
  let s2 := ks.zipIdx.foldl (fun t (k, i) =>
    if i = 0 && was then (if old then t else t.arrive p k) else if t.tooOld k then dropped t else t.arrive p k) s1
  if restOld && !(ks.isEmpty && was) then dropped s2 else s2

/-- The racking stage is held no more: the buffers it kept are freed (08 R300). -/
def freeKept (s : State) : State :=
  if s.rackStopped then s
  else (List.range 32).foldl (fun t p =>
    if (t.port p).kept = 0 then t
    else (t.modPort p fun q => { q with cfree := q.cfree.set 3 ((q.cfree.getD 3 0 + q.kept) % 256), kept := 0 }).sendIdle p) s

/-- A NAK with the present ASEQ (11 R387). -/
def sendNak (s : State) (p : Nat) : State := (s.putFlit p 2 0 0 0 []).bump fmPORT p 3 1

/-- A flit is discarded: one NAK asks for the next in sequence until it comes (11 R387). -/
def nakOnce (s : State) (p : Nat) : State :=
  if (s.port p).nakSent then s else (s.sendNak p).modPort p fun q => { q with nakSent := true }

/-- A flit reaches a port in UP: one that the FEC or the CRC finds bad, of whatever type, is discarded with a NAK; of a good one of the type
expected, `f` says what it does (11 R387). -/
def rxFlit (s : State) (p : Nat) (f : DataFlit) (ty : Nat) (g : State → State) : State :=
  if !s.portUp p ∨ f.bytes.length ≠ 256 then s
  else if !f.good then ((s.bump fmPORT p 1 1).bump fmPORT p 2 1).nakOnce p
  else if f.isType ty then g (s.bump fmPORT p 1 1)
  else s

/-- A DATA flit: accepted in sequence, or discarded with one NAK; a good one's acknowledgement and credits are heard, and an accepted one's
are returned (11 R387, R390). -/
def dataFlit (s : State) (p : Nat) (f : DataFlit) : State :=
  s.rxFlit p f 1 fun t =>
    let u := t.hear p f.link
    if f.seq = ((s.port p).aseq + 1) % 4096 then (u.takeFlit p f).sendIdle p else u.nakOnce p

/-- Resend every unacknowledged DATA flit; a flit resent 16 times sends the port into RETRAIN (11 R388, R389). -/
def resend (s : State) (p : Nat) : State :=
  let q := s.port p
  if s.devState = stSTOPPED then s
  else if q.replay.any fun x => x.resent ≥ 16 then
    (s.setPort p psRETRAIN).loseLink p
  else
    let s1 := s.modPort p fun q => { q with replay := q.replay.map fun x => { x with resent := x.resent + 1 } }
    q.replay.foldl (fun t x => (t.emitFlit p 1 x).bump fmPORT p 4 1) s1

end State

end Sys2Proof.Machine
end

