-- ==== Sys2Proof/Machine/Operands.lean ====
section
/-! DEFINITION. Fetch and issue of a Tiruf instruction (06 R186 to R188, 07 R224 to R228), operand kinds and the latching
of descriptors (06 R194). -/

namespace Sys2Proof.Machine

/-- What an instruction's own rules make of the state at issue: a fault, the state after issue, or what it does to the state before
issue when it must be issued again. -/
inductive Iss where
  | fault (f : FaultCode)
  | ok (s : State)
  | again (k : State → State)

/-- Where an instruction issues: context, launch slot, lease index, address, and its number in the room. -/
structure At where
  room : Nat
  c : Nat
  sl : Nat
  li : Nat
  pc : Nat
  uid : Nat
  op : Byte := 0
  deriving DecidableEq, Repr

namespace State

/-- Start a translation fault's resolution for a waiter (08 R291, Table 8.10): causes 4 to 7 end the launch at once;
the others wait on the steward. -/
def addWait (s : State) (w : WaitF) : State :=
  { s with mmu := { s.mmu with waits := s.mmu.waits ++ [{ w with wid := s.mmu.nextWid, t := s.now }], nextWid := s.mmu.nextWid + 1 } }

/-- A cause that nothing resolves (08 Table 8.10). -/
def finalCause (c : Nat) : Bool := 4 ≤ c && c ≤ cWALK_ECC

/-- A room's sequencer may issue: a launch runs in it, nothing holds it, and no product with tiles still to queue is in it (06 R187,
R209). -/
def canIssue (s : State) (r : Nat) : Option (Nat × Nat × Nat) :=
  let x := s.room r
  match x.seqr.launch, x.lease with
  | some (c, sl), some (_, li) =>
    if s.working && x.seqr.hold = .none && !x.seqr.stopped && !x.seqr.ended && x.infl.all (·.toQueue.isEmpty) then some (c, sl, li) else none
  | _, _ => none

/-- The fetch of a room's next instruction: the bytes, none while they come from another module, or its fault (06 R186; 08 R291). A
kernel's program stands at address 0 of its test context: DESIGN CHOICE (log 33). -/
def fetchAt (s : State) (r c : Nat) : Except (Nat × XErr) (Option (List Byte) × State) :=
  match s.kernel c with
  | some k =>
    let pc := (s.room r).seqr.pc
    if pc + 16 ≤ k.prog.length then .ok (some ((k.prog.drop pc).take 16), s) else .error (pc, { cause := cAPERTURE })
  | none =>
  s.farRead (.fetch r) c (some r) (s.room r).seqr.pc 16 .fetch

/-- Record an instruction as issued and unfinished. -/
def pushInfl (s : State) (r : Nat) (i : Infl) : State :=
  s.modRoom r fun x => { x with infl := x.infl ++ [i] }

def setHold (s : State) (r : Nat) (h : Hold) : State := s.modRoom r fun x => { x with seqr := { x.seqr with hold := h } }

/-- An instruction holds its room's sequencer; it completes when the hold ends (06 R189). -/
def holdFor (s : State) (r pc : Nat) (w : TWord) (h : Hold) : State :=
  s.modRoom r fun x => { x with seqr := { x.seqr with hold := h, owed := some (pc, w) } }

/-- A hold ends: its instruction completes. -/
def freeHold (s : State) (r : Nat) : State :=
  let t := s.modRoom r fun x => { x with seqr := { x.seqr with hold := .none, owed := .none } }
  match (s.room r).seqr.owed with
  | some (pc, w) => t.finish r pc w
  | none => t

def setPc (s : State) (r pc : Nat) : State := s.modRoom r fun x => { x with seqr := { x.seqr with pc := pc } }

/-- The state an instruction's rules act on: its word is no longer kept by the fetch, its number is taken, the PC is past its word, and
its issue is traced and counted (06 R187; 17 Tables 17.2, 17.5). -/
def fetched (s : State) (a : At) : State :=
  (((s.farDrop (.fetch a.room)).modRoom a.room fun x => { x with nextUid := a.uid + 1, seqr := { x.seqr with pc := a.pc + 16 } }).trace a.room 15 tyISSUE
    (some a.c) (leBytes 8 a.pc ++ [a.op])).bump fmSEQ a.room 1 1

/-- The engine of an instruction can accept it: the spout holds the vectors of one SPMV (06 R187; 03 R108). -/
def accepts (s : State) (r : Nat) (op : Byte) : Bool := op ≠ 0x28#8 || (s.room r).infl.all fun i => i.op ≠ 0x28

/-- Fetch, match and issue: `f` gives the instruction's effect at issue; the PC moves on by one word unless `f` set it.
A word that is not the one fetched, or that its engine cannot take, changes nothing (log 2); a fetch fault holds the sequencer or ends the
launch; a PC that is not 16-byte aligned raises OPERAND (log 19). -/
def issue (s : State) (r : Nat) (op : Byte) (w : TWord) (f : At → State → Iss) : State :=
  match s.canIssue r with
  | none => s
  | some (c, sl, li) =>
    let pc := (s.room r).seqr.pc
    if pc % 16 ≠ 0 then s.roomFault r pc .operand
    else match s.fetchAt r c with
    | .error (va, e) =>
      if finalCause e.cause then s.roomFault r pc .translation
      else
        let wf : WaitF :=
          { wid := 0, ctx := c, who := .fetch r, va := va, glob := e.glob, cause := e.cause, level := e.level, pte := e.pte,
            access := 4, unit := 8, pc := pc, lease := li }
        (s.addWait wf).setHold r (.fetch s.mmu.nextWid)
    | .ok (none, t) => t
    | .ok (some bs, u) =>
      if leNum bs ≠ (w.encode op).toNat || !s.accepts r op then s
      else
        let a : At := { room := r, c := c, sl := sl, li := li, pc := pc, uid := (s.room r).nextUid, op := op }
        match f a (s.fetched a) with
        | .fault fc => s.roomFault r pc fc
        | .ok t => t
        | .again k => k u

end State

/-! Operand kinds (07 Table 7.3) -/

/-- D: a descriptor index. -/
def okD (x : W32) : Bool := x.toNat < 4096
/-- P: a pantry offset with its alignment; steward scratch is beyond the entry's limits (08 R273, log 19). -/
def okP (x : W32) (align len : Nat) : Bool :=
  x.toNat < 2 ^ 24 && x.toNat % align = 0 && x.toNat + len ≤ 2 ^ 24
    && (x.toNat + len ≤ 0xF00000 || 0xF7FF00 ≤ x.toNat)
/-- S and T: numbers 0 to 15. -/
def okS (x : W32) : Bool := x.toNat < 16
/-- G without a look at the table: [31:11] zero. -/
def okG (x : W32) : Bool := x.toNat < 2048

/-- TKE = 0 requires TOKEN = 0 (07 R225). -/
def okTok (w : TWord) : Bool := w.tke || w.token = 0

/-- The fields an entry leaves unused are zero (07 R226). -/
def zeroSel (w : TWord) : Bool := w.sel = 0
def zeroMod (w : TWord) : Bool := w.mod = 0

/-- A descriptor's own checks, as one of an instruction's. -/
def descCheck (d : Desc) : Bool × FaultCode := (d.check.isSome, d.check.getD .descriptor)

/-- Checks in order, then the effect. -/
def checked (cs : List (Bool × FaultCode)) (k : Unit → Iss) : Iss :=
  match firstFault cs with
  | some f => .fault f
  | none => k ()

namespace State

def sreg (s : State) (r : Nat) (x : W32) : W64 := (s.room r).sreg.getD (x.toNat % 16) 0
def setSreg (s : State) (r : Nat) (x : W32) (v : W64) : State :=
  s.modRoom r fun y => { y with sreg := y.sreg.set (x.toNat % 16) v }

/-- The descriptor of an index, latched at issue (06 R192, R194). -/
def latch (s : State) (a : At) (idx : Nat) : Desc :=
  Desc.parse (fun o => s.pantByte a.room a.uid o) (descTab + 128 * idx)

def pantLe (s : State) (r uid off n : Nat) : Nat := rdLe (fun o => s.pantByte r uid o) off n

/-- Store bytes in the room's pantry from an instruction, at its issue. -/
def pantStore (s : State) (r uid off : Nat) (bs : List Byte) : State :=
  s.putPantry r uid [(ownBase + off, bs.length)] ((s.room r).pantry.write off bs)

/-- An instruction that has stored completes at its issue: nothing is kept of what stood there before (06 R188, R189). -/
def doneAt (s : State) (a : At) (w : TWord) : State :=
  (s.modRoom a.room fun x => { x with prior := mapSet x.prior a.uid none }).finish a.room a.pc w

/-- A CTL instruction that completes at issue (07 R233). -/
def doneNow (s : State) (a : At) (w : TWord) : Iss := .ok (s.doneAt a w)

/-- An instruction that stays unfinished until INSTRUCTION_COMPLETE. -/
def pending1 (s : State) (a : At) (op : Nat) (w : TWord) (i : Infl) : State :=
  s.pushInfl a.room { i with uid := a.uid, pc := a.pc, op := op, w := w }

end State

/-- A TMUL or TCONV (07 Table 7.5). -/
def Infl.isTile (i : Infl) : Bool := 0x20 ≤ i.op && i.op < 0x28

def Infl.mk0 : Infl := { uid := 0, pc := 0, op := 0, w := {}, descs := [], epoch := 0 }

end Sys2Proof.Machine
end

