-- ==== Sys2Proof/Machine/Groups.lean ====
section
/-! DEFINITION. Group tables (12 R419 to R422) and the join of a launch's rooms at barriers, PUBLISH and STP (06 R211,
R212; 13 R459). -/

namespace Sys2Proof.Machine

/-- Module of a group's barrier root (12 Table 12.1). -/
def Group.rootMod (g : Group) : Nat := ((g.members[g.root]?).map (·.1)).getD 0

namespace State

/-- The group entry of operand value g, 1 to 1,024, with its member array and permutation (12 Table 12.1, R420). -/
def readGroup (s : State) (c g : Nat) : Group × Nat :=
  let base := ((s.ctx c).map (·.d.groups)).getD 0 + 64 * (g - 1)
  let f (o n : Nat) := s.ctxLe c (base + o) n
  let n := f 8 4
  let cnt := if n > 262144 ∨ g = 0 then 0 else n
  let ma := f 0 8
  let pa := f 0x18 8
  let fl := if g = 0 then 0 else f 0x12 2
  ({ idx := g - 1, count := n, rank := f 0xC 4, shape := f 0x10 1, fanout := f 0x11 1, root := f 0x14 4,
     house := fl / 2 % 2 = 1,
     members := (List.range cnt).map fun i =>
       let m := s.ctxLe c (ma + 8 * i) 8
       (m % 2 ^ 18, m / 2 ^ 32 % 2 ^ 16),
     perm := if pa = 0 then [] else (List.range cnt).map fun i => s.ctxLe c (pa + 4 * i) 4 }, fl)

/-- Modules of a group that a record names: none where G is 0 or the entry is not VALID. -/
def groupMods (s : State) (c g : Nat) : List Nat :=
  let e := s.readGroup c g
  if e.2 % 2 = 0 then [] else e.1.members.map (·.1)

/-- R421 for a group entry; `exact` asks that the record RANK names the issuing lease index. -/
def groupBad (s : State) (g : Group × Nat) (li : Nat) (exact : Bool) : Bool :=
  let x := g.1
  g.2 % 2 = 0 || x.count = 0 || x.count > 262144 || x.rank ≥ x.count
    || (match x.members[x.rank]? with
        | some (m, l) => some m ≠ s.fab.num || (exact && l ≠ li)
        | none => true)
    || (x.house && x.members.any fun m => m.1 / 8 ≠ ((x.members.head?.map (·.1)).getD 0) / 8)

/-- Latch the group of a G operand (07 Table 7.3): none for value 0, the lease range. -/
def latchGroup (s : State) (c li : Nat) (x : W32) (exact : Bool) : Except FaultCode (Option Group) :=
  let g := x.toNat
  if !okG x then .error .operand
  else if g = 0 then .ok none
  else if g > 1024 then .error .group
  else
    let e := s.readGroup c g
    if s.groupBad e li exact then .error .group else .ok (some e.1)

/-- The arrival number of a member's next barrier on a group: it counts them from 1 (12 R428; log 41). -/
def arrivalNext (s : State) (c li gidx : Nat) : Nat := natGet (((s.ctx c).map (·.arrivals)).getD []) (gidx * 2 ^ 16 + li) + 1
def arrivalUp (s : State) (c li gidx : Nat) : State :=
  s.modCtx c fun x => { x with arrivals := natPut x.arrivals (gidx * 2 ^ 16 + li) (natGet x.arrivals (gidx * 2 ^ 16 + li) + 1) }

/-- A member's arrival at a group barrier goes to its slot at the barrier root, module `m`, as an ATOMIC MAX of its arrival number; the root
takes its own the same way (R428; log 41). -/
def arriveAt (s : State) (who : ReqFor) (c gidx rank m n : Nat) : State :=
  s.request who {
    op := opATOMIC, dst := m, addr := Config.arrivalSlot c gidx rank % 2 ^ 44 + m * 2 ^ 44, arg := 3, data := leBytes 8 n ++ List.replicate 8 0#8 }

/-- An arrival slot's number, as the barrier root reads it. -/
def arrivalNo (s : State) (c gidx rank : Nat) : Nat :=
  match s.winSpan (Config.arrivalSlot c gidx rank % 2 ^ 44) 8 .rd with
  | .ok ls => leNum (ls.flatMap fun x => s.locRead x.2.1 x.2.2)
  | .error _ => 0

/-- Every arrival slot of a group has reached a number (R428). -/
def allArrived (s : State) (c gidx count n : Nat) : Bool := (List.range count).all fun rk => n ≤ s.arrivalNo c gidx rk

/-- Rooms of a launch's whole range are placed and satisfy a test (06 R211, R212). -/
def allRooms (s : State) (c sl : Nat) (p : Room → Bool) : Bool :=
  match s.launch c sl with
  | some l => l.lr.count = (s.launchRooms c sl).length && (s.launchRooms c sl).all fun r => p (s.room r)
  | none => false

/-- Release the rooms of a launch that a test selects: they issue again. -/
def releaseRooms (s : State) (c sl : Nat) (p : Room → Bool) : State :=
  (s.launchRooms c sl).foldl (fun t r => if p (t.room r) then t.freeHold r else t) s

/-- The sequencer of a room runs this launch and holds as given. -/
def Room.holds (x : Room) (c sl : Nat) (h : Hold) : Bool := x.seqr.launch = some (c, sl) && x.seqr.hold = h

end State

end Sys2Proof.Machine
end

