-- ==== Sys2Proof/Machine/Ladder.lean ====
section
/-! DEFINITION. Ladder entries and rungs (05 R158 to R161, R179, R183), statistics records (05 R163, R164), the headroom
directory and regions (04 R127 to R131, R706). -/

namespace Sys2Proof.Machine

/-- A ladder entry's reset value (05 Table 5.7). -/
def ladderReset : BitVec 128 := 0x3231#128

/-- Bits [lo + w − 1 : lo] of an entry, and the entry with them replaced. -/
def entBits (e : BitVec 128) (lo w : Nat) : Nat := e.toNat / 2 ^ lo % 2 ^ w
def entSet (e : BitVec 128) (lo w v : Nat) : BitVec 128 :=
  BitVec.ofNat 128 (e.toNat - entBits e lo w * 2 ^ lo + v % 2 ^ w * 2 ^ lo)

/-- Positions of a ladder's fields (05 Table 5.7): ladder 0 forward, 1 backward. -/
def eRung (l : Nat) : Nat := if l = 0 then 0 else 8
def eFloor (l : Nat) : Nat := if l = 0 then 2 else 10
def eCeil (l : Nat) : Nat := if l = 0 then 4 else 12
def ePin (l : Nat) : Nat := if l = 0 then 6 else 14
def eBcnt (l : Nat) : Nat := if l = 0 then 32 else 48
def eQcnt (l : Nat) : Nat := if l = 0 then 36 else 52
def eTwork (l : Nat) : Nat := if l = 0 then 64 else 80
def eMelem (l : Nat) : Nat := if l = 0 then 96 else 112

def entGet (l : List (Nat × BitVec 128)) (i : Nat) : BitVec 128 := (mapGet l i).getD ladderReset
def entPut (l : List (Nat × BitVec 128)) (i : Nat) (e : BitVec 128) : List (Nat × BitVec 128) :=
  mapSet l i (if e = ladderReset then none else some e)

namespace State

def wing (s : State) (w : Nat) : Vnt := s.vnt.getD w {}
def modWing (s : State) (w : Nat) (f : Vnt → Vnt) : State := { s with vnt := s.vnt.set w (f (s.wing w)) }

/-- Table index of a context's layer. -/
def ladIdx (s : State) (c layer : Nat) : Nat := ((s.ctx c).map (·.ladderBase)).getD 0 + layer
def ladSize (s : State) (c : Nat) : Nat := ((s.ctx c).map (·.d.ladders)).getD 0
/-- Current entry as the west wing holds it. -/
def ladder (s : State) (c layer : Nat) : BitVec 128 := entGet (s.wing 0).cur (s.ladIdx c layer)

def epoch (s : State) (c : Nat) : Nat := s.regBits (rVNT_EPOCH 0 c) 0 16

/-- The formats of a layer's current rung (05 Table 5.1, R161): held, streaming, casks, and W32x. Families 1 N2, 2 N4,
4 N8, 6 A16 and the G-formats' own codes; SENS layers run G16 and FP32 forward. -/
def rungFormats (e : BitVec 128) (l : Nat) : List Nat × List Nat × List Nat × Bool :=
  let r := entBits e (eRung l) 2
  if l = 0 then
    if entBits e 15 1 = 1 then ([fmtG16, fmtFP32], [fmtG16, fmtFP32], [0, 1, 2], false)
    else match r with
      | 0 => ([fmtN2], [fmtN2], [0, 1, 2], false)
      | 1 => ([fmtN4, fmtN4U], [fmtN4, fmtN4U], [0, 1, 2], false)
      | 2 => ([fmtN8, fmtN8U], [fmtN8, fmtN8U], [0, 1, 2], false)
      | _ => ([fmtA16], [fmtN8, fmtN8U], [3, 4], false)
  else match r with
    | 0 => ([fmtG8], [fmtG8], [0, 1, 2], false)
    | 1 => ([fmtG12], [fmtG12], [0, 1, 2], false)
    | 2 => ([fmtG16], [fmtG16], [0, 1, 2], false)
    | _ => ([fmtG16, fmtFP32], [fmtG16, fmtFP32], [0, 1, 2], true)

/-- A product whose descriptor d carries the index of a steered layer does not use the operand formats and a cask of that layer's
rung (05 R159). -/
def offRung (s : State) (c : Nat) (d : Desc) (hf sf cask : Nat) : Bool :=
  d.steered && d.layer < s.ladSize c &&
    (let (hs, ss, ks, w) := rungFormats (s.ladder c d.layer) d.ladder
     !hs.contains hf || !ss.contains sf || !ks.contains cask || (w && hf = sf))

/-- The format of one descriptor that carries the index of a steered layer is none of its rung's and not in `also`: a CVT's
source and destination, and with G16 and FP32, which Table 4.1 gives as destinations on every rung, a product's destination (05
R159; log 20). -/
def offRung1 (s : State) (c : Nat) (also : List Nat) (d : Desc) : Bool :=
  d.steered && d.layer < s.ladSize c &&
    (let (hs, ss, _, _) := rungFormats (s.ladder c d.layer) d.ladder
     !(hs ++ ss ++ also).contains d.fmt)

/-! Statistics records -/

/-- VA of a layer's record (05 R163). -/
def statRec (s : State) (c layer ladder : Nat) : Nat := ((s.ctx c).map (·.d.stats)).getD 0 + 512 * layer + 256 * ladder

/-- Width of the count at a record offset (05 Table 5.3). -/
def statWidth (off : Nat) : Nat := if off = 0x80 ∨ off = 0x84 ∨ (0x90 ≤ off ∧ off < 0xD0) then 4 else 8

/-- Add counts to the record of a layer of the ladder, whether or not its descriptor sets STEERED, of whose effect on statistics 05 R163 says
nothing: DESIGN CHOICE (log 14). -/
def addCounts (s : State) (c : Nat) (d : Desc) (cs : Counts) : State :=
  if d.layer < s.ladSize c then
    cs.foldl (fun t (off, n) =>
      if n = 0 then t else
        let a := t.statRec c d.layer d.ladder + off
        t.ctxSetLe c a (statWidth off) (t.ctxLe c a (statWidth off) + n)) s
  else s

/-- MSE_LOG2 of the policy record (05 Table 5.6). -/
def mseLog2 (s : State) (c : Nat) : Nat := s.ctxLe c (((s.ctx c).map (·.d.policy)).getD 0 + 1) 1 % 16

/-- Add the conversion errors of whole measured tiles (05 R165). -/
def addMeas (s : State) (c : Nat) (d : Desc) (ms : List Meas) : State :=
  let tiles := (ms.map (·.tile)).eraseDups
  tiles.foldl (fun t k =>
    let mine := (ms.filter fun x => x.tile = k).mergeSort fun a b => a.idx ≤ b.idx
    match relError mine with
    | some e => t.addCounts c d [(0x70, e), (0x68, 1)]
    | none => t) s

/-! Headroom (04 R127 to R131, R706) -/

/-- Physical address of entry i of the context's headroom directory. -/
def hdirAt (s : State) (c i : Nat) : Nat := s.ledgerOf c + 0x134000 + 16 * i

/-- The regions in the directory: (base, HR_COUNT). -/
def hdir (s : State) (c : Nat) : List (Nat × Nat) :=
  (List.range 256).filterMap fun i =>
    let b := s.hbmLe (s.hdirAt c i) 8
    if b = 0 then none else some (b, s.hbmLe (s.hdirAt c i + 8) 4)

/-- Place a region, or keep the larger count; none when the directory is full (04 R706). -/
def hdirPlace (s : State) (c : Nat) (d : Desc) : Option State :=
  if d.hdr = 0 then some s
  else
    let slots := List.range 256
    match slots.find? fun i => s.hbmLe (s.hdirAt c i) 8 = d.hdr with
    | some i => some (if s.hbmLe (s.hdirAt c i + 8) 4 < d.hrCount then s.hbmSet (s.hdirAt c i + 8) 4 d.hrCount else s)
    | none => match slots.find? fun i => s.hbmLe (s.hdirAt c i) 8 = 0 with
      | some i => some ((s.hbmSet (s.hdirAt c i) 8 d.hdr).hbmSet (s.hdirAt c i + 8) 4 d.hrCount)
      | none => none

/-- HX of the entry that covers a row of a destination (04 R131). -/
def hxOf (s : State) (c : Nat) (d : Desc) (row : Nat) : Nat :=
  if d.hdr = 0 then 0 else s.ctxLe c (d.hdr + 2 * (row / d.hrG)) 2 % 8

/-- Set PEND of a headroom entry (04 R128). -/
def setPendAt (s : State) (c a : Nat) : State :=
  let e := s.ctxLe c a 2
  s.ctxSetLe c a 2 (if e / 8 % 2 = 1 then e else e + 8)


/-- One entry at a step boundary (04 R130). -/
def hdrStep (decay e : Nat) : Nat :=
  let hx := e % 8
  let quiet := e / 16
  if e / 8 % 2 = 1 then min (hx + 1) 7
  else
    let q := min (quiet + 1) 4095
    if decay ≠ 0 ∧ q ≥ decay ∧ hx > 0 then hx - 1 else hx + 16 * q

/-- Every entry of every region of the context at a step boundary (04 R130). -/
def hdrBoundary (s : State) (c : Nat) : State :=
  let decay := match s.ctx c with
    | some x => (x.rooms.head?.map fun r => s.regBits (rLND_CTL r) 0 12).getD 0x100
    | none => 0x100
  (s.hdir c).foldl (fun t (base, n) =>
    (List.range n).foldl (fun u j => u.ctxSetLe c (base + 2 * j) 2 (hdrStep decay (u.ctxLe c (base + 2 * j) 2))) t) s

/-- Rounding bits of element i of a destination row (02 R58). -/
def rowBits (s : State) (c : Nat) (d : Desc) (row i : Nat) : Nat :=
  roundBits (s.jobKey c) d.layer d.slot (s.stepNo c) (row * d.dim0 + i)

/-- SB_GAP as it acts (04 Table 4.10). -/
def sbGap (s : State) (r : Nat) : Nat :=
  let g := s.regBits (rLND_CTL r) 16 4
  if g = 0 ∨ g ≥ 8 then 3 else g

/-- Parameters of a conversion of a room's landing into a row. -/
def convPar (s : State) (r c : Nat) (d : Desc) (row : Nat) : ConvPar :=
  { gap := s.sbGap r, hx := s.hxOf c d row, mseLog2 := s.mseLog2 c, r16 := fun i => s.rowBits c d row i }

end State

end Sys2Proof.Machine
end

