-- ==== Sys2Proof/Machine/Movers.lean ====
section
/-! DEFINITION. MOV, MOVB and SPMV, their units and their resumption (03 R108 to R112; 07 R235 to R237, R244; 08 R291,
R296 to R301). -/

namespace Sys2Proof.Machine

/-! Cutting into units (08 R296) -/

/-- Group consecutive runs of one 4 KiB granule into units. -/
def groupRuns (bySrc : Bool) (rs : List (Nat × Nat × Nat)) : List (List (Nat × Nat × Nat)) :=
  rs.foldr (fun x acc => match acc with
    | (y :: u) :: rest =>
      let key (z : Nat × Nat × Nat) : Nat := (if bySrc then z.1 else z.2.1) / 4096
      if key x = key y then (x :: y :: u) :: rest else [x] :: (y :: u) :: rest
    | _ => [x] :: acc) []

/-- Bytes of each structure of a tensor after its element data: address, 0 where it is absent, and size (06 Table 6.1, R195,
R708). -/
def Desc.sides (d : Desc) : List (Nat × Nat) :=
  let blocks := d.nb * d.rows
  [(d.sc8, blocks), (d.ts32, 4 * d.tpr * d.rows), (d.zp8, blocks), (d.status, cdiv blocks 4),
   (d.sb, 16 * d.groups * d.rows), (d.chan, 128 + 2 * d.nchan * d.rows)]

/-- Units of a MOV. -/
def movUnits (a b : Desc) : List (List (Nat × Nat × Nat)) :=
  let data := (List.range a.rows).flatMap fun r => runsOf false (a.base + a.rowOff r) (b.base + b.rowOff r) a.rowBytes
  let sides := (a.sides.zip b.sides).map fun (x, y) => if x.1 = 0 then [] else groupRuns false (runsOf false x.1 y.1 x.2)
  groupRuns false data ++ sides.flatten

/-- Units of a spout's weight reading. 08 R296 has them count weight bytes read; the model ends a unit at each 4 KiB aligned weight
address: DESIGN CHOICE (log 23). -/
def spmvUnits (a : Desc) : List (List (Nat × Nat × Nat)) :=
  groupRuns true ((List.range a.rows).flatMap fun r => runsOf true (a.base + a.rowOff r) 0 a.rowBytes)

/-- TOTAL of a mover: the units of its instruction, from the instruction and its latched descriptors (08 R296, R299). -/
def moverTotal (i : Infl) (m : Mover) : Nat :=
  match m.unit, i.descs with
  | 0, [x, y] => (movUnits x y).length
  | 1, [x, y] => (groupRuns false (runsOf false x.base y.base i.w.c.toNat)).length
  | 2, x :: _ => (spmvUnits x).length
  | 3, _ => m.total
  | 5, _ => m.total
  | _, _ => m.units.length

/-- The fields of a mover's record that hold whatever it records (08 Table 8.11). -/
def Mover.waitF (s : State) (r : Nat) (i : Infl) (m : Mover) : WaitF :=
  let l := ((s.room r).lease).getD (0, 0)
  { wid := 0, ctx := l.1, who := .mover r i.uid, va := 0, cause := 0, level := 0, pte := 0, access := 0, unit := m.unit, pc := i.pc
    t := s.now, done := m.done, total := moverTotal i m, doneBytes := m.doneBytes, check := m.check, lease := l.2 }

/-- MOV, MOVB and the collective engine may use the lease aperture (08 R282). -/
def Mover.aper (m : Mover) : Bool := m.unit ≤ 1 || m.unit = 3

namespace State

/-- The places of an address range for a mover: a GLOBAL descriptor names fabric addresses, another one VAs; `aper` for a mover that
may use the lease aperture (08 R282). -/
def spanLocs (s : State) (c r : Nat) (glob : Bool) (va n : Nat) (acs : Acs) (aper : Bool := false) :
    Except (Nat × XErr) (List (Nat × Loc × Nat)) :=
  if glob then s.resolve va (.glob va) n acs else s.vaSpan c (some r) va n acs aper

/-- A mover's record is written in steward scratch (08 R298). -/
def moverRecord (s : State) (r : Nat) (i : Infl) (m : Mover) (w : WaitF) : State :=
  s.modInfl r i.uid fun k => { k with mv := some { m with record := w.record } }

/-- A mover holds at a fault: its record is written and the fault's resolution starts (08 R298). -/
def moverWait (s : State) (r : Nat) (i : Infl) (m : Mover) (w : WaitF) : State :=
  (s.addWait w).modInfl r i.uid fun k => { k with mv := some { m with wait := some s.mmu.nextWid, record := w.record } }

/-- A translation fault of a mover: causes 4 to 7 end the launch; the others are recorded and waited on (08 R291 to
R295, R298). -/
def moverFault (s : State) (r : Nat) (i : Infl) (m : Mover) (acs : Acs) (e : Nat × XErr) : State :=
  match (s.room r).lease with
  | none => s
  | some _ =>
    if e.2.cause = cABSENT then s else
    let s := s.bump fmMOVER r 3 1
    let w := { m.waitF s r i with
      va := e.1, glob := e.2.glob, cause := e.2.cause, level := e.2.level, pte := e.2.pte, access := acs.bits }
    if finalCause e.2.cause then (s.moverRecord r i m w).roomFault r i.pc .translation
    else s.moverWait r i m w

/-- Runs that an instruction's unit reads: for a spout unit its weight bytes, and with unit 0 every scale array of the weights, whose
reading 08 R296 places in no unit: DESIGN CHOICE (log 23). -/
def unitReads (i : Infl) (m : Mover) (u : List (Nat × Nat × Nat)) : List (Nat × Nat) :=
  if m.unit ≠ 2 then u.map fun x => (x.1, x.2.2)
  else match i.descs with
    | [] => []
    | d :: _ =>
      let base := u.map fun x => (x.1, x.2.2)
      if m.done = 0 then base ++ (d.sides.take 3).filter (fun x => x.1 ≠ 0) else base

/-- Ask the fabric for the remote source bytes of the unit at DONE, or of every unit where source and destination overlap. -/
def startUnit (s : State) (r uid : Nat) : State :=
  match s.findInfl r uid, (s.room r).lease with
  | some i, some (c, _) =>
    match i.mv with
    | none => s
    | some m =>
      let src := (i.descs.head?.map (·.global)).getD false
      if m.unit ≥ 3 then s else
      let places := (if m.lap.isEmpty then unitReads i m (m.units.getD m.done []) else unitReads i m m.units.flatten).flatMap fun (a, n) =>
        match s.spanLocs c r src a n .rd m.aper with
        | .ok ls => ls
        | .error _ => []
      let far := places.flatMap fun (a, l, n) => match l with
        | .glob ga => (globPieces ga n).map fun (g, k) => (a + (g - ga), g, k)
        | _ => []
      let need := far.filter fun (a, _, k) => (List.range k).any fun j => !(m.staged.any fun x => x.1 = a + j)
      let s1 := s.modInfl r uid fun k => { k with mv := some { m with asked := need.map (·.1), sent := false } }
      need.foldl (fun t (a, g, k) =>
        t.request (.moverRd r uid a k) { op := opREAD, dst := g / 2 ^ 44 % 2 ^ 18, addr := g, arg := k }) s1
  | _, _ => s

/-- The bytes a mover reads at an address range: staged bytes, else memory; in its own pantry, old or new data of an earlier unfinished
instruction (06 R188, log 7). -/
def moverBytes (s : State) (r uid : Nat) (m : Mover) (a : Nat) (loc : Loc) (n : Nat) : List Byte :=
  let bs := s.locRead loc n
  bs.zipIdx.map fun (b, j) =>
    match m.staged.find? fun x => x.1 = a + j with
    | some x => x.2
    | none => match loc with
      | .pantry q off => if q = r then BitVec.ofNat 8 (s.pantByte r uid (off + j)) else b
      | _ => b

/-- Store a mover's bytes at a local place, with races between unfinished instructions settled (06 R188, R237). -/
def moverStore (s : State) (r uid : Nat) (va : Nat) (loc : Loc) (bs : List Byte) (old : List Nat) : State :=
  let now := s.locRead loc bs.length
  let mix := bs.zipIdx.map fun (b, j) =>
    if s.racy r uid (va + j) ∧ s.oldWins uid (va + j) then now.getD j b
    else if old.contains ((va + j) / 32) ∧ Config.freeBit (s.free + (va + j) / 32) then now.getD j b else b
  s.locWrite loc mix

end State

/-- A place as a number in one space of all places. -/
def Loc.key : Loc → Nat × Nat
  | .hbm a => (0, a)
  | .host a => (1, a)
  | .butt a => (2, a)
  | .glob a => (3, a)
  | .pantry r o => (4 + r, o)

/-- 32-byte sectors of destination pieces, by address, that source pieces overlap wherever they lie: under one address or by an alias
(07 R237). -/
def overlapSectors (src dst : List (Nat × Loc × Nat)) : List Nat :=
  (dst.flatMap fun (a, l, n) => src.flatMap fun (_, m, k) =>
    let lo := max l.key.2 m.key.2
    let hi := min (l.key.2 + n) (m.key.2 + k)
    if l.key.1 ≠ m.key.1 ∨ hi ≤ lo then []
    else
      let first := (a + (lo - l.key.2)) / 32
      (List.range ((a + (hi - 1 - l.key.2)) / 32 + 1 - first)).map (first + ·)).eraseDups

/-- One step of a spout's accumulator over elements i0 to i0 + n − 1 of weight row m and vector v: an invalid block or tile shows
through a zero block it meets (02 R51, R52; 03 R110). -/
def spmvStep (wt vec : View) (m v i0 n : Nat) (acc : W32 × Flags) : W32 × Flags :=
  if wt.invalid m i0 || vec.invalid v i0 then (fp32NaN, acc.2 ||| fINV)
  else if wt.zero m i0 || vec.zero v i0 then acc
  else
    let x : Fv :=
      if fmtIsG wt.d.fmt then
        let ex (u : View) (r : Nat) : Fv := if u.d.scaled then fvMul (u.coded r i0) (.ofRat (tsVal (u.ts r i0))) else u.coded r i0
        fvMul (ex wt m) (ex vec v)
      else .ofRat (((List.range n).map fun j => (wt.coded m (i0 + j)).toRat * (vec.coded v (i0 + j)).toRat).sum
        * tsVal (wt.ts m i0) * tsVal (vec.ts v i0))
    let (c, f) := encFp32 (fvAdd (decFp32 acc.1) x)
    (c, acc.2 ||| f)

/-- Result of an SPMV from the weights read, row by row and vector by vector: FP32 codes and flags. N-format weights go block by block
of 32, cut where the vector's block is 16; G16 element by element (03 R110, log 23). -/
def spmvOut (wt vec : View) : List (List (W32 × Flags)) :=
  let k := wt.d.dim0
  let n := if fmtIsG wt.d.fmt then 1 else min 32 vec.d.bs
  (List.range wt.d.rows).map fun m => (List.range vec.d.rows).map fun v =>
    (List.range (cdiv k n)).foldl (fun acc b => spmvStep wt vec m v (b * n) (min n (k - b * n)) acc) (0, 0)

/-- An instruction owes no peer a fragment: a collective has sent all of its streams (12 R435). -/
def Infl.sentAll (i : Infl) : Bool :=
  match i.col with
  | some o => decide (o.toSend ≤ (o.sent.map (·.2)).sum)
  | none => true

namespace State

/-- The last unit is done: an SPMV writes its results; the instruction is ready. -/
def moverFinish (s : State) (r uid : Nat) : State :=
  match s.findInfl r uid with
  | none => s
  | some i =>
    match i.mv, i.descs with
    | some m, [wd, vd, dd] =>
      if m.unit ≠ 2 then s.modInfl r uid fun k => { k with ready := k.sentAll }
      else
        let wt : View := { d := wd, rd := fun a => (m.staged.get a).toNat, off := id }
        let outs := spmvOut wt { d := vd, rd := fun a => (m.vbuf.get a).toNat }
        let mem := outs.zipIdx.foldl (fun mm (ro, mi) => ro.zipIdx.foldl (fun mm (o, ni) =>
          mm.setLe (pantOff dd.base + dd.rowOff mi + 4 * ni) 4 o.1.toNat) mm) (s.room r).pantry
        let fl := outs.foldl (fun f ro => ro.foldl (fun f o => f ||| o.2) f) (0 : Flags)
        ((s.putPantry r uid dd.ranges mem).sptFlags r fl).modInfl r uid fun k => { k with ready := true }
    | _, _ => s.modInfl r uid fun k => { k with ready := k.sentAll }

/-- What the unit at DONE reads: bytes by address, or the fault of the first address that has none (08 R296). -/
def unitData (s : State) (r uid c : Nat) (i : Infl) (m : Mover) : Except (Nat × XErr) (List (Nat × List Byte)) :=
  let u := m.units.getD m.done []
  if m.unit ≥ 3 then .ok (u.map fun (_, d, k) => (d, Mem.read ((i.col.map (·.img)).getD []) d k))
  else (unitReads i m u).foldl (fun (acc : Except (Nat × XErr) (List (Nat × List Byte))) (a, n) =>
    match acc with
    | .error e => .error e
    | .ok bs => match s.spanLocs c r ((i.descs.head?.map (·.global)).getD false) a n .rd m.aper with
      | .error e => .error e
      | .ok ls => .ok (bs ++ [(a, ls.flatMap fun (x, l, k) => s.moverBytes r uid m x l k)])) (.ok [])

/-- Where the unit at DONE writes, each place with its offset in the unit's bytes (08 R296). -/
def unitPlaces (s : State) (r c : Nat) (i : Infl) (m : Mover) : Except (Nat × XErr) (List (Nat × Nat × Loc × Nat)) :=
  ((m.units.getD m.done []).foldl (fun (acc : Except (Nat × XErr) (List (Nat × Loc × Nat))) (_, d, k) =>
    match acc with
    | .error e => .error e
    | .ok ls => match s.spanLocs c r (((i.descs[1]?).map (·.global)).getD false) d k .wr m.aper with
      | .error e => .error e
      | .ok l => .ok (ls ++ l)) (.ok [])).map fun ls =>
    (ls.foldl (fun (acc : List (Nat × Nat × Loc × Nat) × Nat) x => (acc.1 ++ [(acc.2, x)], acc.2 + x.2.2)) ([], 0)).1

/-- A unit's writes of remote places, one by one (08 R284). -/
def unitFar (offs : List (Nat × Nat × Loc × Nat)) (all : List Byte) : List (Nat × List Byte) :=
  offs.flatMap fun (o, _, l, k) => match l with
    | .glob ga => (globPieces ga k).map fun (g, kk) => (g, (all.drop (o + (g - ga))).take kk)
    | _ => []

/-- A unit's bytes are stored at its places on this module (07 R237). -/
def unitStore (s : State) (r uid : Nat) (m : Mover) (offs : List (Nat × Nat × Loc × Nat)) (all : List Byte) : State :=
  offs.foldl (fun t (o, a, l, k) => match l with
    | .glob _ => t
    | _ => t.moverStore r uid a l ((all.drop o).take k) m.lap) s

/-- The unit at DONE is complete: DONE and its bytes go on, the counters follow, and the next unit starts, or the instruction ends (08
R296; 17 R570). -/
def unitEnd (s : State) (r uid : Nat) (m : Mover) : State :=
  let n := ((m.units.getD m.done []).map fun x => x.2.2).sum
  let k := { m with done := m.done + 1, doneBytes := m.doneBytes + n, sent := false }
  let s1 := (s.modInfl r uid fun i => { i with mv := some k }).bump fmMOVER r 0 n
  let s2 := (if m.unit = 2 then s1.bump fmSPOUT r 1 n else s1.bump fmMOVER r 1 n).bump fmMOVER r 2 1
  let s3 := { s2 with free := s2.free + 1 }
  if k.done = k.units.length then s3.moverFinish r uid else s3.startUnit r uid

/-- The mover works: it does not wait for a fault's resolution, for its resumption or for the fabric, and has a unit left; a RACK's
slots go by themselves. -/
def moverGoes (m : Mover) : Bool := m.unit ≠ 4 && m.wait.isNone && !m.paused && m.asked.isEmpty && decide (m.done < m.units.length)

/-- One unit completes: its bytes move and DONE advances; a fault is recorded instead (08 R296, R298). -/
def moverUnit (s : State) (r uid : Nat) : State :=
  match s.findInfl r uid, (s.room r).lease with
  | some i, some (c, _) =>
    match i.mv with
    | none => s
    | some m =>
      if !moverGoes m then s
      else match s.unitData r uid c i m with
        | .error e => s.moverFault r i m .rd e
        | .ok datas =>
          if m.unit = 2 then s.unitEnd r uid { m with staged := datas.foldl (fun mm (a, bs) => mm.stage a bs) m.staged }
          else match s.unitPlaces r c i m with
            | .error e => s.moverFault r i m .wr e
            | .ok offs =>
              let all := datas.flatMap (·.2)
              let far := unitFar offs all
              let s1 := if m.sent then s else s.unitStore r uid m offs all
              if !m.sent && !far.isEmpty then
                far.foldl (fun t (g, bs) =>
                  t.request (.moverWr r uid g) { op := opWRITE, dst := g / 2 ^ 44 % 2 ^ 18, addr := g, arg := bs.length, data := bs })
                  (s1.modInfl r uid fun k => { k with mv := some { m with sent := true, asked := far.map (·.1) } })
              else s1.unitEnd r uid m
  | _, _ => s

end State

/-! Issue -/

/-- Raw bytes of a descriptor as latched. -/
def rawDesc (s : State) (r uid idx : Nat) : List Byte :=
  (List.range 128).map fun o => BitVec.ofNat 8 (s.pantByte r uid (descTab + 128 * idx + o))

/-- CHECK of a mover record: instruction word and latched descriptors (08 Table 8.11). -/
def moverCheck (op : Byte) (w : TWord) (raw : List Byte) : Nat := sha32 (leBytes 16 (w.encode op).toNat ++ raw)

/-- The pieces of address ranges that translate, for a mover of tensors or bytes. -/
def runPlaces (s : State) (c r : Nat) (glob : Bool) (acs : Acs) (rs : List (Nat × Nat)) : List (Nat × Loc × Nat) :=
  rs.flatMap fun (a, n) => match s.spanLocs c r glob a n acs true with
    | .error _ => []
    | .ok ls => ls

/-- Source bytes on this module kept at issue because source and destination overlap; those of other modules are read before the first
unit (07 R237). -/
def keepSource (s : State) (r uid : Nat) (ls : List (Nat × Loc × Nat)) : Mem :=
  ls.foldl (fun m (x, l, k) => match l with
    | .glob _ => m
    | _ => m.stage x (s.moverBytes r uid { unit := 0 } x l k)) []

/-- The spout's vector buffer as an SPMV fills it at issue: every structure of its vectors (03 R108). -/
def spoutBuffer (t : State) (a : At) (ds : List Desc) : Mem :=
  match ds[1]? with
  | none => []
  | some v => ((List.range v.rows).map (fun r => (v.base + v.rowOff r, v.rowBytes)) ++ (v.sides.take 3).filter fun x => x.1 ≠ 0).foldl
      (fun m (va, n) => (List.range n).foldl (fun m j => m.set (pantOff va + j) (BitVec.ofNat 8 (t.pantByte a.room a.uid (pantOff va + j)))) m) []

/-- A mover instruction as it stands in flight when it issues. -/
def moverInfl (t : State) (a : At) (op : Byte) (w : TWord) (kind : Nat) (ds : List Desc) (raw : List Byte)
    (units : List (List (Nat × Nat × Nat))) (writes : List (Nat × Nat)) : Infl :=
  let glob (n : Nat) : Bool := ((ds[n]?).map (·.global)).getD false
  let src := if kind ≤ 1 then runPlaces t a.c a.room (glob 0) .rd (units.flatten.map fun u => (u.1, u.2.2)) else []
  let dst := if kind ≤ 1 then runPlaces t a.c a.room (glob 1) .wr (units.flatten.map fun u => u.2) else []
  let ov := overlapSectors src dst
  let m : Mover := {
    unit := kind, units := units, raw := raw, check := moverCheck op w raw, lap := ov
    staged := if ov.isEmpty then [] else keepSource t a.room a.uid src
    vbuf := if kind = 2 then spoutBuffer t a ds else [] }
  { Infl.mk0 with descs := ds, mv := some m, writes := writes, ready := units.isEmpty }

/-- Issue a mover instruction with its units. -/
def issueMover (t : State) (a : At) (op : Byte) (w : TWord) (kind : Nat) (ds : List Desc) (raw : List Byte)
    (units : List (List (Nat × Nat × Nat))) (writes : List (Nat × Nat)) : Iss :=
  .ok ((t.pending1 a op.toNat w (moverInfl t a op w kind ds raw units writes)).startUnit a.room a.uid)

/-- The checks of MOV in order (07 R235, R236; 12 R452). -/
def movChecks (t : State) (a : At) (w : TWord) : List (Bool × FaultCode) :=
  let x := t.latch a w.a.toNat
  let y := t.latch a w.b.toNat
  [(!okTok w || !zeroSel w || !zeroMod w || w.c ≠ 0, .operand), (!okD w.a || !okD w.b, .descriptor),
    (t.reshardOn a.c, .reshardPending), descCheck x, descCheck y, (x.fmt ≠ y.fmt || x.shape ≠ y.shape, .format),
    ((x.dim0, x.dim1, x.dim2, x.dim3) ≠ (y.dim0, y.dim1, y.dim2, y.dim3), .descriptor),
    ((x.sides.zip y.sides).any fun (p, q) => p.1 ≠ 0 && q.1 = 0, .descriptor)]

def effMov (r : Nat) (w : TWord) (s : State) : State :=
  s.issue r 0x10#8 w fun a t =>
    checked (movChecks t a w) fun _ =>
      let x := t.latch a w.a.toNat
      let y := t.latch a w.b.toNat
      let units := movUnits x y
      issueMover t a 0x10#8 w 0 [x, y] (rawDesc t r a.uid w.a.toNat ++ rawDesc t r a.uid w.b.toNat) units
        (if y.global then [] else units.flatten.map fun u => (u.2.1, u.2.2))

/-- The checks of MOVB in order (07 R237; 12 R452). -/
def movbChecks (t : State) (a : At) (w : TWord) : List (Bool × FaultCode) :=
  let x := t.latch a w.a.toNat
  let y := t.latch a w.b.toNat
  [(!okTok w || !zeroSel w || !zeroMod w, .operand), (!okD w.a || !okD w.b, .descriptor), (w.c = 0, .operand),
    (t.reshardOn a.c, .reshardPending), ((!x.global && x.base ≥ 2 ^ 48) || (!y.global && y.base ≥ 2 ^ 48), .descriptor)]

def effMovb (r : Nat) (w : TWord) (s : State) : State :=
  s.issue r 0x11#8 w fun a t =>
    checked (movbChecks t a w) fun _ =>
      let x := t.latch a w.a.toNat
      let y := t.latch a w.b.toNat
      issueMover t a 0x11#8 w 1 [x, y] (rawDesc t r a.uid w.a.toNat ++ rawDesc t r a.uid w.b.toNat)
        (groupRuns false (runsOf false x.base y.base w.c.toNat)) (if y.global then [] else [(y.base, w.c.toNat)])

/-- The pairings of Table 3.9. A weight tensor carries no zero point, so N-format weights are signed; a vector may have any block size
(02 R45; 03 R109; log 23). -/
def spmvPair (wd vd : Desc) : Bool :=
  ((wd.fmt = fmtN2 || wd.fmt = fmtN4 || wd.fmt = fmtN8) && wd.bs = 32 && (vd.fmt = fmtN8 || vd.fmt = fmtN8U || vd.fmt = fmtA16))
    || (wd.fmt = fmtG16 && vd.fmt = fmtG16)

/-- The checks of SPMV in order (03 R108, R109; 06 R707; 07 R244; 12 R452). The spec gives the destination no layout: vectors run along
DIM0 and weight rows are its rows, HELDMAJOR being ignored outside TMUL and TCONV, and extents that do not fit raise DESCRIPTOR. It
gives vectors that exceed the 256 KiB buffer no outcome either: the model runs them. DESIGN CHOICE (log 23). -/
def spmvChecks (t : State) (a : At) (w : TWord) : List (Bool × FaultCode) :=
  let x := t.latch a w.a.toNat
  let v := t.latch a w.b.toNat
  let d := t.latch a w.c.toNat
  [(!okTok w || !zeroSel w || !zeroMod w, .operand), (!okD w.a || !okD w.b || !okD w.c, .descriptor),
    (t.reshardOn a.c, .reshardPending), descCheck x, descCheck v, descCheck d,
    (v.global || d.global || !Desc.ownPantry v.base || !Desc.ownPantry d.base, .descriptor),
    (v.dim1 = 0 || v.dim1 > 8 || v.dim2 ≠ 1 || v.dim3 ≠ 1, .descriptor),
    (!spmvPair x v || d.fmt ≠ fmtFP32, .format), (x.dim0 ≠ v.dim0, .descriptor), ((d.dim0, d.rows) ≠ (v.rows, x.rows), .descriptor)]

def effSpmv (r : Nat) (w : TWord) (s : State) : State :=
  s.issue r 0x28#8 w fun a t =>
    checked (spmvChecks t a w) fun _ =>
      let x := t.latch a w.a.toNat
      let v := t.latch a w.b.toNat
      let d := t.latch a w.c.toNat
      issueMover t a 0x28#8 w 2 [x, v, d]
        (rawDesc t r a.uid w.a.toNat ++ rawDesc t r a.uid w.b.toNat ++ rawDesc t r a.uid w.c.toNat) (spmvUnits x) d.ranges

/-- CHECK and TOTAL as a mover recomputes them from the word read at its PC agree with its record (08 R299). -/
def moverAgrees (i : Infl) (m : Mover) (word : List Byte) : Bool :=
  sha32 (word ++ m.raw) = fieldLe m.record 0x28 4 && moverTotal i m = fieldLe m.record 0x1C 4

/-- A mover resumes at unit DONE once CHECK and TOTAL agree with its record; the word at PC is read as a fetch (08 R297, R299). The
second answer says whether it goes on. -/
def moverResumed (r uid : Nat) (s : State) : State × Bool :=
  match s.findInfl r uid, (s.room r).lease with
  | some i, some (c, _) =>
    match i.mv with
    | none => (s, false)
    | some m =>
      if !m.paused || m.wait.isSome || (s.room r).seqr.stopped then (s, false)
      else match s.farRead (.resume r uid) c (some r) i.pc 16 .fetch with
      | .error (va, e) =>
        (if State.finalCause e.cause then s.roomFault r i.pc .translation
        else s.moverWait r i m { m.waitF s r i with
          va := va, glob := e.glob, cause := e.cause, level := e.level, pte := e.pte, access := 4, unit := 8 }, false)
      | .ok (none, t) => (t, false)
      | .ok (some bs, t) =>
        if !moverAgrees i m bs then (s.roomFault r i.pc .moverProgress, false)
        else ((t.modInfl r uid fun k => { k with mv := some { m with paused := false, asked := [] } }).startUnit r uid, true)
  | _, _ => (s, false)

/-! Meanings -/

def execTMov (r : Nat) (w : TWord) (s : State) := run [bRoom r] s (effMov r w s)
def execTMovb (r : Nat) (w : TWord) (s : State) := run [bRoom r] s (effMovb r w s)
def execTSpmv (r : Nat) (w : TWord) (s : State) := run [bRoom r] s (effSpmv r w s)
def execMoverUnitDone (r uid : Nat) (s : State) := run [bRoom r] s (s.live (s.moverUnit r uid))

end Sys2Proof.Machine
end

