-- ==== Sys2Proof/Machine/Risk.lean ====
section
/-! DEFINITION. The fault collator (14 R514 to R516), immediate risk inputs, and the protection record (14 R484, R486). -/

namespace Sys2Proof.Machine

/-- Classes of the suspect table (14 R514). -/
abbrev sxUNREACHABLE : Nat := 0
abbrev sxLINK : Nat := 1
abbrev sxDIGEST : Nat := 2
abbrev sxVINTAGE : Nat := 3
abbrev sxRESHARD : Nat := 4
abbrev sxTASTE : Nat := 5
abbrev sxLOST : Nat := 6

namespace State

def modRes (s : State) (f : Res → Res) : State := { s with res := f s.res }

/-- A local detection or a SUSPECT names a module (R514 to R516). -/
def report (s : State) (m cls n : Nat) : State :=
  let hit (x : Suspect) : Bool := x.mod = m && x.cls = cls
  let up (x : Suspect) : Suspect :=
    if !hit x then x
    else if x.opened || x.deferred then { x with count := x.count + n, last := s.now }
    else { x with opened := true, count := n, first := s.now, last := s.now }
  if s.res.suspects.any hit then s.modRes fun r => { r with suspects := r.suspects.map up }
  else if s.res.suspects.length ≥ 4096 then s.regCount rSTW_COLLATE 8 8 1
  else s.modRes fun r => { r with suspects := r.suspects ++ [{ mod := m, cls := cls, count := n, first := s.now, last := s.now }] }

/-- An immediate input of the risk monitor (Table 14.4). -/
def immediate (s : State) : State := s.modRes fun r => { r with immT := some s.now }

/-- The 32 bytes of SUSPECT (Table 14.7). -/
def suspectBytes (x : Suspect) : List Byte :=
  leBytes 4 (x.mod % 2 ^ 18 + 2 ^ 31) ++ leBytes 1 x.cls ++ leBytes 3 0 ++ leBytes 4 x.count ++ leBytes 4 0 ++ leBytes 8 x.first
    ++ leBytes 8 x.last

/-- An MGMT request of a type to a module (11 R412). -/
def mgmtTo (s : State) (dst ty : Nat) (data : List Byte) : State :=
  s.request .mgmt { op := opMGMT, dst := dst, arg := ty, data := data }

/-- Send a SUSPECT to the fabric manager, and to the suspect unless the class is LOST (R515); none to itself (log 34). -/
def sendSuspect (s : State) (x : Suspect) : State :=
  let s1 := match s.fab.manager with
    | some (_, m) => s.mgmtTo m 0x23 (suspectBytes x)
    | none => s
  if x.cls = sxLOST ∨ some x.mod = s.fab.num then s1 else s1.mgmtTo x.mod 0x23 (suspectBytes x)

/-- SUSPECT about this module itself, to the manager (R497, R511). -/
def suspectSelf (s : State) (cls : Nat) : State :=
  match s.fab.num, s.fab.manager with
  | some me, some (_, m) => s.mgmtTo m 0x23 (suspectBytes { mod := me, cls := cls, count := 1, first := s.now, last := s.now })
  | _, _ => s

/-! The protection record (Tables 14.1, 14.2) -/

def protAt (s : State) (c : Nat) : Nat := s.ledgerOf c + 0x110000
def protLe (s : State) (c off n : Nat) : Nat := s.hbmLe (s.protAt c + off) n
/-- The context is protected (R484). -/
def prot (s : State) (c : Nat) : Bool := (s.ctx c).isSome && !(s.protLe c 0x1C 4 = 0 && s.protLe c 0x10 2 = 0)
def rasOff (s : State) : Bool := s.regBit rSTW_RISK_CTL 0
/-- Entry addresses of the record. -/
def protEntries (s : State) (c : Nat) : List Nat :=
  (List.range (min 1020 (s.protLe c 0x1C 4))).map fun i => s.protAt c + 256 + 64 * i

/-- The class the device resolves for an entry (R486). -/
def resolveClass (s : State) (e : Nat) : Nat :=
  let cls := s.hbmLe (e + 0x10) 1
  let copies := s.hbmLe (e + 0x14) 2
  if s.hbmLe (e + 0x12) 1 / 2 % 2 = 1 then 2
  else if cls = 1 then (if copies < 2 then 2 else 1)
  else if cls = 0 then (if copies ≥ 2 ∧ s.hbmLe (e + 8) 8 ≥ 2 ^ 26 ∧ s.hbmLe (e + 0x11) 1 ≤ 1 then 1 else 2)
  else cls

/-- The class that applies to an entry: RESOLVED, and before a snapshot has resolved it what R486 gives (log 34). -/
def entryClass (s : State) (e : Nat) : Nat := let r := s.hbmLe (e + 0x13) 1; if r = 0 then s.resolveClass e else r

/-- Ranges (VA, bytes) of a resolved class; `dig` keeps those with FLAGS DIGEST (R509). -/
def protRanges (s : State) (c cls : Nat) (dig : Bool) : List (Nat × Nat) :=
  ((s.protEntries c).filter fun e => s.entryClass e = cls && (!dig || s.hbmLe (e + 0x12) 1 % 2 = 1)).map fun e =>
    (s.hbmLe e 8, s.hbmLe (e + 8) 8)

/-- Global address, through window WIN of a module, of a VA of the context; on every module of the job WIN maps the context alike. -/
def winAddr (s : State) (c m va : Nat) : Nat :=
  let w := s.protLe c 0x1B 1
  m * 2 ^ 44 + w * 2 ^ 36 + (va - s.hbmLe (windowBase + 32 * w) 8)

/-- READs through WIN of a module over ranges of the context, cut at 4 KiB: the VA, global address and length of each (14 Table 14.8). -/
def winPieces (s : State) (c m : Nat) (rs : List (Nat × Nat)) : List (Nat × Nat × Nat) :=
  rs.flatMap fun x =>
    let ga := s.winAddr c m x.1
    (globPieces ga x.2).map fun y => (x.1 + (y.1 - ga), y)

/-- A READ through window WIN finds a range that a minority member must serve to nobody until it is rebuilt (14 R511). -/
def unserved (s : State) (ga n : Nat) : Bool :=
  (List.range 16).any fun c => ((s.ctx c).bind (·.rebuild)).isSome && s.protLe c 0x1B 1 = ga / 2 ^ 36 % 256
    && (s.protRanges c 1 false).any fun x =>
      let va := s.hbmLe (windowBase + 32 * s.protLe c 0x1B 1) 8 + ga % 2 ^ 36
      decide (x.1 < va + n ∧ va < x.1 + x.2)

/-! Weight digests (R509) -/

/-- One level of the tree: an odd last digest moves up unchanged. -/
def digestLevel : List (List Byte) → List (List Byte)
  | a :: b :: t => sha256 (1#8 :: a ++ b) :: digestLevel t
  | l => l
def digestUp : Nat → List (List Byte) → List Byte
  | 0, l => l.headD []
  | f + 1, l => if l.length ≤ 1 then l.headD [] else digestUp f (digestLevel l)
/-- 64 KiB leaves, the last one padded with zeros. -/
def digestRoot (dkey data : List Byte) : List Byte :=
  let n := cdiv data.length 65536
  let leaf (i : Nat) : List Byte :=
    sha256 (0#8 :: dkey ++ leBytes 8 i ++ (((data.drop (65536 * i)).take 65536) ++ List.replicate 65536 0#8).take 65536)
  digestUp 64 ((List.range n).map leaf)

/-- The root of the digest set under the current COMMITS. -/
def rootNow (s : State) (c : Nat) : List Byte :=
  let key := leBytes 8 (((s.ctx c).map (·.d.jobKey)).getD 0) ++ leBytes 8 (s.stepHdr c).commits ++ List.replicate 16 0#8
  digestRoot key ((s.protRanges c 1 true).flatMap fun x => s.ctxRead c x.1 x.2)

/-- A digest is due for the open step (R510), or again after the quick tests (R512). -/
def digestDue (s : State) (c : Nat) : Bool :=
  let h := s.stepHdr c
  h.valid && s.prot c && !s.rasOff
    && (h.commits % (if h.digestEvery = 0 then 64 else h.digestEvery) = 0 || ((s.ctx c).map (·.retake)).getD false)

end State

end Sys2Proof.Machine
end

