-- ==== Sys2Proof/Machine/Collect.lean ====
section
/-! DEFINITION. Collectives: chunks, streams, reduction and the COLFRAG packets (12 R424 to R440; 07 R256, R257). How
chunks travel between members where the manual leaves it open is log 17. -/

namespace Sys2Proof.Machine

/-! Chunks (R429, R430): flat elements lo to hi of a tensor as byte runs -/

/-- Rows that a flat element range touches: row, first and last-but-one position. -/
def rowSpans (d : Desc) (lo hi : Nat) : List (Nat × Nat × Nat) :=
  if hi ≤ lo then [] else
    (List.range ((hi - 1) / d.dim0 - lo / d.dim0 + 1)).map fun j =>
      let row := lo / d.dim0 + j
      (row, if j = 0 then lo % d.dim0 else 0, min d.dim0 (hi - row * d.dim0))

/-- Byte runs (address, length) of a chunk: element data, SC8, TS32, ZP8, SB, CHAN; block-status entries follow apart. -/
def chunkRuns (d : Desc) (lo hi : Nat) : List (Nat × Nat) :=
  let sp := rowSpans d lo hi
  let data := sp.map fun (row, i0, i1) =>
    let e := if d.scaled && i1 = d.dim0 then d.rowBytes else i1 * d.bits / 8
    (d.base + d.rowOff row + i0 * d.bits / 8, e - i0 * d.bits / 8)
  let per (base w unit perRow : Nat) : List (Nat × Nat) :=
    if base = 0 then [] else sp.map fun (row, i0, i1) =>
      let a := cdiv i0 unit
      let b := cdiv i1 unit
      (base + w * (row * perRow + a), w * (b - a))
  let blocks (base : Nat) := per base 1 d.bs d.nb
  let chan := if d.chan ≠ 0 then (d.chan, 128) :: (List.range d.nchan).flatMap fun j =>
      (sp.filter fun (_, i0, _) => i0 = 0).map fun (row, _, _) => (d.chan + 128 + 2 * (j * d.rows + row), 2) else []
  data ++ (if d.scaled then blocks d.sc8 ++ per d.ts32 4 (d.bs * d.bpt) d.tpr ++ blocks d.zp8 else [])
    ++ per d.sb 16 128 d.groups ++ chan

/-- Blocks of a chunk, for the status map. -/
def chunkBlocks (d : Desc) (lo hi : Nat) : List Nat :=
  if d.scaled && d.status ≠ 0 then
    (rowSpans d lo hi).flatMap fun (row, i0, i1) => (List.range (cdiv i1 d.bs - cdiv i0 d.bs)).map fun k => row * d.nb + cdiv i0 d.bs + k
  else []

/-- Bytes of a chunk in a stream: its runs, then one byte per block-status entry. -/
def chunkBytes (d : Desc) (rd : Nat → Byte) (lo hi : Nat) : List Byte :=
  (chunkRuns d lo hi).flatMap (fun (a, n) => (List.range n).map fun i => rd (a + i))
    ++ (chunkBlocks d lo hi).map fun b => BitVec.ofNat 8 ((rd (d.status + b / 4)).toNat / 4 ^ (b % 4) % 4)

def chunkLen (d : Desc) (lo hi : Nat) : Nat := ((chunkRuns d lo hi).map (·.2)).sum + (chunkBlocks d lo hi).length

/-- Byte runs of the status map that hold the entries of some blocks, each byte once. -/
def statusRuns (d : Desc) (bs : List Nat) : List (Nat × Nat) :=
  bs.foldr (fun b (acc : List (Nat × Nat)) =>
    let a := d.status + b / 4
    match acc with
    | (x, n) :: rest => if a = x then acc else if a + 1 = x then (a, n + 1) :: rest else (a, 1) :: acc
    | [] => [(a, 1)]) []

/-- The 4 KiB units of a destination over element spans: each byte of its structures once (08 R296). -/
def destUnits (d : Desc) (spans : List (Nat × Nat)) : List (List (Nat × Nat × Nat)) :=
  let rs := spans.flatMap (fun (lo, hi) => (chunkRuns d lo hi).filter fun x => lo = 0 || x ≠ (d.chan, 128))
    ++ statusRuns d (spans.flatMap fun (lo, hi) => chunkBlocks d lo hi)
  groupRuns false (rs.flatMap fun (a, n) => runsOf false a a n)

/-- Place a chunk's bytes into a destination image; status entries change two bits of the byte there. -/
def placeChunk (d : Desc) (old : Nat → Byte) (lo hi : Nat) (bs : List Byte) (img : Mem × List Nat) : Mem × List Nat :=
  let (m, seen, rest) := (chunkRuns d lo hi).foldl (fun (acc : Mem × List Nat × List Byte) (a, n) =>
    (acc.1.write a (acc.2.2.take n), acc.2.1, acc.2.2.drop n)) (img.1, img.2, bs)
  (chunkBlocks d lo hi).zipIdx.foldl (fun (acc : Mem × List Nat) (b, i) =>
    let a := d.status + b / 4
    let cur := if acc.2.contains a then (acc.1.get a).toNat else (old a).toNat
    let sh := 4 ^ (b % 4)
    let v := ((rest.getD i 0).toNat) % 4
    (acc.1.set a (BitVec.ofNat 8 (cur - cur / sh % 4 * sh + v * sh)), a :: acc.2)) (m, seen)

/-! Reduction (R432, R433) -/

/-- Combine two FP32 operands. -/
def combine (op : Nat) (a b : W32) : W32 :=
  match op with
  | 0 => (addF a b).1
  | 1 => (let x := decFp32 a; let y := decFp32 b
          if x.isNan || y.isNan then fp32NaN else if fvLt x y then b else a)
  | _ => (let x := decFp32 a; let y := decFp32 b
          if x.isNan || y.isNan then fp32NaN else if fvLt y x then b else a)

/-- Elements of a stream as FP32: G16 widens exactly. -/
def widen (fmt : Nat) (bs : List Byte) : List W32 :=
  if fmt = fmtG16 then (List.range (bs.length / 2)).map fun i => BitVec.ofNat 32 (leNum ((bs.drop (2 * i)).take 2) * 65536)
  else (List.range (bs.length / 4)).map fun i => BitVec.ofNat 32 (leNum ((bs.drop (4 * i)).take 4))

def words32 (ws : List W32) : List Byte := ws.flatMap fun w => leBytes 4 w.toNat

/-- sum(lo, hi) of R432's TREE order. -/
def treeSum (op : Nat) (xs : Nat → W32) : Nat → Nat → Nat → W32
  | 0, lo, _ => xs lo
  | f + 1, lo, hi =>
    if hi ≤ lo then xs lo else
      let len := hi - lo + 1
      let mid := lo + cdiv len 2
      combine op (treeSum op xs f lo (mid - 1)) (treeSum op xs f mid hi)

/-- The order of Table 12.3 over the members' values of an element of chunk c: 0 RING, 1 TREE, 2 DIRECT. -/
def reduceOrder (shape op n c : Nat) (xs : Nat → W32) : W32 :=
  if shape = 0 then (List.range (n - 1)).foldl (fun acc k => combine op acc (xs ((c + 2 + k) % n))) (xs ((c + 1) % n))
  else if shape = 1 then treeSum op xs n 0 (n - 1)
  else (List.range (n - 1)).foldl (fun acc k => combine op acc (xs (k + 1))) (xs 0)

/-! Streams between members (log 17) -/

/-- Tree links: parent and children by rank (R435). -/
def treeParent (g : Group) (r : Nat) : Option Nat :=
  let v := (r + g.count - g.root % g.count) % g.count
  if v = 0 then none else some (((v - 1) / g.fanout + g.root) % g.count)
def treeKids (g : Group) (r : Nat) : List Nat :=
  (List.range g.count).filter fun x => treeParent g x = some r
/-- Ranks below a member, itself included, ascending. -/
def treeUnder (g : Group) : Nat → Nat → List Nat
  | 0, r => [r]
  | f + 1, r => (List.range g.count).filter fun x => x = r || (treeKids g r).any fun k => (treeUnder g f k).contains x

/-- Effective shape: 3 and 4 go direct whatever SHAPE says (Table 12.2). -/
def colShape (o : ColOp) : Nat := if o.kind ≥ 3 then 2 else o.group.shape

/-- Extent of one chunk in elements (R429); an all-reduce on a ring cuts its extent into n chunks. -/
def chunkElems (o : ColOp) (sd : Desc) : Nat :=
  let n := o.group.count
  if o.kind = 0 ∨ o.kind = 3 then sd.elems / n else if o.kind = 2 ∧ colShape o = 0 then cdiv sd.elems n else sd.elems

/-- What one member contributes: the bytes of its chunk j (its whole source for kinds 1, 2 and 4). -/
def ownChunk (o : ColOp) (sd : Desc) (rd : Nat → Byte) (j : Nat) : List Byte :=
  let c := chunkElems o sd
  let lo := if o.kind = 1 ∨ o.kind = 4 ∨ (o.kind = 2 ∧ colShape o ≠ 0) then 0 else min sd.elems (j * c)
  let hi := if o.kind = 1 ∨ o.kind = 4 ∨ (o.kind = 2 ∧ colShape o ≠ 0) then sd.elems else min sd.elems (j * c + c)
  chunkBytes sd rd lo hi

/-- Length in bytes of chunk j as the source format holds it, and as FP32 partial sums. -/
def chunkLenAt (o : ColOp) (sd : Desc) (j : Nat) : Nat :=
  let c := chunkElems o sd
  if o.kind = 1 ∨ o.kind = 4 ∨ (o.kind = 2 ∧ colShape o ≠ 0) then chunkLen sd 0 sd.elems
  else chunkLen sd (min sd.elems (j * c)) (min sd.elems (j * c + c))
def chunk32 (o : ColOp) (sd : Desc) (j : Nat) : Nat := chunkLenAt o sd j * 32 / sd.bits

/-- A piece of a stream: what it carries and its length. -/
inductive Piece where
  /-- Member m's chunk j in the source format. -/
  | raw (m j : Nat)
  /-- FP32 partial sum of chunk j; the reduced chunk j as FP32. -/
  | part (j : Nat)
  | result (j : Nat)
  deriving DecidableEq, Repr

/-- The pieces that the member of rank a sends to rank b, in order. -/
def pieces (o : ColOp) (a b : Nat) : List Piece :=
  let g := o.group
  let n := g.count
  if a = b ∨ n ≤ 1 then []
  else if o.kind = 4 then (if g.perm.getD a a = b then [.raw a 0] else [])
  else if o.kind = 3 then [.raw a b]
  else match colShape o with
  | 0 =>
    if b ≠ (a + 1) % n then []
    else if o.kind = 1 then (List.range (n - 1)).map fun k => .raw ((a + n - k) % n) 0
    else
      let rs := (List.range (n - 1)).map fun k => Piece.part ((a + 2 * n - 1 - k) % n)
      if o.kind = 0 then rs else rs ++ (List.range (n - 1)).map fun k => .result ((a + n - k) % n)
  | 1 =>
    if treeParent g a = some b then (treeUnder g n a).flatMap fun m => if o.kind = 0 then (List.range n).map fun j => .raw m j else [.raw m 0]
    else if treeParent g b = some a then
      (if o.kind = 1 then (List.range n).map fun m => .raw m 0
       else if o.kind = 0 then (treeUnder g n b).map fun m => .result m
       else [.result 0])
    else []
  | _ => if o.kind = 0 then [.raw a b] else [.raw a 0]

def pieceLen (o : ColOp) (sd : Desc) : Piece → Nat
  | .raw _ j => (if o.vint then 16 else 0) + chunkLenAt o sd j
  | .part j => chunk32 o sd j
  | .result j => chunk32 o sd j

/-- Bytes of data a stream carries, vintage words not counted (R426). -/
def streamLen (o : ColOp) (sd : Desc) (a b : Nat) : Nat :=
  ((pieces o a b).map fun p => pieceLen o sd p - (match p with
    | .raw _ _ => if o.vint then 16 else 0
    | _ => 0)).sum

/-- Elements of the destination that a piece becomes part of at the member it goes to (Table 12.2). -/
def pieceSpan (o : ColOp) (sd : Desc) (src : Nat) (p : Piece) : Nat × Nat :=
  let c := chunkElems o sd
  if o.kind = 0 then (0, c)
  else if o.kind = 2 then match p with
    | .part j => (min sd.elems (j * c), min sd.elems (j * c + c))
    | .result j => (min sd.elems (j * c), min sd.elems (j * c + c))
    | .raw _ _ => (0, sd.elems)
  else if o.kind = 4 then (0, sd.elems)
  else match p with
    | .raw m _ => (let k := if o.kind = 1 then m else src; (k * c, k * c + c))
    | _ => (0, 0)

/-- Lengths of at most 4 KiB that add up to a length. -/
def cut4k (n : Nat) : List Nat := (runsOf true 0 0 n).map fun x => x.2.2

/-- Fragments of a piece by length: each lies in one 4 KiB unit of the destination, whose element width sets how many bytes of an FP32
partial sum or of a source chunk fall in a unit; a block-status entry is a byte. The sender's own destination descriptor stands for its
peer's. The vintage word leads the first (R427, R438; log 17). -/
def pieceFrags (o : ColOp) (sd dd : Desc) (src : Nat) (p : Piece) : List Nat :=
  let (lo, hi) := pieceSpan o sd src p
  let red := o.kind = 0 || o.kind = 2
  let bits := match p with
    | .raw _ _ => sd.bits
    | _ => 32
  let data := (groupRuns false ((chunkRuns dd lo hi).flatMap fun (a, n) => runsOf false a a n)).map fun u => (u.map fun x => x.2.2).sum
  let units := (if red then data.map fun n => n * bits / dd.bits else data) ++ (if red then [] else cut4k (chunkBlocks dd lo hi).length)
  let cut := units.flatMap cut4k
  if !o.vint then cut
  else match cut with
    | n :: t => if n ≤ 4080 then (n + 16) :: t else 4096 :: (n - 4080) :: t
    | [] => [16]

/-- Fragments of the streams to every rank. -/
def colFrags (o : ColOp) (sd dd : Desc) : Nat :=
  ((List.range o.group.count).map fun b => ((pieces o o.group.rank b).map fun p => (pieceFrags o sd dd o.group.rank p).length).sum).sum

/-- Bytes received from a rank so far, as far as they are contiguous. -/
def rxBytes (o : ColOp) (p : Nat) : List Byte :=
  let fr := o.rx.filter fun x => x.1 = p
  ((List.range fr.length).foldl (fun (acc : List Byte × Bool) i =>
    if acc.2 then match fr.find? fun x => x.2.1 = i with
      | some x => (acc.1 ++ x.2.2, true)
      | none => (acc.1, false)
    else acc) ([], true)).1

/-- A piece among those received from a rank, when it has come whole. -/
def rxPiece (o : ColOp) (sd : Desc) (from' : Nat) (p : Piece) : Option (List Byte) :=
  let ps := pieces o from' o.group.rank
  match ps.findIdx? (· = p) with
  | none => none
  | some i =>
    let off := ((ps.take i).map (pieceLen o sd)).sum
    let n := pieceLen o sd p
    let bs := rxBytes o from'
    if bs.length ≥ off + n then some ((bs.drop off).take n) else none

/-- Any rank's copy of a piece. -/
def anyPiece (o : ColOp) (sd : Desc) (p : Piece) : Option (List Byte) :=
  (List.range o.group.count).findSome? fun m => rxPiece o sd m p

/-- Member m's chunk j with its vintage word, here or received. -/
def rawPiece (o : ColOp) (sd : Desc) (rd : Nat → Byte) (m j : Nat) : Option (List Byte) :=
  if m = o.group.rank then
    some ((if o.vint then leBytes 8 o.vintage ++ List.replicate 8 0#8 else []) ++ ownChunk o sd rd j)
  else anyPiece o sd (.raw m j)

/-- The reduced chunk j as FP32 words, when this member can form it. -/
def reducedChunk (o : ColOp) (sd : Desc) (rd : Nat → Byte) (j : Nat) : Option (List W32) :=
  let n := o.group.count
  let r := o.group.rank
  if n ≤ 1 then some (widen sd.fmt (ownChunk o sd rd j))
  else if colShape o = 0 then
    if j = r then
      (rxPiece o sd ((r + n - 1) % n) (.part r)).map fun bs =>
        ((widen fmtFP32 bs).zip (widen sd.fmt (ownChunk o sd rd r))).map fun (a, b) => combine o.op a b
    else (anyPiece o sd (.result j)).map (widen fmtFP32)
  else if colShape o = 1 ∧ treeParent o.group r ≠ none then (anyPiece o sd (.result j)).map (widen fmtFP32)
  else
    let all := (List.range n).map fun m => (rawPiece o sd rd m j).map (widen sd.fmt)
    if all.any (·.isNone) then none
    else
      let xs := all.map (·.getD [])
      some ((List.range ((xs.getD 0 []).length)).map fun i => reduceOrder (colShape o) o.op n j fun m => (xs.getD m []).getD i 0)

/-- The bytes of a piece this member sends, when they are formed. -/
def formPiece (o : ColOp) (sd : Desc) (rd : Nat → Byte) : Piece → Option (List Byte)
  | .raw m j => rawPiece o sd rd m j
  | .part j =>
    let n := o.group.count
    let own := widen sd.fmt (ownChunk o sd rd j)
    if (j + 1) % n = o.group.rank then some (words32 own)
    else (rxPiece o sd ((o.group.rank + n - 1) % n) (.part j)).map fun bs =>
      words32 (((widen fmtFP32 bs).zip own).map fun (a, b) => combine o.op a b)
  | .result j => (reducedChunk o sd rd j).map words32

/-- Cut bytes at the given lengths; the first piece is marked. -/
def cutAt : List Byte → List Nat → Bool → List (Bool × List Byte)
  | _, [], _ => []
  | bs, n :: t, first => (first, bs.take n) :: cutAt (bs.drop n) t false

/-- The fragments of the stream to a rank that can be formed, each with a mark where it begins with a vintage word: a piece at a time,
cut at the destination's units (R427, R438; log 17). -/
def formedFrags (o : ColOp) (sd dd : Desc) (rd : Nat → Byte) (b : Nat) : List (Bool × List Byte) :=
  ((pieces o o.group.rank b).foldl (fun (acc : List (Bool × List Byte) × Bool) p =>
    if acc.2 then match formPiece o sd rd p with
      | some bs => (acc.1 ++ cutAt bs (pieceFrags o sd dd o.group.rank p) o.vint, true)
      | none => (acc.1, false)
    else acc) ([], true)).1

/-- Ranks that send to this member, and those it sends to. -/
def sendersOf (o : ColOp) : List Nat := (List.range o.group.count).filter fun p => !(pieces o p o.group.rank).isEmpty
def peersOf (o : ColOp) : List Nat := (List.range o.group.count).filter fun p => !(pieces o o.group.rank p).isEmpty

/-- READY's data word (R426); KIND in bits 2 to 0 and OP in bits 4 to 3 of its first byte (log 17). -/
def readyWord (o : ColOp) (bytes : Nat) : List Byte := leBytes 8 (o.kind + 8 * o.op + 256 * o.sel) ++ leBytes 8 bytes

/-- Address and ARG of a COLFRAG (R424). -/
def colAddr (c seq : Nat) : Nat := 2 ^ 63 + c * 2 ^ 40 + seq * 2 ^ 24

/-- The units in which a collective writes its destination (Table 12.2; 08 R296). -/
def colUnits (o : ColOp) (sd dd : Desc) : List (List (Nat × Nat × Nat)) :=
  let c := chunkElems o sd
  destUnits dd (if o.kind = 0 then [(0, c)] else if o.kind = 2 ∨ o.kind = 4 then [(0, sd.elems)]
    else (List.range o.group.count).map fun j => (j * c, j * c + c))

/-- Ranks of a group that a module's records stand for (R420). -/
def ranksOf (g : Group) (m : Nat) : List Nat := (List.range g.count).filter fun k => (g.members[k]?).map (·.1) = some m

namespace State

/-- The operations of a context, group and sequence: room, instruction and operation. A module that stands in several member records
may run several (R420). -/
def findCols (s : State) (c g seq : Nat) : List (Nat × Infl × ColOp) :=
  (List.range 72).flatMap fun r =>
    if (s.room r).lease.map (·.1) = some c then
      (s.room r).infl.filterMap fun i => match i.col with
        | some o => if o.group.idx = g ∧ o.seq = seq then some (r, i, o) else none
        | none => none
    else []

def modCol (s : State) (r uid : Nat) (f : ColOp → ColOp) : State :=
  s.modInfl r uid fun i => { i with col := i.col.map f }

/-- Fragments sent (0) and received (1) count for the context and for its group (17 R569, R570). -/
def colBump (s : State) (c g idx : Nat) : State := (s.bump fmCOLL c idx 1).bump fmGROUP (c * 1024 + g) idx 1

/-- Send one COLFRAG of an operation to a rank. -/
def colSend (s : State) (r c : Nat) (uid : Nat) (o : ColOp) (to' arg : Nat) (data : List Byte) : State :=
  let ga := colAddr c o.seq + ((o.group.members.getD to' (0, 0)).1) * 2 ^ 44
  (s.request (.col r uid) {
    op := opCOLFRAG, dst := (o.group.members.getD to' (0, 0)).1, addr := ga, arg := arg, data := data }).colBump c o.group.idx 0

/-- READY to every member that sends to this one. -/
def colReady (s : State) (r uid : Nat) : State :=
  match s.findInfl r uid, (s.room r).lease with
  | some i, some (c, _) =>
    match i.col, i.descs with
    | some o, sd :: _ => (sendersOf o).foldl (fun t p =>
        t.colSend r c uid o p (o.group.idx + 2 ^ 10) (readyWord o (streamLen o sd p o.group.rank))) s
    | _, _ => s
  | _, _ => s

/-- Send every formed fragment that a ready, unpaused peer lacks (R426, R427, R438). -/
def colPump (s : State) (r uid : Nat) : State :=
  match s.findInfl r uid, (s.room r).lease with
  | some i, some (c, _) =>
    match i.col, i.mv, i.descs with
    | some o, some m, [sd, dd] =>
      if !o.loaded || m.paused || (s.room r).seqr.stopped then s
      else
        let t := (peersOf o).foldl (fun t p =>
          if !o.ready.contains p || o.paused.contains p then t
          else
            let fs := formedFrags o sd dd m.staged.get p
            let nf := fs.length
            let done := natGet o.sent p
            let t := ((fs.drop done).zipIdx done).foldl (fun u (x, f) =>
              u.colSend r c uid o p (o.group.idx + (if x.1 then 2 ^ 12 else 0) + f * 2 ^ 16) x.2) t
            t.modCol r uid fun o => { o with sent := natPut o.sent p (max done nf) }) s
        t.modInfl r uid fun k => { k with ready := o.formed && m.done = m.units.length && k.sentAll }
    | _, _, _ => s
  | _, _ => s

/-- The destination image once every stream has come; none while something is missing. -/
def colImage (s : State) (r : Nat) (o : ColOp) (sd dd : Desc) (rd old : Nat → Byte) : Option Mem :=
  let n := o.group.count
  let me := o.group.rank
  let c := chunkElems o sd
  let strip (bs : List Byte) : List Byte := if o.vint then bs.drop 16 else bs
  if o.kind = 1 then
    (List.range n).foldl (fun acc j => acc.bind fun (im : Mem × List Nat) =>
      (rawPiece o sd rd j 0).map fun bs => placeChunk dd old (j * c) (j * c + c) (strip bs) im) (some ([], [])) |>.map (·.1)
  else if o.kind = 3 then
    (List.range n).foldl (fun acc j => acc.bind fun (im : Mem × List Nat) =>
      (if j = me then some (ownChunk o sd rd me) else anyPiece o sd (.raw j me)).map fun bs =>
        placeChunk dd old (j * c) (j * c + c) bs im) (some ([], [])) |>.map (·.1)
  else if o.kind = 4 then
    let from' := (List.range n).find? fun x => o.group.perm.getD x x = me
    (match from' with
      | some x => rawPiece o sd rd x 0
      | none => none).map fun bs => (placeChunk dd old 0 sd.elems bs ([], [])).1
  else
    let ctx := ((s.room r).lease.map (·.1)).getD 0
    let js := if o.kind = 0 then [me] else if colShape o = 0 then List.range n else [0]
    (js.foldl (fun acc j => acc.bind fun (ws : List W32) => (reducedChunk o sd rd j).map (ws ++ ·)) (some [])).map fun ws =>
      let w := dd.bits / 8
      ws.zipIdx.foldl (fun m (x, i) =>
        let row := i / dd.dim0
        let rnd : Rnd := if dd.grad then .sr (s.rowBits ctx dd row (i % dd.dim0)) else .rne
        let code := if dd.fmt = fmtFP32 then x.toNat else (encIeee 7 rnd (decFp32 x)).1
        m.write (dd.base + dd.rowOff row + i % dd.dim0 * w) (leBytes w code)) []

/-- Compare the vintages of a VINT gather: the failing ranks, and the state with first vintages recorded. A gather whose new keys the
table has no room for records and compares nothing and is counted once (R439). -/
def vintCheck (s : State) (c : Nat) (o : ColOp) (sd dd : Desc) (rd : Nat → Byte) : List Nat × State :=
  let got := (List.range o.group.count).filterMap fun j => (rawPiece o sd rd j 0).map fun bs =>
    (({ ctx := c, group := o.group.idx, rank := j, layer := dd.layer, slot := dd.slot } : VKey), leNum (bs.take 8))
  let old (k : VKey) : Option Nat := (s.col.vintages.find? fun x => x.1 = k).map (·.2)
  let new := got.filter fun x => (old x.1).isNone
  if !new.isEmpty && s.col.vintages.length + new.length > 65536 then ([], s.regCount rCOL_STATUS 16 8 1)
  else ((got.filter fun x => (old x.1).any (· ≠ x.2)).map (·.1.rank), { s with col := { s.col with vintages := new.reverse ++ s.col.vintages } })

/-- Form the results when every stream has come: the destination's units are then written one by one (R427, R439, R440). -/
def colForm (s : State) (r uid : Nat) : State :=
  match s.findInfl r uid, (s.room r).lease with
  | some i, some (c, _) =>
    match i.col, i.mv, i.descs with
    | some o, some m, [sd, dd] =>
      if o.formed || !o.loaded then s
      else
        let rd := m.staged.get
        let old (a : Nat) : Byte := match s.spanLocs c r dd.global a 1 .rd true with
          | .ok ((_, l, _) :: _) => s.locByte l
          | _ => Config.freeByte a
        match s.colImage r o sd dd rd old with
        | none => s
        | some img =>
          let (bad, s1) := if o.vint then s.vintCheck c o sd dd rd else ([], s)
          if !bad.isEmpty then
            let s2 := (bad.filterMap fun j => o.group.members[j]?).foldl (fun t m => t.report m.1 sxVINTAGE 1) s1
            ((s2.modCtx c fun x => { x with mismatch := true }).regCount rCOL_STATUS 24 8 1).roomFault r i.pc .vintageMismatch
          else
            let units := colUnits o sd dd
            (s1.modCol r uid fun o => { o with formed := true, img := img }).modInfl r uid fun k =>
              { k with mv := k.mv.map fun m => { m with units := units }, ready := units.isEmpty && k.sentAll }
    | _, _, _ => s
  | _, _ => s

/-- Read the source; remote bytes are asked of the fabric first, and a translation fault is waited on. -/
def colLoad (s : State) (r uid : Nat) : State :=
  match s.findInfl r uid, (s.room r).lease with
  | some i, some (c, _) =>
    match i.col, i.mv, i.descs with
    | some o, some m, sd :: _ =>
      if o.loaded || !m.asked.isEmpty || m.wait.isSome then s
      else
        let runs := chunkRuns sd 0 sd.elems ++ (if sd.scaled && sd.status ≠ 0 then [(sd.status, cdiv (sd.nb * sd.rows) 4)] else [])
        let got := runs.foldl (fun (acc : Except (Nat × XErr) (List (Nat × Loc × Nat))) (a, n) => match acc with
          | .error e => .error e
          | .ok ls => match s.spanLocs c r sd.global a n .rd true with
            | .error e => .error e
            | .ok l => .ok (ls ++ l)) (.ok [])
        match got with
        | .error e => s.moverFault r i m .rd e
        | .ok ls =>
          let far := ls.flatMap fun (a, l, n) => match l with
            | .glob ga => ((globPieces ga n).map fun (g, k) => (a + (g - ga), g, k)).filter fun (x, _, _) => !(m.staged.any fun y => y.1 = x)
            | _ => []
          if far.isEmpty || !m.staged.isEmpty then
            let st := ls.foldl (fun mm (a, l, n) => match l with
              | .glob _ => mm
              | _ => mm.stage a (s.moverBytes r uid m a l n)) m.staged
            let s1 := (s.modInfl r uid fun k => { k with mv := some { m with staged := st } }).modCol r uid fun o => { o with loaded := true }
            (s1.colPump r uid).colForm r uid
          else
            let s1 := s.modInfl r uid fun k => { k with mv := some { m with asked := far.map (·.1) } }
            far.foldl (fun t (a, g, k) =>
              t.request (.moverRd r uid a k) { op := opREAD, dst := g / 2 ^ 44 % 2 ^ 18, addr := g, arg := k }) s1
    | _, _, _ => s
  | _, _ => s

/-- A READY of rank `from'` reaches its operation: it must agree with the member's own instruction (R426). -/
def takeReady (s : State) (r : Nat) (i : Infl) (o : ColOp) (from' : Nat) (k : Packet) : State :=
  let sd := i.descs.getD 0 (Desc.parse (fun _ => 0) 0)
  if k.data.take 16 ≠ readyWord o (streamLen o sd o.group.rank from') then s.roomFault r i.pc .group
  else
    let s1 := s.modCol r i.uid fun o => { o with ready := from' :: o.ready.filter (· ≠ from'), paused := o.paused.filter (· ≠ from') }
    (s1.trace isHub 0 tyCOLLECTIVE ((s.room r).lease.map (·.1))
      (leBytes 2 o.group.idx ++ leBytes 2 o.seq ++ leBytes 1 o.kind ++ leBytes 3 0 ++ leBytes 8 0)).colPump r i.uid

/-- A PAUSE of a rank (R436). -/
def takePause (s : State) (r : Nat) (i : Infl) (from' : Nat) : State :=
  s.modCol r i.uid fun o => { o with paused := from' :: o.paused.filter (· ≠ from') }

/-- A data fragment of a rank is staged; the operation goes on (R427). -/
def takeData (s : State) (r : Nat) (i : Infl) (o : ColOp) (from' : Nat) (k : Packet) : State :=
  let f := k.arg / 2 ^ 16 % 2 ^ 32
  let s1 := s.modCol r i.uid fun o => { o with rx := (from', f, k.data) :: o.rx.filter fun x => ¬(x.1 = from' ∧ x.2.1 = f) }
  let s2 := ((s1.trace isHub 0 tyCOLLECTIVE ((s.room r).lease.map (·.1))
    (leBytes 2 o.group.idx ++ leBytes 2 o.seq ++ leBytes 1 o.kind ++ leBytes 3 0 ++ leBytes 8 f)).colBump
      (((s.room r).lease.map (·.1)).getD 0) o.group.idx 1)
  (s2.colPump r i.uid).colForm r i.uid

/-- The operation and the sending rank that a COLFRAG belongs to. A packet names the sender's module only (R424): where that stands in
several records, or several operations here bear the sequence, it is the first pair that still lacks it, by room and rank: a READY
where none has come or the peer has paused, a PAUSE where a READY has, a fragment where its number is missing; else the first pair
(R420; log 17). -/
def colPick (ops : List (Nat × Infl × ColOp)) (k : Packet) : Option ((Nat × Infl × ColOp) × Nat) :=
  let rdy := k.arg.testBit 10
  let pairs := ops.flatMap fun x => (ranksOf x.2.2.group k.src).filterMap fun rk =>
    if (if rdy then peersOf x.2.2 else if k.arg.testBit 11 then peersOf x.2.2 else sendersOf x.2.2).contains rk then some (x, rk) else none
  let lacks (x : (Nat × Infl × ColOp) × Nat) : Bool :=
    let o := x.1.2.2
    if rdy then !o.ready.contains x.2 || o.paused.contains x.2
    else if k.arg.testBit 11 then o.ready.contains x.2 && !o.paused.contains x.2
    else !o.rx.any fun y => y.1 = x.2 ∧ y.2.1 = k.arg / 2 ^ 16 % 2 ^ 32
  (pairs.find? lacks).or pairs.head?

/-- Deliver a COLFRAG to its operation, or keep it until the operation issues; a READY from a module that this member sends nothing
differs from its own instruction (R426). -/
def colDeliver (s : State) (k : Packet) : State :=
  let ops := s.findCols (k.addr / 2 ^ 40 % 16) (k.arg % 1024) (k.addr / 2 ^ 24 % 65536)
  match ops, colPick ops k with
  | [], _ => { s with col := { s.col with early := s.col.early ++ [k] } }
  | (r, i, _) :: _, none => if k.arg.testBit 10 then s.roomFault r i.pc .group else s
  | _, some ((r, i, o), rk) =>
    if k.arg.testBit 10 then s.takeReady r i o rk k
    else if k.arg.testBit 11 then s.takePause r i rk
    else s.takeData r i o rk k

/-- Packets that came before their operation. -/
def colEarly (s : State) (c g seq : Nat) : State :=
  let mine (k : Packet) : Bool := k.addr / 2 ^ 40 % 16 = c && k.addr / 2 ^ 24 % 65536 = seq && k.arg % 1024 = g
  let ks := s.col.early.filter mine
  ks.foldl (fun t k => t.colDeliver k) { s with col := { s.col with early := s.col.early.filter fun k => !mine k } }

/-- A rule of R424 is broken. -/
def colBad (k : Packet) : Bool :=
  k.addr / 2 ^ 62 % 4 ≠ 2 || k.addr % 2 ^ 24 ≠ 0 || k.arg / 2 ^ 13 % 8 ≠ 0 || k.arg / 2 ^ 48 ≠ 0 || k.data.length > 4096

/-- The three COLFRAG commands: a packet of the kind the command names reaches the engine. -/
def colPacket (s : State) (k : Packet) (kind : Nat) : State :=
  let (p, s1) := s.fromInbox k
  let is := if k.arg.testBit 10 then 0 else if k.arg.testBit 11 then 1 else 2
  if k.op ≠ opCOLFRAG || k.rsp || is ≠ kind then s
  else if colBad k then s1.respond p k rsSPACE []
  else if !(s.devState = stREADY || s.devState = stRUNNING) then s1.respond p k rsNOT_READY []
  else (s1.colDeliver k).respond p k rsOK []

end State

/-! Issue -/

/-- Next operation sequence of a member, the lease index `li`, on a context's group, and the count moved on (R420, R425). -/
def State.nextSeq (s : State) (c li g : Nat) : Nat × State :=
  let k := g * 2 ^ 16 + li
  let q := ((s.ctx c).map fun x => natGet x.opSeq k).getD 0
  (q, s.modCtx c fun x => { x with opSeq := natPut x.opSeq k ((q + 1) % 65536) })

/-- Every chunk boundary of a scaled tensor falls on a tile boundary (R430). -/
def chunkAligned (d : Desc) (c n : Nat) : Bool :=
  !d.scaled || (List.range (n + 1)).all fun j => j * c % d.dim0 % (d.bs * d.bpt) = 0

def permBad (g : Group) : Bool :=
  g.perm.length ≠ g.count || g.perm.any (· ≥ g.count) || g.perm.eraseDups.length ≠ g.count

/-- Operands of a COLL: MOD names KIND, OP and VINT as 07 Table 7.10 allows them, and the group is not the lease range
(07 R256). -/
def collOperandsOk (w : TWord) : Bool :=
  let kind := w.mod.toNat / 256
  let op := w.mod.toNat / 64 % 4
  let vint := w.mod.toNat / 32 % 2 = 1
  okTok w && !(w.mod.toNat % 32 ≠ 0 || kind > 4 || op = 3 || (vint && kind ≠ 1)
    || ((kind = 1 || kind = 3 || kind = 4) && op ≠ 0) || w.a = 0)

/-- The operation a COLL starts, before its sequence number is known (12 R424; 13 R462). -/
def collOp (t : State) (a : At) (w : TWord) (g : Group) : ColOp :=
  { group := g, seq := 0, kind := w.mod.toNat / 256, op := w.mod.toNat / 64 % 4, sel := w.sel.toNat
    vint := w.mod.toNat / 32 % 2 = 1, vintage := (t.stepHdr a.c).commits }

/-- The checks of a COLL once its operands and group stand (12 R428 to R434, R452; 07 R257). -/
def collChecks (t : State) (a : At) (w : TWord) (g : Group) : List (Bool × FaultCode) :=
  let o := collOp t a w g
  let x := t.latch a w.b.toNat
  let d := t.latch a w.c.toNat
  let n := g.count
  let red := o.kind = 0 || o.kind = 2
  let plain (d : Desc) : Bool := d.fmt = fmtFP32 || (d.fmt = fmtG16 && !d.scaled)
  let c := chunkElems o x
  let need := if o.kind = 0 then c else if o.kind = 1 ∨ o.kind = 3 then n * c else x.elems
  [(t.reshardOn a.c, .reshardPending), descCheck x, descCheck d, (o.kind = 4 && permBad g, .group),
    (w.sel.toNat ≠ x.fmt || (red && !(plain x && plain d)) || (!red && (x.fmt ≠ d.fmt || x.shape ≠ d.shape)), .format),
    ((o.kind = 0 || o.kind = 3) && x.elems % n ≠ 0, .descriptor), (d.elems < need, .descriptor),
    (!chunkAligned x c (x.elems / max c 1) || (!red && !chunkAligned d c (need / max c 1)), .format),
    (!red && (x.sides.zip d.sides).any fun (p, q) => p.1 ≠ 0 && q.1 = 0, .descriptor)]

/-- A COLL in flight: it takes the group's next sequence number, sends READY, takes what has come for it, and reads its source
(12 R425 to R427). -/
def collStart (t : State) (r : Nat) (a : At) (w : TWord) (g : Group) : State :=
  let o := collOp t a w g
  let red := o.kind = 0 || o.kind = 2
  let x := if red then (t.latch a w.b.toNat).plain else t.latch a w.b.toNat
  let d := (t.latch a w.c.toNat).like x
  let q := t.nextSeq a.c a.li g.idx
  let raw := rawDesc t r a.uid w.b.toNat ++ rawDesc t r a.uid w.c.toNat
  let i : Infl := {
    Infl.mk0 with
    descs := [x, d], mv := some { unit := 3, raw := raw, check := moverCheck 0x60#8 w raw, total := (colUnits o x d).length }
    col := some { o with seq := q.1, toSend := colFrags o x d }
    writes := if d.global then [] else d.ranges }
  (((q.2.pending1 a 0x60 w i).colReady r a.uid).colEarly a.c g.idx q.1).colLoad r a.uid

def effColl (r : Nat) (w : TWord) (s : State) : State :=
  s.issue r 0x60#8 w fun a t =>
    checked [(!collOperandsOk w, .operand), (!okD w.b || !okD w.c, .descriptor)] fun _ =>
      match t.latchGroup a.c a.li w.a true with
      | .error f => .fault f
      | .ok none => .fault .group
      | .ok (some g) => checked (collChecks t a w g) fun _ => .ok (collStart t r a w g)

/-! Meanings -/

def execTColl (r : Nat) (w : TWord) (s : State) := run [bRoom r, bCOL] s (effColl r w s)

end Sys2Proof.Machine
end

