-- ==== Sys2Proof/Machine/Ctl.lean ====
section
/-! DEFINITION. The CTL instructions and CAPS (07 R231 to R234, R219), with the releases of WAIT, FENCE and BARRIER. -/

namespace Sys2Proof.Machine

/-! Effects -/

def effNop (r : Nat) (w : TWord) (s : State) : State :=
  s.issue r 0x01 w fun a t =>
    checked [(!okTok w || !zeroSel w || !zeroMod w || w.a ≠ 0 || w.b ≠ 0 || w.c ≠ 0, .operand)] fun _ => t.doneNow a w

/-- END: the room's stream ends (06 R190). -/
def effEnd (r : Nat) (w : TWord) (s : State) : State :=
  s.issue r 0x02 w fun a t =>
    checked [(!okTok w || !zeroSel w || !zeroMod w || w.a ≠ 0 || w.b ≠ 0 || w.c ≠ 0, .operand)] fun _ =>
      (t.modRoom r fun x => { x with seqr := { x.seqr with ended := true } }).doneNow a w

/-- The condition of BR (07 R232). -/
def brCond (cond : Nat) (x y : W64) : Bool :=
  match cond with
  | 0 => true
  | 1 => x = y
  | 2 => x ≠ y
  | 3 => x.slt y
  | 4 => !(x.slt y)
  | 5 => x.ult y
  | _ => !(x.ult y)

def effBr (r : Nat) (w : TWord) (s : State) : State :=
  s.issue r 0x03 w fun a t =>
    let cond := w.b.toNat / 256 % 8
    checked [(!okTok w || !zeroSel w || !zeroMod w || w.c ≠ 0 || w.b.toNat ≥ 2048 || cond = 7, .operand)] fun _ =>
      let take := brCond cond (t.sreg r (w.b &&& 15)) (t.sreg r ((w.b >>> 4) &&& 15))
      let target := (BitVec.ofNat 64 a.pc + (w.a.signExtend 64 <<< 4)).toNat
      (if take then t.setPc r target else t).doneNow a w

/-- Token test of WAIT: (token − v) mod 2^32 < 2^31 (06 R189). -/
def waitDone (tok v : W32) : Bool := !(tok - v).msb

def effWait (r : Nat) (w : TWord) (s : State) : State :=
  s.issue r 0x04 w fun a t =>
    checked [(!okTok w || !zeroSel w || !zeroMod w || !okS w.a || w.c ≠ 0, .operand)] fun _ =>
      let tok := (t.room r).tok.getD w.a.toNat 0
      .ok (if waitDone tok w.b then t.finish r a.pc w else t.holdFor r a.pc w (.wait w.a.toNat w.b))

def effFence (r : Nat) (w : TWord) (s : State) : State :=
  s.issue r 0x05 w fun a t =>
    checked [(!okTok w || !zeroSel w || !zeroMod w || w.a.toNat > 2 || w.b ≠ 0 || w.c ≠ 0, .operand)] fun _ =>
      .ok (if (t.room r).infl.isEmpty then t.finish r a.pc w else t.holdFor r a.pc w (.fence w.a.toNat))

def effBarrier (r : Nat) (w : TWord) (s : State) : State :=
  s.issue r 0x06 w fun a t =>
    checked [(!okTok w || !zeroSel w || !zeroMod w || w.b ≠ 0 || w.c ≠ 0, .operand)] fun _ =>
      match t.latchGroup a.c a.li w.a true with
      | .error f => .fault f
      | .ok none => .ok (t.holdFor r a.pc w (.barrier 0 none 0 0))
      | .ok (some g) => .ok ((t.arrivalUp a.c a.li g.idx).holdFor r a.pc w (.barrier w.a.toNat (some g) (t.arrivalNext a.c a.li g.idx) 0))

def effSets (r : Nat) (w : TWord) (s : State) : State :=
  s.issue r 0x07 w fun a t =>
    checked [(!okTok w || !zeroSel w || !zeroMod w || !okS w.a, .operand)] fun _ =>
      (t.setSreg r w.a (w.c ++ w.b)).doneNow a w

def effAdds (r : Nat) (w : TWord) (s : State) : State :=
  s.issue r 0x08 w fun a t =>
    checked [(!okTok w || !zeroSel w || !zeroMod w || !okS w.a || !okS w.b, .operand)] fun _ =>
      (t.setSreg r w.a (t.sreg r w.b + w.c.signExtend 64)).doneNow a w

def effLds (r : Nat) (w : TWord) (s : State) : State :=
  s.issue r 0x09 w fun a t =>
    checked [(!okTok w || !zeroSel w || !zeroMod w || !okS w.a || !okP w.b 8 8 || w.c ≠ 0, .operand)] fun _ =>
      ({ t.setSreg r w.a (BitVec.ofNat 64 (t.pantLe r a.uid w.b.toNat 8)) with free := t.free + 1 }).doneNow a w

def effSts (r : Nat) (w : TWord) (s : State) : State :=
  s.issue r 0x0A w fun a t =>
    checked [(!okTok w || !zeroSel w || !zeroMod w || !okS w.a || !okP w.b 8 8 || w.c ≠ 0, .operand)] fun _ =>
      (t.pantStore r a.uid w.b.toNat (leBytes 8 (t.sreg r w.a).toNat)).doneNow a w

def effDput (r : Nat) (w : TWord) (s : State) : State :=
  s.issue r 0x0B w fun a t =>
    checked [(!okTok w || !zeroSel w || !zeroMod w, .operand), (!okD w.a, .descriptor),
      (w.b.toNat % 8 ≠ 0 || w.b.toNat > 0x78 || !okS w.c, .operand)] fun _ =>
      (t.pantStore r a.uid (descTab + 128 * w.a.toNat + w.b.toNat) (leBytes 8 (t.sreg r w.c).toNat)).doneNow a w

def effTokrd (r : Nat) (w : TWord) (s : State) : State :=
  s.issue r 0x0C w fun a t =>
    checked [(!okTok w || !zeroSel w || !zeroMod w || !okS w.a || !okS w.b || w.c ≠ 0, .operand)] fun _ =>
      (t.setSreg r w.a (((t.room r).tok.getD w.b.toNat 0).setWidth 64)).doneNow a w

/-- The CAPS record (06 Table 6.7). -/
def capsBytes (s : State) (r c li : Nat) : List Byte :=
  let lat := s.latClass r
  let size := ((s.ctx c).map (·.size)).getD 0
  let enabled := ((List.range 72).filter fun n => (s.room n).role = 0).foldl (fun m n => m + 2 ^ n) 0
  let fmts := ((fmtAll.filter (· < 64)).foldl (fun m n => m + 2 ^ n) 0)
  let modw := match s.fab.num with
    | some n => n % 2 ^ 18 + 2 ^ 31
    | none => 0
  leBytes 2 1 ++ leBytes 1 0x21 ++ leBytes 1 lat ++ leBytes 1 8 ++ leBytes 1 8 ++ leBytes 1 8 ++ leBytes 1 4
    ++ leBytes 1 4 ++ leBytes 1 64 ++ leBytes 2 (268 + lat) ++ leBytes 2 262 ++ leBytes 2 4096 ++ leBytes 2 li
    ++ leBytes 2 size ++ leBytes 4 0xF00000 ++ leBytes 8 fmts ++ leBytes 10 enabled ++ leBytes 2 512
    ++ leBytes 2 (26 + 32 * 256) ++ leBytes 2 16 ++ leBytes 8 modw ++ leBytes 4 850000 ++ leBytes 4 0

def effCaps (r : Nat) (w : TWord) (s : State) : State :=
  s.issue r 0xF0 w fun a t =>
    checked [(!okTok w || !zeroSel w || !zeroMod w || !okP w.a 8 64 || w.b ≠ 0 || w.c ≠ 0, .operand)] fun _ =>
      (t.pantStore r a.uid w.a.toNat (capsBytes t r a.c a.li)).doneNow a w

/-- A WAIT's condition has become true (06 R189). -/
def effWaitRelease (r : Nat) (s : State) : State :=
  match (s.room r).seqr.hold with
  | .wait k v => if waitDone ((s.room r).tok.getD k 0) v then s.freeHold r else s
  | _ => s

/-- Every write of the earlier instructions is visible in the FENCE's scope (06 R210). -/
def effFenceRelease (r : Nat) (s : State) : State :=
  match (s.room r).seqr.hold with
  | .fence _ => if (s.room r).infl.isEmpty then s.freeHold r else s
  | _ => s

/-- How far the arrival of a sequencer at its barrier is. -/
def Seqr.arrived (q : Seqr) (st : Nat) : Seqr :=
  { q with hold := match q.hold with
    | .barrier g grp n _ => .barrier g grp n st
    | h => h }

namespace State

/-- A room has arrived at the barrier of group g: its FENCE is done (06 R211). -/
def atBarrier (c sl g : Nat) (x : Room) : Bool :=
  x.seqr.launch = some (c, sl) && x.infl.isEmpty && match x.seqr.hold with
    | .barrier h _ _ _ => h = g
    | _ => false

/-- How far the arrival of a lease index is: in its room, or in its image while it is out. -/
def setArrival (s : State) (c li st : Nat) : State :=
  match (List.range 72).find? fun r => (s.room r).lease = some (c, li) with
  | some r => s.modRoom r fun x => { x with seqr := x.seqr.arrived st }
  | none => s.modCtx c fun x => { x with
      saved := x.saved.map fun v => if v.1 = li then (v.1, { v.2.1 with seqr := v.2.1.seqr.arrived st }, v.2.2) else v }

/-- One room of a launch at the barrier of a table group: it sends its arrival once its FENCE is done; once that stands in its slot,
the release of the barrier root lets it go on. The root releases when every slot has reached the number; on another module the
command is the root's release (06 R211; 12 R428; log 41). -/
def barrierRoom (s : State) (c sl g r : Nat) : State :=
  let x := s.room r
  if !atBarrier c sl g x then s
  else match x.seqr.hold with
  | .barrier _ (some grp) n st =>
    let li := (x.lease.map (·.2)).getD 0
    if st = 0 then (s.setArrival c li 1).arriveAt (.arrival c li) c grp.idx grp.rank grp.rootMod n
    else if st = 2 ∧ (some grp.rootMod ≠ s.fab.num ∨ s.allArrived c grp.idx grp.count n) then s.freeHold r
    else s
  | _ => s

end State

/-- Every member of a barrier has reached it: the rooms at it go on. Group 0 needs every room of the launch's range (06 R211; 12
R422, R428; log 41). -/
def effBarrierRelease (c sl g : Nat) (s : State) : State :=
  if g = 0 then
    if s.allRooms c sl (State.atBarrier c sl 0) then s.releaseRooms c sl (State.atBarrier c sl 0) else s
  else (s.launchRooms c sl).foldl (fun t r => t.barrierRoom c sl g r) s

/-! Meanings -/

def execTNop (r : Nat) (w : TWord) (s : State) := run [bRoom r] s (effNop r w s)
def execTEnd (r : Nat) (w : TWord) (s : State) := run [bRoom r] s (effEnd r w s)
def execTBr (r : Nat) (w : TWord) (s : State) := run [bRoom r] s (effBr r w s)
def execTWait (r : Nat) (w : TWord) (s : State) := run [bRoom r] s (effWait r w s)
def execTFence (r : Nat) (w : TWord) (s : State) := run [bRoom r] s (effFence r w s)
def execTBarrier (r : Nat) (w : TWord) (s : State) := run [bRoom r] s (effBarrier r w s)
def execTSets (r : Nat) (w : TWord) (s : State) := run [bRoom r] s (effSets r w s)
def execTAdds (r : Nat) (w : TWord) (s : State) := run [bRoom r] s (effAdds r w s)
def execTLds (r : Nat) (w : TWord) (s : State) := run [bRoom r] s (effLds r w s)
def execTSts (r : Nat) (w : TWord) (s : State) := run [bRoom r] s (effSts r w s)
def execTDput (r : Nat) (w : TWord) (s : State) := run [bRoom r] s (effDput r w s)
def execTTokrd (r : Nat) (w : TWord) (s : State) := run [bRoom r] s (effTokrd r w s)
def execTCaps (r : Nat) (w : TWord) (s : State) := run [bRoom r] s (effCaps r w s)
def execWaitRelease (r : Nat) (s : State) := run [bRoom r] s (s.live (effWaitRelease r s))
def execFenceRelease (r : Nat) (s : State) := run [bRoom r] s (s.live (effFenceRelease r s))
def execBarrierRelease (c sl g : Nat) (s : State) := run [bCOL] s (s.live (effBarrierRelease c sl g s))

/-- An opcode the profile does not define raises OPCODE when it reaches issue (06 R223, 07 R227). -/
def effUndefinedOpcode (r : Nat) (op : Byte) (w : TWord) (s : State) : State :=
  if definedOp op then s else s.issue r op w fun _ _ => .fault .opcode
def execUndefinedOpcode (r : Nat) (op : Byte) (w : TWord) (s : State) := run [bRoom r] s (effUndefinedOpcode r op w s)

end Sys2Proof.Machine
end

