-- ==== Sys2Proof/Machine/Debug.lean ====
section
/-! DEFINITION. Counters, the trace store, the global stop and the lifetime store as commanded (17 R568 to R590; 07 R265). -/

namespace Sys2Proof.Machine

namespace State

/-- ARM (17 R578, R580, 21 R685). -/
def traceArm (s : State) : State :=
  let spill := s.regBit rDBG_TRACE_CTL 29
  let units := min 64 (s.regBits rDBG_SPILL_SIZE 0 7)
  let base := ((s.reg rDBG_SPILL_BASE).toNat + (s.reg (rDBG_SPILL_BASE + 4)).toNat * 2 ^ 32) / 2 ^ 26 * 2 ^ 26
  ((((s.setReg rDBG_TRACE_LOST 0).setRegBit rDBG_TRACE_STATUS 28 false).setRegBit rDBG_TRACE_STATUS 27 false).setTraceState tsARMED).modDbg
    fun d => { d with cap := 2097152 * (1 + if spill then units else 0), spill := base, written := 0, postLeft := 0, trigs := 0 }

/-- DISARM keeps the contents. -/
def traceDisarm (s : State) : State := s.setTraceState tsIDLE

/-- Entry into SAMPLE mode latches the sample ring (21 R685). -/
def latchSample (s : State) : State :=
  let base := ((s.reg rDBG_SAMPLE_BASE).toNat + (s.reg (rDBG_SAMPLE_BASE + 4)).toNat * 2 ^ 32) / 65536 * 65536
  let n := s.regBits rDBG_SAMPLE_SIZE 0 16
  s.modDbg fun d => { d with sampleBase := base, sampleSize := (if n = 0 then 16 else n) * 65536 }

/-- The lifetime-store slot with the highest SEQ (17 R589). -/
def lifeNewest (s : State) : Option (Nat × Nat × List (Nat × Nat)) :=
  s.life.slots.zipIdx.foldl (fun acc (x, i) => match x, acc with
    | some (q, m), none => some (i, q, m)
    | some (q, m), some (j, p, n) => if q > p then some (i, q, m) else some (j, p, n)
    | none, a => a) none

/-- Write the lifetime items to the next slot; one that fails to program is skipped and counted (17 R588, R589). -/
def lifeWrite (s : State) (ok : Bool) : State :=
  let (i, q) := match s.lifeNewest with
    | some (i, q, _) => ((i + 1) % 16, q)
    | none => (0, 0)
  let (i, s1) := if ok then (i, s) else ((i + 1) % 16, s.regCount rLIF_STATUS 16 8 1)
  let s2 := { s1 with life := { s1.life with slots := s1.life.slots.set i (some (q + 1, s1.life.work)), lastT := s1.now } }
  ((s2.setRegBits rLIF_STATUS 0 4 i).setRegBits rLIF_STATUS 4 12 0).setRegBit rLIF_STATUS 31 false

end State

/-! Effects -/

def effTrig (r : Nat) (w : TWord) (s : State) : State :=
  s.issue r 0x90#8 w fun a t =>
    checked [(!okTok w || !zeroSel w || !zeroMod w || w.a = 0 || w.b ≠ 0 || w.c ≠ 0, .operand)] fun _ =>
      let t1 := t.finish r a.pc w
      let t2 := if w.a.getLsbD 1 then t1.freezeTrigger else t1
      .ok (if w.a.getLsbD 0 then t2.trigger r 0 else t2)

def effMark (r : Nat) (w : TWord) (s : State) : State :=
  s.issue r 0x91#8 w fun a t =>
    checked [(!okTok w || !zeroSel w || !zeroMod w || w.b ≠ 0 || w.c ≠ 0, .operand)] fun _ =>
      (t.trace r 15 tyMARK (some a.c) (leBytes 4 w.a.toNat ++ leBytes 2 a.li ++ leBytes 2 0 ++ leBytes 8 a.pc)).doneNow a w

/-- The bytes of a snapshot (R575). -/
def snapBytes (s : State) (r fam : Nat) (frozen : Bool) : List Byte :=
  let units := if fam = 0 then (List.range 12).map (12 * r + ·) else [r]
  let stale := frozen && s.dbg.stale.contains r
  let vals := units.flatMap fun u => (List.range (famCounters fam)).flatMap fun k =>
    leBytes 8 (if frozen then s.shadowCount fam u k else s.count fam u k)
  leBytes 8 s.now ++ leBytes 1 fam ++ leBytes 1 units.length ++ leBytes 1 (famCounters fam)
    ++ leBytes 1 ((if frozen then 1 else 0) + if stale then 2 else 0) ++ leBytes 4 0 ++ vals

def effSnap (r : Nat) (w : TWord) (s : State) : State :=
  s.issue r 0x92#8 w fun a t =>
    let fam := w.a.toNat % 256
    let bs := snapBytes t r fam (w.a.getLsbD 8)
    checked [(!okTok w || !zeroSel w || !zeroMod w || w.a.toNat ≥ 512 || fam > 5 || !okP w.b 8 bs.length || w.c ≠ 0, .operand)] fun _ =>
      ({ t.pantStore r a.uid w.b.toNat bs with free := t.free + 1 }).doneNow a w

/-- A sample period has elapsed (R573). -/
def effCounterSample (s : State) : State := if s.regBits rDBG_CNT_CTL 30 2 = 2 then s.sampleNow false else s

/-- An action of the debug block needs the module powered. -/
def State.on (s t : State) : State := if s.devState = stOFF then s else t

/-! Meanings -/

def execTTrig (r : Nat) (w : TWord) (s : State) := run [bRoom r, bDBG] s (effTrig r w s)
def execTMark (r : Nat) (w : TWord) (s : State) := run [bRoom r, bDBG] s (effMark r w s)
def execTSnap (r : Nat) (w : TWord) (s : State) := run [bRoom r, bDBG] s (effSnap r w s)
def execCounterFreeze (s : State) := run [bDBG] s (s.on s.freezeTrigger)
def execCounterSample (s : State) := run [bDBG] s (s.on (effCounterSample s))
def execTraceArm (s : State) := run [bDBG] s (s.on s.traceArm)
def execTraceTrig (src : Nat) (s : State) := run [bDBG] s (s.on (s.trigger isMgmt src))
def execTraceDisarm (s : State) := run [bDBG] s (s.on s.traceDisarm)
def execTraceRecord (island : Nat) (s : State) := run [bDBG] s (s.on (s.takeRec island))
def execStopWrite (s : State) := run [bDBG] s (s.on s.globalStop)
def execLifetimeWriteNow (programOk : Bool) (s : State) := run [] s (s.on (s.lifeWrite programOk))

end Sys2Proof.Machine
end

