-- ==== Sys2Proof/Machine/Pixel.lean ====
section
/-! DEFINITION. What the press reads out of headers (09 Tables 9.2, 9.3), the tensorizer's arithmetic (09 R332 to R334), spans, audio
sections and caption records (09 R327, R335, R336). -/

namespace Sys2Proof

/-! What the press supports (09 R312, R314, Tables 9.2, 9.3) -/

/-- A stream within Table 9.2. -/
def SeqHdr.supported (h : SeqHdr) : Bool :=
  !h.extension && h.chroma ≤ 2 && (h.bits = 8 || h.bits = 10) && (match h.codec with
    | 0 => h.profile < 2 && h.level ≤ 3
    | 1 => h.profile < 5 && h.level ≤ 52
    | 2 => h.profile < 3 && h.level ≤ 61 && !h.highTier
    | 3 => h.profile = 0 && h.level ≤ 60
    | _ => false)

/-- The DPB depth of a stream (09 R317). -/
def SeqHdr.depth (h : SeqHdr) : Nat := if h.codec = 0 then 2 else if h.codec = 3 then 8 else h.maxDec

/-- Granules of 64 KiB of a stream's reservation (09 R317). A picture without chroma has no chroma planes. -/
def SeqHdr.granules (h : SeqHdr) : Nat :=
  let w := cdiv h.width 64 * 64
  let v := cdiv h.height 64 * 64
  let planes := w * v * (if h.chroma = 2 then 4 else if h.chroma = 1 then 3 else 2) / 2 * (if h.bits = 10 then 2 else 1)
  (h.depth + 5) * cdiv (planes + 16 * (w / 16 * (v / 16))) 65536

/-- An audio stream within Table 9.3, in a container of a kind; 32, 44.1 and 48 kHz are resampled to 48 kHz. -/
def AudioHdr.supported (a : AudioHdr) (container : Nat) : Bool :=
  List.contains [32000, 44100, 48000] a.rate && (match a.kind with
    | 0 => a.channels ≤ 2
    | 1 => a.channels ≤ 8
    | 2 => a.channels ≤ 8
    | 3 => a.channels ≤ 8
    | 4 => a.channels ≤ 8
    | 5 => a.channels ≤ 8
    | 6 => (a.bits = 16 || a.bits = 24) && (container = 1 || container = 2)
    | _ => false)

/-- A container within Table 9.3. -/
def ContHdr.supported (c : ContHdr) : Bool :=
  match c.kind with
  | 0 => c.programs ≤ 256
  | 1 => c.videoTracks ≤ 1 && c.audioTracks ≤ 1
  | 2 => c.op1a
  | 3 => c.startCodes
  | 4 => c.startCodes
  | _ => false

end Sys2Proof

namespace Sys2Proof.Machine

/-! The tensorizer (09 R332): each step's result is rounded to FP32 once, to nearest even; within a step the model works exactly, which
the manual leaves open (DEDUCED, log 11) -/

/-- A number rounded to FP32. -/
def toF32 (q : Rat) : Rat := (decFp32 (encFp32 (.ofRat q)).1).toRat
def ratClamp (lo hi q : Rat) : Rat := max lo (min hi q)
/-- An index kept in a line of n samples: edge clamping. -/
def edge (n : Nat) (i : Int) : Nat := (max 0 (min ((n : Int) - 1) i)).toNat

/-- Weighted taps of a filter in a line of n samples: at a position, bilinear or bicubic with a = −0.5. -/
def linTaps (n : Nat) (pos : Rat) : List (Nat × Rat) :=
  let i := pos.floor
  let f := pos - i
  [(edge n i, 1 - f), (edge n (i + 1), f)]
def cubicW (t : Rat) : Rat :=
  let a := ratAbs t
  if a ≤ 1 then mkRat 3 2 * a * a * a - mkRat 5 2 * a * a + 1 else mkRat (-1) 2 * a * a * a + mkRat 5 2 * a * a - 4 * a + 2
def cubicTaps (n : Nat) (pos : Rat) : List (Nat × Rat) :=
  let i := pos.floor
  [-1, 0, 1, 2].map fun (j : Int) => (edge n (i + j), cubicW (pos - (i + j : Int)))
/-- Area taps: each source sample by its overlap with output sample d of m. -/
def areaTaps (n m d : Nat) : List (Nat × Rat) :=
  let lo := mkRat (d * n) m
  let hi := mkRat ((d + 1) * n) m
  let i0 := lo.floor.toNat
  (List.range (hi.ceil.toNat - i0)).map fun j =>
    let i := i0 + j
    (edge n i, (min hi ((i + 1 : Nat) : Rat) - max lo ((i : Nat) : Rat)) / (hi - lo))
/-- Taps of output sample d of m from n source samples under FILTER (step 5). -/
def taps (filter n m d : Nat) : List (Nat × Rat) :=
  let pos := (((d : Nat) : Rat) + mkRat 1 2) * mkRat n m - mkRat 1 2
  if filter = 0 then linTaps n pos else if filter = 1 then cubicTaps n pos else areaTaps n m d
def weigh (ts : List (Nat × Rat)) (f : Nat → Rat) : Rat := (ts.map fun x => x.2 * f x.1).sum

/-- What the tensorizer works with: the stream's header, the crop rectangle in the picture, and the picture's samples by plane, column
and line. -/
structure Crop where
  h : SeqHdr
  x0 : Nat
  y0 : Nat
  w : Nat
  v : Nat
  pic : Nat → Nat → Nat → Nat

namespace Crop

/-- Lines of luma to one line of chroma. -/
def sub (c : Crop) : Nat := if c.h.chroma = 1 then 2 else 1

/-- Steps 1 and 2: a sample of the cropped 4:4:4 picture. Chroma lies at the signalled siting, type 0 without one, and is clamped at the
crop's edges (DEDUCED, log 11). -/
def full (c : Crop) (plane x y : Nat) : Rat :=
  let s := (c.h.siting.getD 0)
  if plane = 0 then c.pic 0 (c.x0 + x) (c.y0 + y)
  else if c.h.chroma = 0 then ((2 ^ (c.h.bits - 1) : Nat) : Rat)
  else
    let u := ((x : Rat) - (if s % 2 = 1 then mkRat 1 2 else 0)) / 2
    let v := if c.sub = 1 then (y : Rat) else ((y : Rat) - (if s / 2 = 0 then mkRat 1 2 else if s / 2 = 2 then 1 else 0)) / 2
    toF32 (weigh (linTaps (cdiv c.v c.sub) v) fun j => weigh (linTaps (cdiv c.w 2) u) fun i => c.pic plane (c.x0 / 2 + i) (c.y0 / c.sub + j))

/-- Step 3: scale to [0, 1] from limited or full range. -/
def unit (c : Crop) (plane x y : Nat) : Rat :=
  let k : Rat := ((2 ^ (c.h.bits - 8) : Nat) : Rat)
  let v := c.full plane x y
  toF32 (if c.h.fullRange then v / ((2 ^ c.h.bits - 1 : Nat) : Rat) else (v - 16 * k) / ((if plane = 0 then 219 else 224) * k))

/-- The stream's matrix: 0 BT.601, 1 BT.709, 2 BT.2020; without one BT.709 from 720 lines up and BT.601 below (step 4). -/
def matrix (h : SeqHdr) : Nat := h.matrix.getD (if h.height ≥ 720 then 1 else 0)
/-- Luma coefficients of red and blue. -/
def luma (m : Nat) : Rat × Rat :=
  if m = 0 then (mkRat 299 1000, mkRat 114 1000) else if m = 1 then (mkRat 2126 10000, mkRat 722 10000) else (mkRat 2627 10000, mkRat 593 10000)

/-- Step 4: a channel under COLOUR: RGB, YCbCr or luma only. -/
def channel (c : Crop) (colour ch x y : Nat) : Rat :=
  let yy := c.unit 0 x y
  let cb := c.unit 1 x y - mkRat 1 2
  let cr := c.unit 2 x y - mkRat 1 2
  let (kr, kb) := luma (matrix c.h)
  let r := yy + 2 * (1 - kr) * cr
  let b := yy + 2 * (1 - kb) * cb
  let half := ratClamp (mkRat (-1) 2) (mkRat 1 2)
  toF32 (if colour = 0 then ratClamp 0 1 (if ch = 0 then r else if ch = 2 then b else (yy - kr * r - kb * b) / (1 - kr - kb))
    else if ch = 0 then ratClamp 0 1 yy else half (if ch = 1 then cb else cr))

/-- Step 5: resample to an output pixel. -/
def resampled (c : Crop) (colour filter ow oh ch x y : Nat) : Rat :=
  toF32 (weigh (taps filter c.v oh y) fun j => weigh (taps filter c.w ow x) fun i => c.channel colour ch i j)

end Crop

def fvDiv (x y : Fv) : Fv :=
  match x, y with
  | .nan, _ => .nan
  | _, .nan => .nan
  | .inf _, .inf _ => .nan
  | .inf a, .fin b _ => .inf (a != b)
  | .fin a _, .inf b => .fin (a != b) 0
  | .fin a p, .fin b q => if q = 0 then (if p = 0 then .nan else .inf (a != b)) else .fin (a != b) (p / q)

/-- Steps 6 and 7 with the steps before them: a channel of an output pixel of a frame under a job record. -/
def outPixel (r : List Byte) (flip : Bool) (c : Crop) (ch x y : Nat) : Fv :=
  let f := fieldLe r
  let ow := f 0x30 2
  let v := c.resampled (f 0x2D 1) (f 0x2C 1) ow (f 0x32 2) ch (if flip then ow - 1 - x else x) y
  let num (o : Nat) : Fv := decFp32 (BitVec.ofNat 32 (f (o + 4 * ch) 4))
  decFp32 (encFp32 (fvDiv (fvAdd (.ofRat v) (fvNeg (num 0x40))) (num 0x4C))).1

/-- Channels of a job's output. -/
def pressChannels (r : List Byte) : Nat := if fieldLe r 0x2D 1 = 2 then 1 else 3

/-- The elements of the token at a row and column of patches, of the PATCH_T frames given (R334). -/
def tokenEls (r : List Byte) (flip : Bool) (frames : List Crop) (ty tx : Nat) : List El :=
  let f := fieldLe r
  let ph := f 0x35 1
  let pw := f 0x36 1
  frames.flatMap fun c => (List.range ph).flatMap fun dy => (List.range pw).flatMap fun dx =>
    (List.range (pressChannels r)).map fun ch => { v := outPixel r flip c ch (tx * pw + dx) (ty * ph + dy) }

/-- A token quantised to OUT_FMT under SHAPE as the landing converts it, without GRAD: element, SC8 and TS32 bytes (R334). -/
def tokenBytes (r : List Byte) (els : List El) : List Byte × List Byte × List Byte :=
  let f := fieldLe r
  let d : Desc := {
    base := 0, sc8 := 0x400000, ts32 := 0x800000, zp8 := 0, status := 0, hdr := 0, sb := 0, chan := 0, dim0 := els.length, dim1 := 1, dim2 := 1
    dim3 := 1, str1 := 0, str2 := 0, str3 := 0, hrCount := 0, tsFixed := f 0x3C 4, fmt := f 0x37 1, shape := f 0x38 1, attr := 0, layer := 0
    slot := 0, hrG := 0, sbK := 0, nchan := 0 }
  let m := (convSeg d { gap := 0, hx := 0, mseLog2 := 0, r16 := fun _ => 0 } 0 0 els []).mem
  (m.read 0 d.rowBytes, if d.scaled then m.read 0x400000 d.nb else [], if d.scaled then m.read 0x800000 (4 * d.tpr) else [])

/-- A sample block: its tokens in raster order, each array whole (R334). -/
def blockBytes (r : List Byte) (flip : Bool) (frames : List Crop) : List Byte × List Byte × List Byte :=
  let f := fieldLe r
  let ts := (List.range (f 0x32 2 / f 0x35 1)).flatMap fun ty => (List.range (f 0x30 2 / f 0x36 1)).map fun tx =>
    tokenBytes r (tokenEls r flip frames ty tx)
  (ts.flatMap (·.1), ts.flatMap (·.2.1), ts.flatMap (·.2.2))

/-! Spans and sound (R327, R335) -/

/-- A quantity as a whole number; the manual does not say how a fraction is taken (log 11). -/
def wholeOf (q : Rat) : Nat := if q.den = 1 then q.floor.toNat else q.floor.toNat + if Config.wholeUp q then 1 else 0

/-- The span of a sample in seconds, and a frame duration in 90 kHz ticks. -/
def spanOf (r : List Byte) (h : SeqHdr) : Rat := ((fieldLe r 0x18 2 * fieldLe r 0x1A 1 : Nat) : Rat) * mkRat h.durNum h.durDen
def frameTicks (h : SeqHdr) : Rat := 90000 * mkRat h.durNum h.durDen

/-- The unwrapped time of a display frame: on from the clip's first stamp, re-based by one frame duration at a discontinuity. -/
def unwrapped (st : Nat → Stamp) (dur : Rat) : Nat → Rat
  | 0 => (((st 0).ticks % 2 ^ 33 : Nat) : Rat)
  | n + 1 =>
    unwrapped st dur n + (if (st (n + 1)).jump then dur
      else ((((st (n + 1)).ticks % 2 ^ 33 + 2 ^ 33 - (st n).ticks % 2 ^ 33) % 2 ^ 33 : Nat) : Rat))

/-- Rows of the audio section and values of a row: 48 kHz samples by channel, or a row each 10 ms by bin. -/
def audioRows (r : List Byte) (h : SeqHdr) : Nat :=
  match fieldLe r 0x39 1 % 4 with
  | 1 => wholeOf (48000 * spanOf r h)
  | 2 => wholeOf (100 * spanOf r h)
  | _ => 0
def audioWidth (r : List Byte) : Nat :=
  let a := fieldLe r 0x39 1
  if a % 4 = 1 then (if a.testBit 2 then 2 else 1) else if a.testBit 3 then 128 else 80

/-- The log-mel value of a bin of one row's samples: log2 of 2^-40 where all of them are 0 (R335). -/
def logMelCode (wide : Bool) (xs : List Rat) (bin : Nat) : Nat :=
  if xs.all (· = 0) then (encIeee 7 .rne (.ofRat (-40))).1 else Config.logMel wide xs bin

/-- The audio section of the sample of an index: unscaled G16, PCM with failed stretches silent, or log-mel rows, row n of 1,200 samples
from sample 480 n of the mono or left-plus-right signal (R335, R339). -/
def audioSection (r : List Byte) (h : SeqHdr) (inp : PressIn) (idx : Nat) (silent : List (Int × Nat)) : List Byte :=
  let mode := fieldLe r 0x39 1
  let pcm (c n : Nat) : Rat := if silent.any fun x => x.1 ≤ (n : Int) && (n : Int) < x.1 + x.2 then 0 else Config.pcm inp idx c n
  let signal (n : Nat) : Rat := if mode.testBit 2 then pcm 0 n + pcm 1 n else pcm 0 n
  (List.range (audioRows r h)).flatMap fun n =>
    let row := if mode % 4 = 1 then [] else (List.range 1200).map fun k => signal (480 * n + k)
    (List.range (audioWidth r)).flatMap fun c =>
      leBytes 2 (if mode % 4 = 1 then (encIeee 7 .rne (.ofRat (pcm c n))).1 else logMelCode (mode.testBit 3) row c)

/-! Captions (R336) -/

/-- A span record, clipped to the sample's span; none when the span lies outside it. -/
def capRecord (r : List Byte) (h : SeqHdr) (s : CapSpan) : Option (List Byte) :=
  let kind := fieldLe r 0x3A 2 % 16 - 1
  let ticks := (90000 * spanOf r h).floor
  let a := max 0 s.start
  let b := min ticks s.stop
  let pay := if kind = 3 then leBytes 2 s.width ++ leBytes 2 s.height ++ leBytes 2 s.x ++ leBytes 2 s.y ++ s.pixels else s.text
  if b ≤ a then none
  else some (leBytes 4 a.toNat ++ leBytes 4 b.toNat ++ leBytes 1 kind ++ leBytes 1 0 ++ leBytes 2 pay.length ++ leBytes 4 0 ++ pay
    ++ List.replicate (cdiv pay.length 16 * 16 - pay.length) 0#8)

end Sys2Proof.Machine
end

