-- ==== Sys2Proof/Machine/Cmd.lean ====
section
/-! DEFINITION. Management commands: where they come from, what every command checks, and how it is answered (18 R604 to
R607, R612, R613; 19 R628, R631, R635), and the READY and RUNNING states (20 R651). -/

namespace Sys2Proof.Machine

/-- Command statuses (18 Table 18.6). -/
abbrev cOK : Nat := 0
abbrev cINVALID : Nat := 1
abbrev cBUSY : Nat := 2
abbrev cLEASE : Nat := 3
abbrev cSTATE : Nat := 4
abbrev cNO_CONTEXT : Nat := 5
abbrev cEXISTS : Nat := 6
abbrev cAUTH : Nat := 7
abbrev cREFUSED : Nat := 8

/-- What a command answers. -/
structure Ans where
  status : Nat
  detail : Nat := 0
  body : List Byte := []

end Sys2Proof.Machine

namespace Sys2Proof.Req

open Sys2Proof.Machine

/-- Argument n of a request. -/
def arg (q : Req) (n : Nat) : Nat := q.args.getD n 0
/-- The body's bytes from an offset, zero beyond its end. -/
def bodyAt (q : Req) (off n : Nat) : List Byte := ((q.body.drop off).take n ++ List.replicate n 0#8).take n
def bodyLe (q : Req) (off n : Nat) : Nat := leNum (q.bodyAt off n)
def isPf1 (q : Req) : Bool := match q.path with
  | .pf1 _ => true
  | _ => false
def isNsp (q : Req) : Bool := match q.path with
  | .nsp _ _ => true
  | _ => false

/-- Request fields of a slot, from OPCODE through BODY, as bytes hold them (18 Table 18.4). -/
def ofBytes (path : Path) (bs : List Byte) (seq : Nat) : Req :=
  { path := path, opcode := fieldLe bs 0 2, flags := fieldLe bs 2 2, len := fieldLe bs 4 4, tag := fieldLe bs 8 8,
    args := (List.range 6).map fun i => fieldLe bs (0x10 + 8 * i) 8, body := (bs.drop 0x40).take (fieldLe bs 4 4), seq := seq }

/-- The request an MGMT message carries: types 0x0010 and 0x0024 a critical command, 0x0011 a transfer command (19 R628, R635;
14 Table 14.7). The six bytes after a critical command's opcode are zero. -/
def ofMgmt (k : Packet) : Req :=
  if k.arg % 65536 = 0x10 ∨ k.arg % 65536 = 0x24 then
    { path := .fab k, opcode := fieldLe k.data 0 2, flags := if fieldLe k.data 2 6 = 0 then 0 else 0xFFFF
      len := (k.data.drop 8).length, body := k.data.drop 8 }
  else Req.ofBytes (.fab k) k.data 0

end Sys2Proof.Req

namespace Sys2Proof.Machine

/-- Response fields of a slot, from STATUS through the response body (18 Table 18.4). -/
def respBytes (tag seq : Nat) (a : Ans) : List Byte :=
  leBytes 2 a.status ++ leBytes 2 a.detail ++ leBytes 4 a.body.length ++ leBytes 8 tag ++ leBytes 8 seq ++ List.replicate 40 0#8 ++ a.body

namespace State

/-- A request is there to execute: the slot exists, the NSP request is complete, or the message has arrived; it is taken. -/
def takeReq (s : State) (q : Req) : Option State :=
  match q.path with
  | .pf1 sl => if sl < 16 then some s else none
  | .nsp _ _ => if s.host.ready.contains q then some { s with host := { s.host with ready := s.host.ready.erase q } } else none
  | .fab k => if (s.fab.inbox.any fun x => x.2 = k) ∧ k.op = opMGMT ∧ q = Req.ofMgmt k then some s else none

/-- Answer a request: the slot's response fields and RSEQ, with PF1 vector 0 on FLAGS[0]; the NSP response, kept; or the
message's response. Scan-out's NSP response is not kept (R632). -/
def answer (s : State) (q : Req) (a : Ans) : State :=
  match q.path with
  | .pf1 sl =>
    let c : CmdSlot := { status := a.status, detail := a.detail, tagOut := q.tag, rseq := q.seq, rbody := a.body }
    let s1 := { s with host := { s.host with cmds := s.host.cmds.set sl c } }
    if q.flags % 2 = 1 then s1.msix 1 0 else s1
  | .nsp src id =>
    let bs := respBytes q.tag 0 a
    let keep := if q.opcode = 0x107 then s.host.kept else (s.host.kept ++ [(src, id, q.opcode, bs)])
    ({ s with host := { s.host with kept := keep.drop (keep.length - 32) } }).emit (.nsp src id q.opcode bs)
  | .fab k =>
    let (p, s1) := s.fromInbox k
    let st := if a.status = cOK then 0 else 3
    s1.respond p k st (if k.arg % 65536 = 0x10 ∨ k.arg % 65536 = 0x24 then leBytes 2 a.status else respBytes q.tag 0 a)

/-- Commands a device state accepts (R607, R631; 15 Table 15.3). -/
def cmdAllowed (s : State) (q : Req) : Bool :=
  let st := s.devState
  let op := q.opcode
  let crit := 0x100 ≤ op && op < 0x200
  if st = stREADY ∨ st = stRUNNING ∨ st = stDRAINING then true
  else if st = stTEST then op = 0xE
  else if st = stVESTIBULE then
    op = 0xE || op = 0x10 || crit || (0x201 ≤ op && op ≤ 0x205) || (op = 0xF && q.isNsp)
  else if st = stSTOPPED then op = 0xE || op = 0xF || op = 0x10 || (0x100 ≤ op && op < 0x300)
  else false

/-- Execute a command: `used` arguments are its own, `nsp` tells whether NSP may carry it. INVALID is looked for before
the device state (log 25). A command that is not there, or that arrives while the module is off, changes nothing; one that comes
while a RESTORE runs or an open waits for its record waits to come again (R605). One that waits on the device answers none at first. -/
def cmdWait (s : State) (q : Req) (op used : Nat) (nsp : Bool) (f : State → State × Option Ans) : State :=
  if s.devState = stOFF ∨ q.opcode ≠ op ∨ s.res.restore.isSome ∨ s.host.waiting.isSome then s
  else match s.takeReq q with
  | none => s
  | some s1 =>
    if q.flags ≥ 2 ∨ q.len > 1984 ∨ (q.args.drop used).any (· ≠ 0) ∨ (q.isNsp ∧ !nsp) then s1.answer q { status := cINVALID }
    else if !s1.cmdAllowed q then s1.answer q { status := cSTATE }
    else
      let (s2, a) := f s1
      match a with
      | some a => s2.answer q a
      | none => s2

/-- Execute a command that is answered at once. -/
def cmd (s : State) (q : Req) (op used : Nat) (nsp : Bool) (f : State → State × Ans) : State :=
  s.cmdWait q op used nsp fun t => ((f t).1, some (f t).2)

/-- A command on an existing context. -/
def onCtx (s : State) (q : Req) (f : Ctx → State × Ans) : State × Ans :=
  match s.ctx (q.arg 0) with
  | some x => f x
  | none => (s, { status := cNO_CONTEXT })

/-- A command that opens a job reads its record of 128 bytes, and waits while it comes from another module (09 R322; 10 R354; 08 R284). -/
def openWith (s : State) (q : Req) (c va : Nat) (f : State → List Byte → State × Ans) : State × Option Ans :=
  match s.farRead (.job c) c none va 128 with
  | .error _ => (s, some { status := cREFUSED, detail := 1 })
  | .ok (none, t) => ({ t with host := { t.host with waiting := some q } }, none)
  | .ok (some bs, t) => ((f t bs).1, some (f t bs).2)

/-- The RUNNING conditions (20 Table 20.2). -/
def busy (s : State) : Bool :=
  (s.ctxs.any fun x => match x with
    | some c => c.slots.any fun l => l.launch.isSome
    | none => false) || !s.prs.jobs.isEmpty || !s.rck.jobs.isEmpty || s.col.resh.any fun r => r.inst.isNone

/-- READY or RUNNING as the RUNNING conditions stand (20 R651). -/
def activity (s : State) : State :=
  if s.devState = stREADY ∧ s.busy then s.enter stRUNNING
  else if s.devState = stRUNNING ∧ !s.busy then s.enter stREADY
  else s


end State

/-- Some byte of a range is not zero. -/
def anyByte (bs : List Byte) (off n : Nat) : Bool := ((bs.drop off).take n).any (· ≠ 0#8)

end Sys2Proof.Machine
end

