-- ==== Sys2Proof/Machine/Rack.lean ====
section
/-! DEFINITION. The racking engine: rack jobs, horizons, the receive ring, RACK and its deadline (10 R350 to R367, R375). -/

namespace Sys2Proof.Machine

/-- KIND of a rack transfer (11 Table 11.9). -/
abbrev rkDATA : Nat := 0
abbrev rkCREDIT : Nat := 1
abbrev rkDROPPED : Nat := 2

/-- Window size B of a job (R353). -/
def rackB (j : RackJob) : Nat := j.trainers.length / j.fanout * j.micro
/-- Trainer of a position, its modules, and the producer's rank (R350, R351, R353). -/
def rackTrainer (j : RackJob) (g : Nat) : Nat := g % rackB j / j.micro
def rackModules (j : RackJob) (g : Nat) : List Nat := (j.trainers.drop (rackTrainer j g * j.fanout)).take j.fanout
/-- Horizon of the cursor (R356). -/
def rackHorizon (j : RackJob) : Nat := (j.cursor + (j.lookahead + 1) * rackB j) % 2 ^ 64
/-- Index and epoch of the sample at a position (R350). -/
def rackIndex (j : RackJob) (g : Nat) : Nat := permPiInv j.key (g / j.n) j.n (g % j.n)
def rackEpoch (j : RackJob) (g : Nat) : Nat := g / j.n
/-- The SAMPLE field of that sample (09 Table 9.8). -/
def rackSample (j : RackJob) (g : Nat) : Nat := rackIndex j g % 2 ^ 48 + rackEpoch j g % 65536 * 2 ^ 48

namespace State

def rackJob (s : State) (c : Nat) : Option RackJob := mapGet s.rck.jobs c
def setRack (s : State) (c : Nat) (j : Option RackJob) : State := { s with rck := { s.rck with jobs := mapSet s.rck.jobs c j } }
def modRack (s : State) (c : Nat) (f : RackJob → RackJob) : State := s.setRack c ((s.rackJob c).map f)

/-- This module's trainer number, when it is a trainer module (R353). -/
def myTrainer (s : State) (j : RackJob) : Option Nat :=
  (s.fab.num.bind fun m => j.trainers.findIdx? (· = m)).map (· / j.fanout)

/-- Receive slot of a position whose window this module's ring holds (R357, R359). -/
def rackSlot (s : State) (j : RackJob) (g : Nat) : Option Nat :=
  let b := rackB j
  if s.myTrainer j = some (rackTrainer j g) ∧ j.cursor / b ≤ g / b ∧ g / b ≤ j.cursor / b + j.lookahead then
    some (g / b % (j.lookahead + 1) * j.micro + g % b % j.micro)
  else none

def rackTrace (s : State) (c g st : Nat) : State := s.trace isHub 0 tyRACKING (some c) (leBytes 1 st ++ leBytes 7 0 ++ leBytes 8 g)

/-- Publish the horizon to every producer (R356). -/
def rackPublish (s : State) (c : Nat) : State :=
  match s.rackJob c with
  | some j => if (s.myTrainer j).isNone then s else
    j.producers.eraseDups.foldl (fun t p => t.request .mgmt { op := opRACK, dst := p, addr := rackHorizon j, arg := rkCREDIT }) s
  | none => s

/-- DROPPED for a position to every module of its trainer (R360). -/
def rackDrop (s : State) (c g : Nat) : State :=
  match s.rackJob c with
  | some j => (rackModules j g).foldl (fun t m => t.request .mgmt { op := opRACK, dst := m, addr := g, arg := rkDROPPED }) s
  | none => s

/-- The job a rack transfer belongs to: the packet names no context, so the first job its sender takes part in (log 24). -/
def rackFor (s : State) (k : Packet) : Option (Nat × RackJob) :=
  s.rck.jobs.find? fun x => if k.arg % 4 = rkCREDIT then x.2.trainers.contains k.src else x.2.producers.contains k.src

def putArrival (s : State) (c : Nat) (a : Arrival) : State :=
  s.modRack c fun j => { j with arr := a :: j.arr.filter fun x => x.g ≠ a.g }

/-- An arrival that is discarded: counted, its slot as if the sample were late (R359). -/
def rackDiscard (s : State) (c : Nat) (a : Option Nat) : State :=
  let s1 := (s.regCount rRCK_STATUS 8 8 1).bump fmRACKING 0 6 1
  match a with
  | some g => s1.putArrival c { g := g, st := 3 }
  | none => s1

/-- A racking write that cannot be made yet holds its packet at the stage, and every later one behind it (08 R300). -/
def rackHold (s : State) (c p : Nat) (k : Packet) : State := { s with rck := { s.rck with held := s.rck.held ++ [(c, p, k)] } }

/-- The bytes of an arrival have landed; its slot is full once every byte has come (R358). -/
def rackLanded (s : State) (c p : Nat) (k : Packet) (a : Arrival) (total : Option Nat) : State :=
  let off := k.arg / 2 ^ 32
  let got := (off, k.data.length) :: a.got.filter fun x => x.1 ≠ off
  let full := total.any fun n => (got.map (·.2)).sum ≥ n
  let t := s.putArrival c { g := k.addr, got := got, total := total, st := if full then 1 else 0, t := s.now }
  (if full then (t.rackTrace c k.addr 0).bump fmRACKING 0 5 1 else t).respond p k rsOK []

/-- The racking write of an arrival: bytes behind another module's address go over the fabric first; one that faults holds at the
stage, and a cause that nothing resolves holds it until its job closes (08 R291, R300; log 26). -/
def rackStore (s : State) (c p : Nat) (k : Packet) (j : RackJob) (sl : Nat) (a : Arrival) (total : Option Nat) : State :=
  let off := k.arg / 2 ^ 32
  match s.farWrite (.racking c k.addr off) c none (j.recv + sl * j.slotBytes + off) k.data with
  | .error (va, e) =>
    let w : WaitF := {
      wid := 0, ctx := c, who := .racking c, va := va, glob := e.glob, cause := e.cause, level := e.level, pte := e.pte, access := 2, unit := 7 }
    (if finalCause e.cause then s else s.addWait w).rackHold c p k
  | .ok (false, t) => t.rackHold c p k
  | .ok (true, t) => t.rackLanded c p k a total

/-- A DATA packet lands: header check and racking write; behind a held one it waits at the stage (R358, R359, 08 R300). -/
def rackLand (s : State) (c p : Nat) (k : Packet) : State :=
  match s.rackJob c with
  | none => s.respond p k rsNOT_READY []
  | some j =>
    let g := k.addr
    let off := k.arg / 2 ^ 32
    if s.rackStopped then s.rackHold c p k
    else match s.rackSlot j g with
    | none => (if off = 0 then s.rackDiscard c none else s).respond p k rsOK []
    | some sl =>
      let a0 := (j.arr.find? fun x => x.g = g).getD { g := g }
      let a := if a0.st = 3 ∧ off = 0 then { g := g } else a0
      if a.st ≠ 0 then s.respond p k rsOK []
      else
        let total := if off = 0 then some (fieldLe k.data 0x38 4) else a.total
        let bad := (off = 0 && (fieldLe k.data 0 8 ≠ rackSample j g || total = some 0 || total.any (· > j.slotBytes)))
          || off + k.data.length > j.slotBytes
        if bad then (s.rackDiscard c (some g)).respond p k rsOK [] else s.rackStore c p k j sl a total

/-- The held racking writes are tried again, in order; with none left the stage returns its credits (08 R300). -/
def rackAgain (s : State) : State :=
  let s0 : State := { s with rck := { s.rck with held := [] } }
  (s.rck.held.foldl (fun t h => t.rackLand h.1 h.2.1 h.2.2) s0).freeKept

/-- What held the first racking write of a context may have been resolved. -/
def rackRetry (s : State) (c : Nat) : State := if s.rck.held.head?.any (·.1 = c) then s.rackAgain else s

/-- A context's racking write neither waits for a fault nor for the fabric any longer. -/
def rackForget (s : State) (c : Nat) : State := { s with mmu := {
  s.mmu with
  waits := s.mmu.waits.filter fun w => !(w.who = .racking c)
  far := s.mmu.far.filter fun x => match x.who with
    | .racking d _ _ => d ≠ c
    | _ => true } }

/-- The window ends: the cursor moves on, its slots pass on, the horizon is republished; what the stage holds of the window is discarded
(R359, R361). -/
def rackWindow (s : State) (c : Nat) : State :=
  let s1 := (s.modRack c fun j =>
    let cur := j.cursor + rackB j
    { j with cursor := cur, arr := j.arr.filter fun a => a.g ≥ cur }).rackPublish c
  if s.rck.held.any (·.1 = c) then (s1.rackForget c).rackAgain else s1

/-- A rack transfer of a kind reaches the engine (R356, R359, R360; 11 Table 11.10). -/
def rackPacket (s : State) (k : Packet) (kind : Nat) : State :=
  let (p, s1) := s.fromInbox k
  if k.op ≠ opRACK || k.rsp || k.arg % 4 ≠ kind then s
  else if !(s.devState = stREADY || s.devState = stRUNNING) then s1.respond p k rsNOT_READY []
  else match s1.rackFor k with
  | none => s1.respond p k rsNOT_READY []
  | some (c, j) =>
    if kind = rkDATA then s1.rackLand c p k
    else if kind = rkCREDIT then (s1.modRack c fun j => { j with horizons := natPut j.horizons k.src k.addr }).respond p k rsOK []
    else match s1.rackSlot j k.addr with
    | none => s1.respond p k rsOK []
    | some _ =>
      let a := (j.arr.find? fun x => x.g = k.addr).getD { g := k.addr }
      let s2 := if a.st = 0 ∨ a.st = 3 then (s1.putArrival c { g := k.addr, st := 2, t := s.now }).rackTrace c k.addr 1 else s1
      s2.respond p k rsOK []

/-- A finished sample goes whole to every module of its trainer, in packets of at most 4 KiB in ascending offset (R358;
11 R403). -/
def rackSend (s : State) (c g : Nat) : State :=
  match s.rackJob c, s.rck.stage.find? fun x => x.ctx = c && x.g = g && !x.sent with
  | some j, some x =>
    let n := cdiv x.bytes.length 4096
    let ms := rackModules j g
    let upd (y : Staged) : Staged := if y.ctx = c ∧ y.g = g then { y with sent := true, waits := n * ms.length } else y
    let s1 := { s with rck := { s.rck with stage := s.rck.stage.map upd } }
    let s2 := ms.foldl (fun t m => (List.range n).foldl (fun u i =>
      u.request (.rack c g) { op := opRACK, dst := m, addr := g, arg := 4096 * i * 2 ^ 32, data := (x.bytes.drop (4096 * i)).take 4096 }) t) s1
    (s2.bump fmRACKING 0 4 1).bump fmPRESS (9 * x.cluster + 8) 0 1
  | _, _ => s

/-- A copy's packet has been acknowledged; the last one frees the reservation (R358). -/
def rackAck (s : State) (c g : Nat) : State :=
  let st := s.rck.stage.map fun x => if x.ctx = c ∧ x.g = g ∧ x.sent then { x with waits := x.waits - 1 } else x
  { s with rck := { s.rck with stage := st.filter fun x => !(x.ctx = c && x.g = g && x.sent && x.waits = 0) } }

/-- Close the rack job of a context: the ring and samples in flight go (Table 10.4). -/
def rackEnd (s : State) (c : Nat) : State :=
  let s1 := (s.setRack c none).rackForget c
  { s1 with
    rck := { s1.rck with stage := s1.rck.stage.filter fun x => x.ctx ≠ c }
    prs := { s1.prs with samples := s1.prs.samples.filter fun x => x.ctx ≠ c } }.rackAgain

/-- The sample ledger holds a final record (R375). -/
def anyFinal (s : State) (c : Nat) : Bool :=
  (List.range 1024).any fun i => s.hbmLe (s.ledgerOf c + 0x50000 + 256 * i + 0x20) 4 % 2 = 1

/-- Open a sample-ledger record (R375). -/
def openRecord (s : State) (c step cursor b : Nat) (short : Bool) : State :=
  s.hbmWrite (s.sampleRec c step)
    (leBytes 8 step ++ leBytes 8 cursor ++ leBytes 8 b ++ List.replicate 8 0#8 ++ leBytes 4 (if short then 2 else 0) ++ List.replicate 220 0#8)

/-- A page is mapped writable (R354). -/
def pageWritable (s : State) (c va : Nat) : Bool := (s.xlat c none va .wr).isOk

/-- The rack job that a record describes (Table 10.4). -/
def rackJobOf (s : State) (c : Nat) (bs : List Byte) : RackJob :=
  let f := fieldLe bs
  { key := f 0 8, n := f 8 6, micro := f 0x18 2, fanout := f 0x1E 1, policy := f 0x1F 1 % 4, lookahead := f 0x20 1
    deadline := f 0x24 4, recv := f 0x28 8, slotBytes := f 0x30 4, trainers := (s.readGroup c (f 0x1A 2)).1.members.map (·.1)
    producers := (s.readGroup c (f 0x1C 2)).1.members.map (·.1), cursor := f 0x10 8 }

/-- The conditions of R354 that a record breaks, and their numbers as details (log 24). -/
def rackBad (s : State) (c : Nat) (bs : List Byte) (pressMax : Nat) : List (Bool × Nat) :=
  let f := fieldLe bs
  let j := s.rackJobOf c bs
  let g (x : Nat) : Bool := 1 ≤ x && x ≤ 1024
  let ring := (j.lookahead + 1) * j.micro * j.slotBytes
  [(anyByte bs 0x21 3 || anyByte bs 0x34 76 || f 0xE 2 ≠ 0 || f 0x1F 1 ≥ 4 || j.micro = 0 || j.micro > 512 || !g (f 0x1A 2)
      || !g (f 0x1C 2) || !List.contains [1, 2, 4, 8] j.fanout || j.lookahead = 0 || j.lookahead > 8 || j.slotBytes % 4096 ≠ 0
      || j.slotBytes = 0, 1),
    (j.n = 0, 2), (j.policy = 3, 3), (j.policy = 2 && j.deadline = 0, 4),
    ((s.readGroup c (f 0x1A 2)).2 % 2 = 0 || (s.readGroup c (f 0x1C 2)).2 % 2 = 0 || j.trainers.isEmpty || j.producers.isEmpty
      || j.trainers.length % j.fanout ≠ 0, 5),
    ((s.fab.num.any fun m => j.producers.contains m) && pressMax > j.slotBytes, 6),
    ((List.range (ring / 65536 + 2)).any fun i => (j.recv / 65536 + i) * 65536 < j.recv + ring
      && !s.pageWritable c ((j.recv / 65536 + i) * 65536), 7),
    (!s.anyFinal c && j.cursor % rackB j ≠ 0, 8)]

/-- The first position from one on whose producer, member position mod P of PGROUP, this module is; a module may stand at several members
(R351, R353; 12 R420). -/
def nextProduced (s : State) (j : RackJob) (g : Nat) : Nat :=
  let p := j.producers.length
  (((List.range p).find? fun i => (j.producers[(g + i) % p]?).any fun m => some m = s.fab.num).map (g + ·)).getD g

/-- A rack job opens: its sample record, unless one is final, its cursor, its first position as a producer, and its horizon (R351, R354,
R356, R375). -/
def rackStart (s : State) (c : Nat) (j : RackJob) : State :=
  let s1 := if s.anyFinal c then s else s.openRecord c (s.stepHdr c).step j.cursor (rackB j) (j.policy = 2)
  let cur := ((s1.openSample c).map fun a => s1.hbmLe (a + 8) 8).getD j.cursor
  (((s1.setRack c (some { j with cursor := cur, next := s1.nextProduced j cur })).modCtx c fun x =>
    { x with tgroup := (j.fanout, j.trainers) }).rackPublish c).activity

/-- Open the rack job from its record (R354). -/
def rackOpenAt (s : State) (c pressMax : Nat) (bs : List Byte) : State × Ans :=
  match (s.rackBad c bs pressMax).find? (·.1) with
  | some (_, d) => (s, { status := cREFUSED, detail := d })
  | none => (s.rackStart c (s.rackJobOf c bs), { status := cOK })

/-! RACK (R362 to R364) -/

/-- Leading slots of a RACK that are copied: DONE of its mover (R363; 08 R296). -/
def rackLead (k : RackOp) : Nat := ((List.range k.count).takeWhile fun n => k.copied.contains (k.first + n)).length

/-- One slot of a RACK is copied: the ledger's bit, the slot's trace, and DONE (R363, R366; 08 R296). -/
def rackFinish (s : State) (r uid c m g st : Nat) : State :=
  let t1 := match s.openSample c with
    | some a => if st = 2 then s else
      let b := a + (if st = 0 then 0x40 else 0x80) + m / 8
      s.hbmSet b 1 (s.hbmLe b 1 ||| 2 ^ (m % 8))
    | none => s
  let size := ((s.rackJob c).map (·.slotBytes)).getD 0
  (t1.modInfl r uid fun i => match i.rack with
    | some k =>
      let k' := { k with copied := m :: k.copied, cur := none }
      { i with
        rack := some k', ready := decide (k'.copied.length ≥ k.count)
        mv := i.mv.map fun x => { x with done := rackLead k', doneBytes := rackLead k' * size } }
    | none => i).rackTrace c g st

/-- Bytes of a RACK's destination: stored where they lie here, asked of the fabric elsewhere (08 R284). -/
def rackPut (s : State) (r uid c : Nat) (glob : Bool) (va : Nat) (bs : List Byte) : Except (Nat × XErr) State :=
  (s.spanLocs c r glob va bs.length .wr).map fun ls =>
    let near := (ls.foldl (fun (a : State × List Byte) (x, l, k) => (match l with
      | .glob _ => a.1
      | _ => a.1.moverStore r uid x l (a.2.take k) [], a.2.drop k)) (s, bs)).1
    let far := farPieces ls
    let t := near.modInfl r uid fun i => { i with mv := i.mv.map fun m => { m with asked := m.asked ++ far.map (·.1) } }
    far.foldl (fun u (g, n) => u.request (.moverWr r uid g) {
      op := opWRITE, dst := g / 2 ^ 44 % 2 ^ 18, addr := g, arg := n, data := farData ls bs g }) t

/-- What a slot of a RACK gives its word: 0 full, 1 dropped, 2 late; none while it is still empty (R363, R364). -/
def rackWord (j : RackJob) (k : RackOp) (g m : Nat) : Option Nat :=
  if k.late.contains m then some 2
  else match ((j.arr.find? fun a => a.g = g).map (·.st)).getD 0 with
    | 1 => some 0
    | 2 => some 1
    | _ => none

/-- Global position of a micro-batch slot of the current window on this trainer (R350). -/
def rackPos (s : State) (j : RackJob) (m : Nat) : Nat := j.cursor + (s.myTrainer j).getD 0 * j.micro + m

/-- Copy one slot and its word; the unit is complete once every remote write is acknowledged (R363; 08 R296). -/
def rackUnit (s : State) (r uid c : Nat) (j : RackJob) (i : Infl) (d : Desc) (k : RackOp) (mv : Mover) (m st : Nat) :
    State :=
  let g := s.rackPos j m
  let rd := if st = 0 then s.farRead (.ring r uid) c none (j.recv + (s.rackSlot j g).getD 0 * j.slotBytes) j.slotBytes
    else .ok (some [], s)
  match rd with
  | .error e => s.moverFault r i mv .rd e
  | .ok (none, t) => t
  | .ok (some bs, t) =>
    let put := (t.rackPut r uid c d.global (d.base + (m - k.first) * j.slotBytes) bs).bind fun u =>
      u.rackPut r uid c d.global (d.base + k.count * j.slotBytes + 16 * (m - k.first)) (leBytes 8 st ++ leBytes 8 g)
    match put with
    | .error e => s.moverFault r i mv .wr e
    | .ok u =>
      if ((u.findInfl r uid).bind (·.mv)).all fun x => x.asked.isEmpty then u.rackFinish r uid c m g st
      else u.modInfl r uid fun x => { x with rack := some { k with cur := some (m, g, st) } }

/-- Copy the first full, dropped or late slot not yet copied (R363). -/
def rackCopyNext (s : State) (r uid : Nat) : State :=
  match s.findInfl r uid, (s.room r).lease with
  | some i, some (c, _) =>
    match s.rackJob c, i.rack, i.mv, i.descs with
    | some j, some k, some mv, d :: _ =>
      if mv.paused || mv.wait.isSome || !mv.asked.isEmpty then s
      else
        let next := ((List.range k.count).map (k.first + ·)).findSome? fun m =>
          if k.copied.contains m then none else (rackWord j k (s.rackPos j m) m).map fun st => (m, st)
        match next with
        | none => s
        | some (m, st) => s.rackUnit r uid c j i d k mv m st
    | _, _, _, _ => s
  | _, _ => s

/-- A RACK of a context waits for a slot. -/
def rackStarved (s : State) (c : Nat) (i : Infl) : Bool :=
  match s.rackJob c, i.rack with
  | some j, some k => ((List.range k.count).map (k.first + ·)).any fun m => !k.copied.contains m && (rackWord j k (s.rackPos j m) m).isNone
  | _, _ => false
/-- Some RACK waits for a slot, in a room or in a saved image (Table 10.5, STARVED). -/
def anyStarved (s : State) : Bool :=
  ((List.range 72).any fun r => match (s.room r).lease with
    | some (c, _) => (s.room r).infl.any (s.rackStarved c)
    | none => false)
  || (List.range 16).any fun c => (s.ctx c).any fun x => x.saved.any fun v => v.2.1.infl.any (s.rackStarved c)

/-- The write of a slot's bytes has been acknowledged; with the last one the slot is copied (R363; 08 R296). -/
def rackWritten (s : State) (r uid : Nat) : State :=
  match s.findInfl r uid, (s.room r).lease with
  | some i, some (c, _) =>
    match i.rack.bind (·.cur), i.mv with
    | some (m, g, st), some mv => if mv.asked.isEmpty then s.rackFinish r uid c m g st else s
    | _, _ => s
  | _, _ => s

/-- Slots of a RACK that are not copied and were empty at its deadline, those that have come since among them (R364, R367). -/
def rackEmpty (s : State) (j : RackJob) (k : RackOp) : List Nat :=
  ((List.range k.count).map (k.first + ·)).filter fun m =>
    !k.copied.contains m && !k.late.contains m
      && !(j.arr.any fun a => a.g = s.rackPos j m && (a.st = 1 || a.st = 2) && a.t ≤ k.t + 1000 * j.deadline)

/-- The deadline of a RACK passes: the policy acts on the slots still empty (R364). -/
def rackDeadline (s : State) (r uid : Nat) : State :=
  match s.findInfl r uid, (s.room r).lease with
  | some i, some (c, _) =>
    match s.rackJob c, i.rack with
    | some j, some k =>
      let empty := s.rackEmpty j k
      if j.deadline = 0 ∨ s.now < k.t + 1000 * j.deadline ∨ empty.isEmpty then s
      else
        let s1 := s.regCount rRCK_STATUS 24 8 1
        if j.policy = 0 then s1.roomFault r i.pc .rackDeadline
        else
          let s2 := s1.modInfl r uid fun x => { x with rack := some { k with late := k.late ++ empty } }
          let s3 := (List.range k.count).foldl (fun t _ => t.rackCopyNext r uid) s2
          if j.policy = 1 then s3.modCtx c fun x => { x with deadline := true } else s3
    | _, _ => s
  | _, _ => s

/-- A slot of a RACK is copied; a deadline that has passed, as while the context was out, acts first (R363, R367). -/
def rackCopy (s : State) (r uid : Nat) : State :=
  let due := match s.findInfl r uid, (s.room r).lease with
    | some i, some (c, _) => match s.rackJob c, i.rack with
      | some j, some k => j.deadline ≠ 0 && decide (k.t + 1000 * j.deadline ≤ s.now) && !(s.rackEmpty j k).isEmpty
      | _, _ => false
    | _, _ => false
  if due then s.rackDeadline r uid else s.rackCopyNext r uid

end State

/-- The checks of a RACK against its job and the open sample record, at `sr` (10 R362; 07 R257). -/
def rackChecks (t : State) (a : At) (w : TWord) (j : RackJob) (sr : Nat) : List (Bool × FaultCode) :=
  let d := t.latch a w.b.toNat
  let n := w.c.toNat % 65536
  [((t.sreg a.room w.a).toNat ≠ t.hbmLe sr 8 || (t.myTrainer j).isNone, .operand), descCheck d,
    (n = 0 || w.c.toNat / 65536 + n > j.micro || d.fmt ≠ fmtBytes || d.dim0 * d.dim1 < n * j.slotBytes, .descriptor)]

/-- A RACK in flight: COUNT slots from FIRST on, none copied yet (10 R363). -/
def rackInfl (t : State) (a : At) (w : TWord) (j : RackJob) : Infl :=
  let d := t.latch a w.b.toNat
  let n := w.c.toNat % 65536
  let raw := rawDesc t a.room a.uid w.b.toNat
  { Infl.mk0 with
    descs := [d], mv := some { unit := 4, units := List.replicate n [], raw := raw, check := moverCheck 0x61#8 w raw }
    rack := some { first := w.c.toNat / 65536, count := n, t := t.now }
    writes := if d.global then [] else [(d.base, n * (j.slotBytes + 16))] }

def effRack (r : Nat) (w : TWord) (s : State) : State :=
  s.issue r 0x61#8 w fun a t =>
    checked [(!okTok w || !zeroSel w || !zeroMod w || !okS w.a, .operand), (!okD w.b, .descriptor),
      (t.reshardOn a.c, .reshardPending)] fun _ =>
      match t.rackJob a.c, t.openSample a.c with
      | some j, some sr => checked (rackChecks t a w j sr) fun _ => .ok (t.pending1 a 0x61 w (rackInfl t a w j))
      | _, _ => .fault .operand

/-- A press job's maximum sample size, 0 without one (09 R324). -/
def State.pressMax (s : State) (c : Nat) : Nat := ((mapGet s.prs.jobs c).map (·.maxSize)).getD 0

/-- RACK_OPEN of a context, as it begins and as its record comes. -/
def State.rackOpenRun (t : State) (q : Req) : State × Option Ans :=
  if (t.ctx (q.arg 0)).isNone then (t, some { status := cNO_CONTEXT })
  else if (t.rackJob (q.arg 0)).isSome then (t, some { status := cBUSY })
  else t.openWith q (q.arg 0) (q.arg 1) fun u bs => u.rackOpenAt (q.arg 0) (u.pressMax (q.arg 0)) bs

def effRackOpen (q : Req) (s : State) : State := s.cmdWait q 6 2 false fun t => t.rackOpenRun q

def effRackClose (q : Req) (s : State) : State :=
  s.cmd q 7 1 false fun t => t.onCtx q fun _ =>
    if (t.rackJob (q.arg 0)).isNone then (t, { status := cSTATE }) else ((t.rackEnd (q.arg 0)).activity, { status := cOK })

/-! Meanings -/

def execTRack (r : Nat) (w : TWord) (s : State) := run [bRoom r, bRCK] s (effRack r w s)
def execRackSlotCopy (r uid : Nat) (s : State) := run [bRoom r, bRCK] s (s.live (s.rackCopy r uid))
def execRackDeadlineExpiry (r uid : Nat) (s : State) := run [bRoom r, bRCK] s (s.live (s.rackDeadline r uid))
def execRackData (k : Packet) (s : State) := run [bFAB, bRCK] s (s.rackPacket k rkDATA)
def execRackCredit (k : Packet) (s : State) := run [bFAB, bRCK] s (s.rackPacket k rkCREDIT)
def execRackDropped (k : Packet) (s : State) := run [bFAB, bRCK] s (s.rackPacket k rkDROPPED)
def execRackSend (c : Nat) (g : W64) (s : State) := run [bRCK] s (s.live (s.rackSend c g.toNat))
def execRackOpen (q : Req) (s : State) := run [bSTW, bRCK] s (effRackOpen q s)
def execRackClose (q : Req) (s : State) := run [bSTW, bRCK] s (effRackClose q s)

end Sys2Proof.Machine
end

