-- ==== Sys2Proof/Machine/Press.lean ====
section
/-! DEFINITION. The media press: jobs, admission, the units' buffers and credits, samples and drops, the limiter (09). What
the outside standards find in a clip's bytes is the decoders of Config (log 11). -/

namespace Sys2Proof.Machine

/-! Job records (Table 9.6) -/

/-- Geometry of a job's video section (R334): element bytes, elements per token, tokens per frame group, groups. -/
structure PGeom where
  w : Nat
  dim0 : Nat
  perGroup : Nat
  groups : Nat
  nb : Nat
  tpr : Nat
  scaled : Bool

def pGeom (r : List Byte) : PGeom :=
  let f := fieldLe r
  let c := if f 0x2D 1 = 2 then 1 else 3
  let pt := max 1 (f 0x34 1)
  let ph := max 1 (f 0x35 1)
  let pw := max 1 (f 0x36 1)
  let dim0 := pt * ph * pw * c
  let bs := 16 * 2 ^ (f 0x38 1 % 4)
  let sc := f 0x37 1 ≠ fmtG16
  let nb := cdiv dim0 bs
  { w := if f 0x37 1 = fmtN8 then 1 else 2, dim0 := if sc then nb * bs else dim0, perGroup := f 0x32 2 / ph * (f 0x30 2 / pw)
    groups := f 0x18 2 / pt, nb := nb, tpr := cdiv nb (2 ^ (f 0x38 1 / 4 % 8)), scaled := sc }

def PGeom.video (g : PGeom) : Nat := g.groups * g.perGroup * g.dim0 * g.w
def PGeom.sc8 (g : PGeom) : Nat := if g.scaled then g.groups * g.perGroup * g.nb else 0
def PGeom.ts32 (g : PGeom) : Nat := if g.scaled then g.groups * g.perGroup * g.tpr * 4 else 0
/-- Bytes of a sample block (R334). -/
def PGeom.block (g : PGeom) : Nat := g.perGroup * (g.dim0 * g.w + if g.scaled then g.nb + 4 * g.tpr else 0)

/-- Maximum sample size (R324). -/
def pressMaxSize (r : List Byte) : Nat :=
  let g := pGeom r
  64 + g.video + g.sc8 + g.ts32 + (if fieldLe r 0x39 1 % 4 = 0 then 0 else Config.audioMax r) + 65536

/-- The first failed condition of R324, numbered in its order (log 24). -/
def pressBad (r : List Byte) : Option Nat :=
  let f := fieldLe r
  let out (x lo hi : Nat) : Bool := x < lo || hi < x
  let t := f 0x3C 4
  let cap := f 0x3A 2 / 16
  let cs : List (Bool × Nat) := [
    (f 0xD 1 ≥ 4 || f 0x1B 1 ≥ 8 || anyByte r 0x1C 4 || anyByte r 0x2E 2 || anyByte r 0x58 40 || f 8 4 = 0 || out (f 0xC 1) 1 15
      || out (f 0x18 2) 1 1024 || out (f 0x1A 1) 1 64 || f 0x2C 1 > 2 || f 0x2D 1 > 2 || out (f 0x34 1) 1 16 || out (f 0x35 1) 1 64
      || out (f 0x36 1) 1 64 || f 0x38 1 ≥ 64 || f 0x39 1 % 4 = 3
      || (match f 0x3A 2 % 16 with
        | 0 => false
        | 1 => out cap 1 4
        | 2 => out cap 1 63
        | 3 => out cap 0x100 0x8FF
        | 4 => out cap 0 15
        | _ => true), 1),
    (f 0xD 1 % 4 = 3, 2),
    (f 0x30 2 % f 0x36 1 ≠ 0 || f 0x32 2 % f 0x35 1 ≠ 0 || f 0x18 2 % f 0x34 1 ≠ 0, 3),
    (!List.contains [fmtN8, fmtA16, fmtG16] (f 0x37 1), 4),
    (f 0x38 1 / 4 % 8 = 7, 5),
    (f 0x38 1 / 32 % 2 = 0 && (t ≥ 2 ^ 31 || t / 2 ^ 23 = 0 || t / 2 ^ 23 = 255), 6),
    ((pGeom r).block > 4 * 2 ^ 20, 7),
    (pressMaxSize r > 64 * 2 ^ 20, 8)]
  (cs.find? (·.1)).map (·.2)

/-- A stream ends on its core when its last output picture has been read: core and DPB reservation are free (Table 9.4, R328). -/
def Sample.streamEnd (x : Sample) (want : Nat) : Sample :=
  if want ≤ x.frames then { x with core := none, dpb := none, auQ := [] } else x

/-- Decoded pictures move from the DPB into the output queue, which holds 4 (Table 9.4). -/
def Sample.moveOut (x : Sample) : Sample :=
  let k := 4 - x.outQ.length
  { x with outQ := x.outQ ++ x.ready.take k, ready := x.ready.drop k }

/-- Decoding stops after the last output frame (R328). -/
def Sample.stopAt (x : Sample) (want : Nat) : Sample := if want ≤ x.pics then { x with auQ := [] } else x

/-- What a read of a table gives: its value, the range to ask another module for first, or nothing. -/
inductive Got (α : Type) where
  | val (a : α)
  | ask (va n : Nat)
  | bad
  deriving DecidableEq, Repr

/-- Go on from a read. -/
def Got.bind {α β : Type} (x : Got α) (f : α → Got β) : Got β :=
  match x with
  | .val a => f a
  | .ask va n => .ask va n
  | .bad => .bad

/-- A decoded picture takes its place in display order: lead-in, output frame, or neither; `f0` is the display frame of output frame 0. In
field mode each field of a picture with two fields is its own display frame. A failed picture is replaced by the last output frame, or by
mid-grey. The count adds the failed pictures (R325, R326, R328, R339; log 11). -/
def showPic (r : List Byte) (f0 chunks : Nat) (acc : Sample × Nat) (p : PicOut × Nat) : Sample × Nat :=
  let want := fieldLe r 0x18 2
  let x := acc.1
  if p.1.undecodable || want ≤ x.pics then acc
  else
    let fails := acc.2 + if p.1.failed then 1 else 0
    if p.1.leading && x.startFrame ≠ 0 then ({ x with decoded := x.decoded + 1, lead := x.lead + 1 }, fails)
    else
      let fields := if (fieldLe r 0x1B 1).testBit 0 && p.1.interlaced then [1, 2] else [0]
      let before := x.startFrame + x.disp < f0
      let y := fields.foldl (fun y f =>
        let d := y.startFrame + y.disp
        let y := { y with disp := y.disp + 1 }
        if want ≤ y.pics || d ≠ f0 + y.pics * fieldLe r 0x1A 1 then y
        else
          let pic : Pic := if p.1.failed then y.last.getD { chunks := chunks, au := y.auNo, n := p.2, grey := true }
            else { chunks := chunks, au := y.auNo, n := p.2, field := f }
          { y with pics := y.pics + 1, ready := y.ready ++ [pic], last := some pic }) x
      let done := before || y.pics ≠ x.pics || !p.1.unreferenced
      ({ y with decoded := y.decoded + (if done then 1 else 0), lead := y.lead + if before then 1 else 0 }, fails)

namespace State

def modPrs (s : State) (f : Prs → Prs) : State := { s with prs := f s.prs }
def pressJob (s : State) (c : Nat) : Option PressJob := mapGet s.prs.jobs c
def sample (s : State) (c id : Nat) : Option Sample := s.prs.samples.find? fun x => x.ctx = c && x.id = id
def putSample (s : State) (x : Sample) : State :=
  s.modPrs fun p => { p with samples := p.samples.map fun y => if y.id = x.id then x else y }
def modSample (s : State) (id : Nat) (f : Sample → Sample) : State :=
  s.modPrs fun p => { p with samples := p.samples.map fun y => if y.id = id then f y else y }
def jobRec (s : State) (c : Nat) : List Byte := ((s.pressJob c).map (·.rec')).getD []

/-- Granules of a wing's DPB pool, and those reserved (R310, R318). -/
def dpbPool (s : State) : Nat := (s.prs.size - 3) * 8192
def dpbUsed (s : State) (wing : Nat) : Nat :=
  (s.prs.samples.map fun x => if x.cluster / 4 = wing then x.dpb.getD 0 else 0).sum

/-- Video core n is fenced (15 R519). -/
def coreFenced (s : State) (n : Nat) : Bool := ((s.reg rPRS_FENCED).toNat + (s.reg (rPRS_FENCED + 4)).toNat * 2 ^ 32).testBit n

/-- A stage of a cluster has completed a unit (17 Table 17.2, family 7; stages of Table 9.5). -/
def unitDone (s : State) (x : Sample) (stage : Nat) : State := s.bump fmPRESS (9 * x.cluster + stage) 0 1

/-- What a unit that was cut after `n` chunks works from (R331); the bytes below the sample's first chunk are the clip's first (R327). -/
def pressIn (s : State) (x : Sample) (n : Nat) : PressIn :=
  let join (l : List (Nat × List Byte)) : List Byte := (l.mergeSort fun a b => a.1 ≤ b.1).flatMap (·.2)
  { job := s.jobRec x.ctx, entry := x.entry
    head := join (x.src.filter fun b => b.1 < x.start)
    bytes := join (x.src.filter fun b => x.start ≤ b.1 && decide (b.1 < x.start + 65536 * n))
    lost := x.lost.filter (· < n) }

/-- Display frame of a sample's output frame 0 (R325). -/
def outFrame0 (x : Sample) : Nat := fieldLe x.entry 0x24 4 + (x.idx - fieldLe x.entry 0x18 6) * fieldLe x.entry 0x28 4

/-- Another sample of the context is at work on the statistics record. -/
def statBusy (s : State) (c id : Nat) : Bool := s.mmu.far.any fun x => match x.who with
  | .stat d n _ => d = c && n ≠ id
  | _ => false

/-- A sample's 22 counts enter the job's statistics record; parts behind another module's address are read and written there (R341, R342;
08 R284), while other samples of the job wait: true once they are in. -/
def pressStats (s : State) (c id : Nat) (cs : List Nat) : Except (Nat × XErr) (Bool × State) :=
  let base := fieldLe (s.jobRec c) 0x10 8
  (s.vaSpan c none base 0xB0 .wr).map fun ls =>
    if s.statBusy c id then (false, s)
    else if !s.farReady (.stat c id false) ls then (false, s.farAsk (.stat c id false) (farPieces ls) none)
    else
      let old := s.farBytes (.stat c id false) ls
      let bs := cs.zipIdx.flatMap fun (n, k) => leBytes 8 (fieldLe old (8 * k) 8 + n)
      if s.farReady (.stat c id true) ls then (true, ((s.farDrop (.stat c id false)).farDrop (.stat c id true)).spread ls bs)
      else (false, s.farAsk (.stat c id true) (farPieces ls) (some (farData ls bs)))

/-- A sample leaves the press: its counts enter the statistics record; a write that faults or crosses the fabric holds it (R340 to R342; 08
R291, R300), for good when nothing resolves its cause (log 26). A drop is reported to the racking engine and posts PRESS_STREAM_ERROR. -/
def pressFinish (s : State) (x : Sample) (drop : Bool) (clipDrop : Bool) : State :=
  let one (b : Bool) : Nat := if b then 1 else 0
  let cs := ((List.range 14).map fun n => (x.reasons.filter (· = n)).length)
    ++ [one !drop, one drop, one clipDrop, x.decoded, x.lead, x.concealed, x.spans, x.omitted]
  match s.pressStats x.ctx x.id cs with
  | .error (va, e) =>
    let w : WaitF := {
      wid := 0, ctx := x.ctx, who := .press x.ctx, va := va, glob := e.glob, cause := e.cause, level := e.level, pte := e.pte, access := 2
      unit := 6 }
    (if finalCause e.cause || s.mmu.waits.any fun y => y.who = .press x.ctx then s else s.addWait w).putSample {
      x with held := some (drop, clipDrop) }
  | .ok (false, t) => t.putSample { x with held := some (drop, clipDrop) }
  | .ok (true, t) =>
    let t1 := t.modPrs fun p =>
      { p with samples := p.samples.filter fun y => y.id ≠ x.id, dpbQ := p.dpbQ.map fun q => q.filter fun y => y.1 ≠ x.id }
    if drop then (t1.rackDrop x.ctx x.g).postEvent x.ctx evPRESS else t1

/-- Place a clip on the job's bad-clip list, at most 4,096 (R339). -/
def listClip (s : State) (c clip : Nat) : State × Bool :=
  match s.pressJob c with
  | some j =>
    if j.bad.contains clip || j.bad.length ≥ 4096 then (s, false)
    else (s.modPrs fun p => { p with jobs := mapSet p.jobs c (some { j with bad := clip :: j.bad }) }, true)
  | none => (s, false)

/-- A problem of a sample under the job's policy (R339, Table 9.10); under CONCEAL the units it spoils are concealed as they come. -/
def pressProblem (s : State) (c id code : Nat) : State :=
  match s.sample c id with
  | none => s
  | some x0 =>
    let x := { x0 with reasons := code :: x0.reasons }
    let s0 := ((s.trace isHub 0 tyPRESS (some c) (leBytes 1 code ++ leBytes 7 0 ++ leBytes 8 x.idx)).lifeAdd lfDecode code 1).putSample x
    let drop (t : State) (clip : Bool) : State :=
      let (t1, d) := if clip then t.listClip c x.clip else (t, false)
      t1.pressFinish x true d
    let pol := fieldLe (s.jobRec c) 0xD 1 % 4
    if code = 10 then s0.putSample { x with capLoss := true, omitted := x.omitted + 1 }
    else if code = 11 then drop s0 true
    else if code ≥ 12 then drop s0 false
    else if pol = 0 then s0
    else drop s0 (pol = 2)

/-- A sample has `n` failed pictures replaced, or sound replaced by silence: CONCEALED and the event, and a drop above CONCEAL_MAX (R339,
R340). -/
def pressConceal (s : State) (c id n : Nat) : State :=
  match s.sample c id with
  | none => s
  | some x =>
    let y := { x with concealed := x.concealed + n, flagConceal := true }
    let s1 := (s.putSample y).postEvent c evPRESS
    if y.concealed > fieldLe (s.jobRec c) 0xE 2 then s1.pressFinish y true false else s1

/-- Bytes of a clip table or random-access index, which may lie on another module (R323, R341; 08 R284). -/
def clipRead (s : State) (c va n : Nat) : Got (List Byte) :=
  match s.vaSpan c none va n .rd with
  | .error _ => .bad
  | .ok ls =>
    if !s.farReady (.clip c va) ls then .ask va n
    else
      let bs := s.farBytes (.clip c va) ls
      if bs.length = n then .val bs else .bad

/-- Entry n of the clip table. -/
def clipEntry (s : State) (c n : Nat) : Got (List Byte) := s.clipRead c (fieldLe (s.jobRec c) 0 8 + 64 * n) 64

/-- The last entry of a sorted table whose key does not exceed x: `key n` reads entry n. -/
def lastLe (key : Nat → Got Nat) (x : Nat) : Nat → Nat → Nat → Got (Option Nat)
  | 0, lo, _ => .val (some lo)
  | f + 1, lo, n =>
    if n ≤ 1 then (key lo).bind fun k => .val (if k ≤ x then some lo else none)
    else (key (lo + n / 2)).bind fun k => if k ≤ x then lastLe key x f (lo + n / 2) (n - n / 2) else lastLe key x f lo (n / 2)

/-- The clip of a sample index: its number and entry, none in no clip (R323, R325). -/
def findClip (s : State) (c i : Nat) : Got (Option (Nat × List Byte)) :=
  (lastLe (fun k => (s.clipEntry c k).bind fun b => .val (fieldLe b 0x18 6)) i 33 0 (fieldLe (s.jobRec c) 8 4)).bind fun k =>
    match k with
    | none => .val none
    | some k => (s.clipEntry c k).bind fun b => .val (if i < fieldLe b 0x18 6 + fieldLe b 0x20 4 then some (k, b) else none)

/-- First source byte of a sample and the display frame there: the random-access picture at or before its first output frame, the clip's
first byte without one (R328). -/
def startByte (s : State) (c : Nat) (e : List Byte) (i : Nat) : Got (Nat × Nat) :=
  let frame := fieldLe e 0x24 4 + (i - fieldLe e 0x18 6) * fieldLe e 0x28 4
  let rap (k : Nat) : Got (List Byte) := s.clipRead c (fieldLe e 0x10 8 + 16 * k) 16
  if fieldLe e 0x10 8 = 0 ∨ fieldLe e 0x2C 4 = 0 then .val (0, 0)
  else (lastLe (fun k => (rap k).bind fun b => .val (fieldLe b 0 4)) frame 33 0 (fieldLe e 0x2C 4)).bind fun k => match k with
    | none => .val (0, 0)
    | some k => (rap k).bind fun b => .val (fieldLe b 8 8, fieldLe b 0 4)

/-- Forget what was read of the clip tables and indexes for a context. -/
def clipForget (s : State) (c : Nat) : State := s.modFar fun l => l.filter fun x => match x.who with
  | .clip d _ => d ≠ c
  | _ => true

/-- Ask another module for a part of a clip table or random-access index. -/
def clipAsk (s : State) (c va n : Nat) : State :=
  match s.vaSpan c none va n .rd with
  | .error _ => s
  | .ok ls => s.farAsk (.clip c va) (farPieces ls) none

/-- Bytes reserved in the racking stage (R316). -/
def stageUsed (s : State) : Nat :=
  (s.prs.samples.map fun x => s.pressMax x.ctx).sum + (s.rck.stage.map (·.size)).sum

/-- The next position of a job may be admitted: every module of its trainer has published a horizon above it (10 R356). -/
def underHorizon (j : RackJob) : Bool := (rackModules j j.next).all fun m => j.next < natGet j.horizons m

/-- Admission is stopped at a horizon for some job (10 Table 10.5, AHEAD). -/
def rackAhead (s : State) : Bool :=
  s.rck.jobs.any fun x => (s.fab.num.any fun m => x.2.producers.contains m) && !underHorizon x.2

/-- A job could admit: it holds a rack job as producer, below the horizon, with a reservation free. -/
def couldAdmit (s : State) (c : Nat) : Bool :=
  match s.pressJob c, s.rackJob c with
  | some p, some j => (s.fab.num.any fun m => j.producers.contains m) && underHorizon j && s.stageUsed + p.maxSize ≤ 128 * 2 ^ 20
  | _, _ => false

/-- A job has used its share of the present round (R330). -/
def pressSpent (s : State) (d : Nat) : Bool :=
  natGet s.prs.turns d ≥ ((mapGet s.prs.jobs d).map fun x => fieldLe x.rec' 0xC 1).getD 1
/-- It is the job's turn: its share is not used up, or no other job could use its own (R330). -/
def pressTurn (s : State) (c : Nat) : Bool :=
  !s.pressSpent c || !s.prs.jobs.any fun x => x.1 ≠ c && s.couldAdmit x.1 && !s.pressSpent x.1

/-- The sample at the next position of a job (10 R350, R351). -/
def pressNew (s : State) (c cl : Nat) (j : RackJob) : Sample :=
  { id := s.prs.nextId, ctx := c, g := j.next, idx := rackIndex j j.next, epoch := rackEpoch j j.next, cluster := cl, clip := 0, entry := [] }
/-- A sample enters the press: the position moves on and the job has taken one turn (R316, R330; 10 R351, R356). -/
def pressEnter (s : State) (c : Nat) (y : Sample) : State :=
  let s1 := (s.clipForget c).modRack c fun j => { j with next := s.nextProduced j (j.next + 1) }
  let turns := if s.pressSpent c then [] else s.prs.turns
  s1.modPrs fun q =>
    { q with samples := q.samples ++ [y], nextId := s.prs.nextId + 1, turns := natPut turns c (natGet turns c + 1) }

/-- PRESS_ADMIT (R316, R325, R330; 10 R351, R356); it goes on when what it asks of another module has come. -/
def pressAdmit (s : State) (c cl : Nat) : State :=
  match s.pressJob c, s.rackJob c with
  | some p, some j =>
    if cl ≥ 8 || !s.couldAdmit c || !s.pressTurn c then s
    else
      let x := s.pressNew c cl j
      match s.findClip c x.idx with
      | .bad => (s.pressEnter c x).pressProblem c x.id 9
      | .ask va n => s.clipAsk c va n
      | .val none => (s.pressEnter c x).pressProblem c x.id 12
      | .val (some (n, e)) =>
        let y := { x with clip := n, entry := e }
        if p.bad.contains n then (s.pressEnter c y).pressFinish y true false
        else match s.startByte c e x.idx with
          | .bad => (s.pressEnter c y).pressProblem c x.id 9
          | .ask va n => s.clipAsk c va n
          | .val (b, f) => s.pressEnter c { y with start := b, startFrame := f }
  | _, _ => s

/-- The places of a chunk of a clip's source: global addresses or context VAs (Table 9.7). -/
def srcSpan (s : State) (c : Nat) (glob : Bool) (a n : Nat) : Except (Nat × XErr) (List (Nat × Loc × Nat)) :=
  if glob then s.resolve a (.glob a) n .rd else s.vaSpan c none a n .rd

/-- Chunks that a cluster's fetch buffer holds or waits for (Table 9.4). -/
def chunksHeld (s : State) (cl : Nat) : Nat :=
  (s.prs.samples.map fun y => if y.cluster = cl then y.fetched - y.parsed + (if y.asked.isEmpty then 0 else 1) else 0).sum

/-- A sample has source left to fetch. -/
def Sample.toFetch (x : Sample) : Bool :=
  x.held.isNone && x.asked.isEmpty && !x.parsedAll && decide (x.start + 65536 * x.fetched < fieldLe x.entry 8 8)

/-- A chunk could not be read: reason FETCH once the demultiplexer comes to it; the units its bytes are missing from fail (R331, R339,
R341). -/
def fetchLost (s : State) (id : Nat) : State :=
  s.modSample id fun y => { y with fetched := y.fetched + 1, lost := y.fetched :: y.lost, asked := [] }

/-- The offsets and lengths of the source that a sample's next chunk takes: 64 KiB; with the first of a sample that starts at a
random-access picture, the clip's first 64 KiB, from whose time stamp the others are unwrapped (R315, R327; log 11). -/
def nextRead (x : Sample) : List (Nat × Nat) :=
  let off := x.start + 65536 * x.fetched
  (off, min 65536 (fieldLe x.entry 8 8 - off)) :: (if x.fetched = 0 ∧ x.start ≠ 0 then [(0, min 65536 x.start)] else [])

/-- The places of a sample's next read: offset in the clip, place and length. -/
def fetchSpan (s : State) (c : Nat) (x : Sample) : Except (Nat × XErr) (List (Nat × Loc × Nat)) :=
  (nextRead x).foldl (fun acc (off, n) => match acc with
    | .error e => .error e
    | .ok ls =>
      let base := fieldLe x.entry 0 8
      (s.srcSpan c (fieldLe x.entry 0x33 1 % 2 = 1) (base + off) n).map fun more => ls ++ more.map fun (a, l, k) => (a - base, l, k)) (.ok [])

/-- A fetch engine reads the next 64 KiB chunk of a sample's source (R315, R341). -/
def pressFetch (s : State) (c id : Nat) (ok : Bool) : State :=
  match s.sample c id with
  | none => s
  | some x =>
    if !Sample.toFetch x ∨ s.chunksHeld x.cluster ≥ 256 then s
    else if !ok then s.fetchLost id
    else
      match s.fetchSpan c x with
      | .error _ => s.fetchLost id
      | .ok ls =>
        let near := ls.filterMap fun (o, l, k) => match l with
          | .glob _ => none
          | _ => some (o, s.locRead l k)
        let far := ls.flatMap fun (o, l, k) => match l with
          | .glob ga => (globPieces ga k).map fun y => (o + (y.1 - ga), y.1, y.2)
          | _ => []
        let s1 := s.modSample id fun y =>
          { y with
            src := y.src ++ near, asked := far.map (·.1)
            fetched := if far.isEmpty then y.fetched + 1 else y.fetched }
        let s1 := if far.isEmpty then s1.unitDone x 0 else s1
        far.foldl (fun t (o, ga, k) => t.request (.press c id o) { op := opREAD, dst := ga / 2 ^ 44 % 2 ^ 18, addr := ga, arg := k }) s1

/-- The response of one piece of a chunk (11 Table 11.10: a status other than OK is reason FETCH). -/
def pressPiece (s : State) (c id off : Nat) (ok : Bool) (data : List Byte) : State :=
  match s.sample c id with
  | none => s
  | some x =>
    if !x.asked.contains off then s
    else if !ok then s.fetchLost id
    else
      let rest := x.asked.filter (· ≠ off)
      let s1 := s.putSample { x with
        asked := rest, src := x.src ++ [(off, data)], fetched := if rest.isEmpty then x.fetched + 1 else x.fetched }
      if rest.isEmpty then s1.unitDone x 0 else s1

/-! The demultiplexer (R314, R315) -/

/-- Units that a cluster's samples hold, this sample apart. -/
def unitsElse (s : State) (x : Sample) (f : Sample → Nat) : Nat :=
  (s.prs.samples.map fun y => if y.cluster = x.cluster ∧ y.id ≠ x.id then f y else 0).sum

/-- A unit the sample does not use is routed nowhere: video after the last output frame, sound and captions that the job does not take. -/
def unused (r : List Byte) (x : Sample) (u : Nat) : Bool :=
  if u = 0 then decide (fieldLe r 0x18 2 ≤ x.pics) else if u = 1 then fieldLe r 0x39 1 % 4 = 0 else fieldLe r 0x3A 2 % 16 = 0

/-- The queue of a unit has a credit (Table 9.4); the first access unit needs a free core of the cluster (R309; 15 R519). -/
def canRoute (s : State) (x : Sample) (core u : Nat) : Bool :=
  if unused (s.jobRec x.ctx) x u then true
  else if u = 0 then
    x.auQ.length < 8 && (x.core.isSome || (core / 8 = x.cluster && !s.coreFenced core && !s.prs.samples.any fun y => y.core = some core))
  else if u = 1 then x.audioQ.length + s.unitsElse x (·.audioQ.length) < 512
  else x.capQ.length + s.unitsElse x (·.capQ.length) < 1024

/-- Route units in order while there is a credit for each. -/
def routeUnits (s : State) (core : Nat) : List Nat → Sample → Sample
  | [], x => { x with units := some [] }
  | u :: us, x =>
    if !s.canRoute x core u then { x with units := some (u :: us) }
    else
      let n := x.parsed + 1
      s.routeUnits core us (if unused (s.jobRec x.ctx) x u then x
        else if u = 0 then { x with auQ := x.auQ ++ [n], core := some (x.core.getD core) }
        else if u = 1 then { x with audioQ := x.audioQ ++ [n] } else { x with capQ := x.capQ ++ [n] })

/-- The clip ends before the sample's last output frame (Table 9.10, CROP). -/
def pressShort (s : State) (c id : Nat) : State :=
  match s.sample c id with
  | none => s
  | some x => if x.parsedAll && x.auQ.isEmpty && x.pics < fieldLe (s.jobRec c) 0x18 2 then s.pressProblem c id 13 else s

/-- The clip's container against its entry and Table 9.3: another container is invalid, another packet length loses the sync byte
(DEDUCED, log 11), one outside the table is unsupported. -/
def containerCheck (s : State) (c id : Nat) (e : List Byte) (h : ContHdr) : State :=
  let raw := fieldLe e 0x33 1 / 4 % 8
  if h.kind ≠ fieldLe e 0x32 1 then s.pressProblem c id 4
  else if h.kind = 0 ∧ h.packet ≠ (if (fieldLe e 0x33 1).testBit 1 then 192 else 188) then s.pressProblem c id 1
  else if !h.supported || (h.kind = 3 && raw > 3) then s.pressProblem c id 11
  else s

/-- Route what the chunk in the demultiplexer still holds; the chunk is parsed when all its units have gone. -/
def demuxRoute (s : State) (c id core : Nat) (last : Bool) : State :=
  match s.sample c id with
  | none => s
  | some x =>
    let y := s.routeUnits core (x.units.getD []) x
    if y.units ≠ some [] then s.putSample y
    else
      let ends := last || decide (fieldLe x.entry 8 8 ≤ x.start + 65536 * (x.parsed + 1))
      ((s.unitDone x 1).putSample { y with parsed := x.parsed + 1, units := none, parsedAll := ends }).pressShort c id

/-- The demultiplexer parses the oldest chunk and routes its whole units, each as a credit allows (R314, R315); one that could not be read
is a problem of reason FETCH (R339, R341). -/
def pressDemux (s : State) (c id core : Nat) : State :=
  match s.sample c id with
  | none => s
  | some x =>
    if x.held.isSome ∨ x.parsed ≥ x.fetched ∨ x.parsedAll then s
    else
      let inp := s.pressIn x (x.parsed + 1)
      let o := Config.demux inp x.idx x.parsed
      let s1 := match x.units with
        | some _ => s
        | none =>
          let t := s.putSample { x with units := some o.units }
          ((if x.lost.contains x.parsed then [9] else []) ++ o.problems).foldl (fun t p => t.pressProblem c id p) (if x.parsed = 0 then t.containerCheck c id x.entry (Config.container inp) else t)
      s1.demuxRoute c id core o.last

/-- The oldest DPB request of a wing is granted whole when it fits (R318). -/
def dpbReserve (s : State) (wing : Nat) : State :=
  match s.prs.dpbQ.getD wing [] with
  | [] => s
  | (id, n) :: rest =>
    if s.dpbUsed wing + n > s.dpbPool then s
    else
      let t := (s.modPrs fun p => { p with dpbQ := p.dpbQ.set wing rest }).modSample id fun y => { y with dpb := some n }
      match s.prs.samples.find? fun x => x.id = id with
      | some x => t.unitDone x 3
      | none => t

/-- A stream's headers: outside Table 9.2, another codec than a raw clip names, or a DPB reservation larger than the pool is unsupported;
else the DPB is asked for (R312, R317, R318). -/
def videoHeader (s : State) (c : Nat) (x : Sample) (h : SeqHdr) : State :=
  let s1 := s.putSample { x with seq := some h }
  let raw := fieldLe x.entry 0x32 1 = 3 && decide (fieldLe x.entry 0x33 1 / 4 % 8 ≠ h.codec)
  if !h.supported || raw || h.granules > s.dpbPool then s1.pressProblem c x.id 11
  else
    let w := x.cluster / 4
    s1.modPrs fun p => { p with dpbQ := p.dpbQ.set w (p.dpbQ.getD w [] ++ [(x.id, h.granules)]) }

/-- An access unit is decoded: its pictures take their places, its problem acts, failed pictures are concealed; under a policy that drops, a
failed picture without a problem of its own is one of reason BITSTREAM (R326, R328, R331, R339; log 11). -/
def decodeUnit (s : State) (c : Nat) (x : Sample) (n : Nat) : State :=
  let o := Config.decodeAu (s.pressIn x n) x.auNo
  let r := s.jobRec c
  let (y, fails) := o.pics.zipIdx.foldl (showPic r (outFrame0 x) n) (x, 0)
  let s1 := (s.unitDone x 2).putSample (({ y with auQ := x.auQ.drop 1, auNo := x.auNo + 1 } : Sample).stopAt (fieldLe r 0x18 2)).moveOut
  let problem := o.problem.orElse fun _ => if fails ≠ 0 ∧ fieldLe r 0xD 1 % 4 ≠ 0 then some 6 else none
  let s2 := match problem with
    | some p => s1.pressProblem c x.id p
    | none => s1
  (if fails = 0 then s2 else s2.pressConceal c x.id fails).pressShort c x.id

/-- A video core decodes one access unit; the first brings the stream's headers, and pictures leave the DPB before the next (R317, R328,
R331). -/
def videoDecode (s : State) (c id core : Nat) : State :=
  match s.sample c id with
  | none => s
  | some x =>
    if x.held.isSome ∨ x.core ≠ some core ∨ s.coreFenced core then s
    else match x.auQ, x.seq with
    | [], _ => s
    | n :: _, none => s.videoHeader c x (Config.seqHdr (s.pressIn x n))
    | n :: _, some _ => if x.dpb.isNone ∨ !x.ready.isEmpty then s else s.decodeUnit c x n

/-! Sound and captions (R327, R335, R336) -/

/-- Bytes of a sample's whole span in the PCM buffer (Table 9.4). -/
def pcmNeed (r : List Byte) (h : SeqHdr) : Nat :=
  let a := fieldLe r 0x39 1
  wholeOf (48000 * spanOf r h) * (if a % 4 = 1 ∧ a.testBit 2 then 2 else 1) * Config.pcmWidth

/-- The stream's headers as a unit finds them: those of its first access unit, or those that the clip's bytes so far show. -/
def headers (s : State) (x : Sample) (n : Nat) : SeqHdr := x.seq.getD (Config.seqHdr (s.pressIn x n))

/-- An audio decoder decodes one audio unit, with room for the sample's whole span; sound of the span or before it that fails is a problem,
and becomes silence (R314, R315, R335, R339). -/
def audioDecode (s : State) (c id : Nat) : State :=
  match s.sample c id with
  | none => s
  | some x => match x.audioQ with
    | n :: rest =>
      let h := s.headers x n
      let need := if x.pcm = 0 then pcmNeed (s.jobRec c) h else x.pcm
      if x.held.isSome ∨ need + s.unitsElse x (·.pcm) > 32 * 2 ^ 20 then s
      else
        let inp := s.pressIn x n
        let o := Config.audioUnit inp x.idx x.audioNo
        let bad := o.bad && decide ((o.first : Rat) < 48000 * spanOf (s.jobRec c) h)
        let s1 := (s.unitDone x 4).putSample { x with
          audioQ := rest, audioNo := x.audioNo + 1, pcm := need, silent := if bad then (o.first, o.count) :: x.silent else x.silent }
        if x.audioNo = 0 ∧ !(Config.audioHdr inp).supported (fieldLe x.entry 0x32 1) then s1.pressProblem c id 11
        else if bad then (s1.pressProblem c id 8).pressConceal c id 0 else s1
    | [] => s

/-- Caption data becomes span records, at most 64 KiB of them (R336). -/
def captionExtract (s : State) (c id : Nat) : State :=
  match s.sample c id with
  | none => s
  | some x => match x.capQ with
    | n :: rest =>
      if x.held.isSome then s
      else
        let h := s.headers x n
        let o := Config.captionUnit (s.pressIn x n) x.idx x.capNo
        let y := { x with capQ := rest, capNo := x.capNo + 1 }
        let z := (o.spans.filterMap (capRecord (s.jobRec c) h)).foldl (fun (z : Sample) b =>
          if z.caps.length + b.length > 65536 then { z with capLoss := true, omitted := z.omitted + 1 }
          else { z with spans := z.spans + 1, caps := z.caps ++ b }) y
        let s1 := s.unitDone x 5
        if o.bad then (s1.putSample y).pressProblem c id 10 else s1.putSample z
    | [] => s

/-- The augmentation draw of a sample (R333). -/
def augment (s : State) (x : Sample) : Blk4 :=
  gen (((s.ctx x.ctx).map (·.d.jobKey)).getD 0) 1 0xF0000000 (x.epoch % 65536 * 2 ^ 48 + x.idx)

/-- Crop origin used: the drawn offset, rounded down to the chroma grid (R332, R333). -/
def cropOrigin (s : State) (x : Sample) : Nat × Nat :=
  let f := fieldLe (s.jobRec x.ctx)
  let b := s.augment x
  let on := (f 0x1B 1).testBit 2
  let dx := if on then b.x0.toNat * (f 0x28 2 + 1) / 2 ^ 32 else 0
  let dy := if on then b.x1.toNat * (f 0x2A 2 + 1) / 2 ^ 32 else 0
  let gx := if x.seq.any fun h => h.chroma = 0 then 1 else 2
  let gy := if x.seq.any fun h => h.chroma ≠ 1 then 1 else 2
  ((f 0x20 2 + dx) / gx * gx, (f 0x22 2 + dy) / gy * gy)

/-- The sample is flipped (R333). -/
def flips (s : State) (x : Sample) : Bool := (fieldLe (s.jobRec x.ctx) 0x1B 1).testBit 1 && (s.augment x).x2.getLsbD 0

/-- The cropped picture that the tensorizer reads (R332). -/
def cropOf (s : State) (x : Sample) (h : SeqHdr) (p : Pic) : Crop :=
  let f := fieldLe (s.jobRec x.ctx)
  let o := s.cropOrigin x
  { h := h, x0 := o.1, y0 := o.2, w := f 0x24 2, v := f 0x26 2
    pic := fun plane cx cy => if p.grey then 2 ^ (h.bits - 1) else Config.picSample (s.pressIn x p.chunks) p.au p.n p.field plane cx cy }

/-- Offsets of the SC8, TS32 and audio sections in a sample: each section is 64-byte aligned (R337). -/
def sectionAt (r : List Byte) : Nat × Nat × Nat :=
  let g := pGeom r
  let up (n : Nat) : Nat := cdiv n 64 * 64
  let sc8 := up (64 + g.video)
  let ts := up (sc8 + g.sc8)
  (sc8, ts, up (ts + g.ts32))

/-- A finished block stands in the sample's sections (R334). -/
def putBlock (r : List Byte) (m : Mem) (n : Nat) (b : List Byte × List Byte × List Byte) : Mem :=
  let o := sectionAt r
  ((m.write (64 + n * b.1.length) b.1).write (o.1 + n * b.2.1.length) b.2.1).write (o.2.1 + n * b.2.2.length) b.2.2

/-- Granules of 4 KiB of a sample's block, and those in use in the sample block buffer (Table 9.4, R311). -/
def blockSize (r : List Byte) : Nat := cdiv (pGeom r).block 4096
def blocksUsed (s : State) : Nat :=
  (s.prs.samples.map fun x => (x.blocks + if x.group.isEmpty then 0 else 1) * blockSize (s.jobRec x.ctx)).sum

/-- The tensorizer takes one picture; a block starts with a credit for its whole size, and the crop must lie within the picture (R315,
R332 to R334, Table 9.10). -/
def tensorize (s : State) (c id : Nat) : State :=
  match s.sample c id with
  | none => s
  | some x => match x.outQ, x.seq with
    | p :: rest, some h =>
      let r := s.jobRec c
      let f := fieldLe r
      if x.held.isSome ∨ x.frames ≥ f 0x18 2 ∨ (x.group.isEmpty ∧ s.blocksUsed + blockSize r > 16384) then s
      else
        let o := s.cropOrigin x
        if o.1 + f 0x24 2 > h.width ∨ o.2 + f 0x26 2 > (if p.field = 0 then h.height else h.height / 2) then s.pressProblem c id 13
        else
          let g := x.group ++ [p]
          let y : Sample := ({ x with outQ := rest, frames := x.frames + 1, group := g } : Sample).moveOut
          let z : Sample := if g.length < f 0x34 1 then y
            else { y with
              group := [], blocks := y.blocks + 1
              tensor := putBlock r y.tensor (x.frames / f 0x34 1) (blockBytes r (s.flips x) (g.map (s.cropOf x h))) }
          (s.unitDone x 6).putSample (z.streamEnd (f 0x18 2))
    | _, _ => s

/-- The sample as the assembler writes it (Table 9.8, R337). -/
def sampleBytes (s : State) (x : Sample) : List Byte :=
  let r := s.jobRec x.ctx
  let f := fieldLe r
  let h := x.seq.getD default
  let inp := s.pressIn x x.parsed
  let o := sectionAt r
  let aud := audioSection r h inp x.idx x.silent
  let cap := cdiv (o.2.2 + aud.length) 64 * 64
  let total := cap + x.caps.length
  let crop := s.cropOrigin x
  let b (v : Bool) (n : Nat) : Nat := if v then n else 0
  let flags := b x.flagConceal 1 + b x.capLoss 2 + b (s.flips x) 4 + b ((f 0x1B 1).testBit 0) 8 + b h.grain 16
    + Crop.matrix h % 4 * 32 + h.transfer % 4 * 128
  let head := leBytes 8 (x.idx % 2 ^ 48 + x.epoch % 65536 * 2 ^ 48) ++ leBytes 4 x.clip ++ leBytes 4 flags
    ++ leBytes 8 (wholeOf (unwrapped (Config.stamp inp) (frameTicks h) (outFrame0 x)))
    ++ leBytes 4 64 ++ leBytes 4 (pGeom r).video ++ leBytes 4 o.1 ++ leBytes 4 o.2.1 ++ leBytes 4 o.2.2 ++ leBytes 4 aud.length
    ++ leBytes 4 cap ++ leBytes 2 x.spans ++ leBytes 2 x.concealed ++ leBytes 4 total ++ leBytes 2 crop.1 ++ leBytes 2 crop.2
  head ++ ((x.tensor.write o.2.2 aud).write cap x.caps).read 64 (total - 64)

/-- A sample's bytes stand in the racking stage. -/
def stageSample (s : State) (c : Nat) (x : Sample) : State :=
  { s with
    rck := { s.rck with
      stage := s.rck.stage ++ [{ ctx := c, g := x.g, cluster := x.cluster, size := s.pressMax c, bytes := s.sampleBytes x }] } }

/-- Every section of a sample is complete. -/
def wholeSample (s : State) (x : Sample) : Bool :=
  fieldLe (s.jobRec x.ctx) 0x18 2 ≤ x.frames && x.parsedAll && x.audioQ.isEmpty && x.capQ.isEmpty

/-- The assembler copies the blocks finished so far, and a whole sample goes into the racking stage (R315, R316, R337). An assembler
that holds a sample on a fault takes no other (08 R300). -/
def assemble (s : State) (c id : Nat) : State :=
  match s.sample c id with
  | none => s
  | some x =>
    if s.prs.samples.any fun y => y.cluster = x.cluster && y.held.isSome then s
    else
      let y := { x with blocks := 0 }
      if !s.wholeSample x then s.putSample y
      else
        let t := (s.stageSample c y).pressFinish y false false
        if (t.sample c id).isSome then s.pressFinish y false false else t.unitDone x 7

/-- Samples held on a write of the statistics record finish when its fault is resolved (08 R300). -/
def pressRetry (s : State) (c : Nat) : State :=
  (s.prs.samples.filter fun x => x.ctx = c).foldl (fun t x => match x.held with
    | some (true, d) => t.pressFinish { x with held := none } true d
    | some (false, _) => (t.putSample { x with held := none }).assemble c x.id
    | none => t) s

/-! Waits (R320) -/

/-- What a stage of a cluster waits for: 1 input, 2 output, 3 the DPB, 4 admission; none while it has a unit and a credit. -/
def pressWait (s : State) (cl stage : Nat) : Option Nat :=
  let xs := s.prs.samples.filter fun x => x.cluster = cl
  let verdict (us : List Sample) (blocked : Sample → Bool) : Option Nat :=
    if us.isEmpty then some 1 else if us.all blocked then some 2 else none
  match stage with
  | 0 =>
    if xs.any fun x => !x.asked.isEmpty then none
    else if xs.any Sample.toFetch then if s.chunksHeld cl ≥ 256 then some 2 else none
    else if s.prs.jobs.any fun j => !s.couldAdmit j.1 then some 4 else some 1
  | 1 => verdict (xs.filter fun x => x.parsed < x.fetched && !x.parsedAll) fun x =>
      x.units.any fun us => us.head?.any fun u => !(List.range 8).any fun k => s.canRoute x (8 * cl + k) u
  | 2 =>
    let us := xs.filter fun x => !x.auQ.isEmpty
    if !us.isEmpty && us.all fun x => x.seq.isSome && x.dpb.isNone then some 3 else verdict us fun x => !x.ready.isEmpty
  | 3 => if xs.any fun x => x.seq.isSome && x.dpb.isNone && !x.auQ.isEmpty then some 3 else some 1
  | 4 => verdict (xs.filter fun x => !x.audioQ.isEmpty) fun x =>
      x.pcm = 0 && pcmNeed (s.jobRec x.ctx) (s.headers x (x.audioQ.headD 0)) + s.unitsElse x (·.pcm) > 32 * 2 ^ 20
  | 5 => verdict (xs.filter fun x => !x.capQ.isEmpty) fun _ => false
  | 6 => verdict (xs.filter fun x => !x.outQ.isEmpty) fun x => x.group.isEmpty && s.blocksUsed + blockSize (s.jobRec x.ctx) > 16384
  | 7 => verdict (xs.filter fun x => x.blocks > 0 || s.wholeSample x) fun x => x.held.isSome
  | _ => if s.rck.stage.any fun y => y.cluster = cl && !y.sent then none else some 1

/-- Time passes: the waits of the press's stages count while hub engines run, and those of the racking engine while a job of its is open (R320; 10
R361, R368; 08 R300; 20 Table 20.2). -/
def pressTime (s : State) (ns : Nat) : State :=
  let s1 := if !s.working then s
    else (List.range 72).foldl (fun t u => match s.pressWait (u / 9) (u % 9) with
      | some k => t.bump fmPRESS u k ns
      | none => t) s
  if s.rck.jobs.isEmpty then s1
  else
    let on (k : Nat) (b : Bool) (t : State) : State := if b then t.bump fmRACKING 0 k ns else t
    on 3 s.rackStopped (on 2 s.anyStarved (on 1 (s.rck.stage.any (·.sent)) (on 0 s.rackAhead s1)))

/-- The limiter latches at a window's end (R321, Table 9.5). -/
def limiter (s : State) (m : List StageBusy) : State :=
  let best (l : List StageBusy) : Option StageBusy := l.foldl (fun a b => match a with
    | none => some b
    | some x => if b.busy > x.busy then some b else some x) none
  let free := m.filter fun x => !x.out && x.stage < 8
  let own (cl : Nat) : Nat := ((best (free.filter fun x => x.cluster = cl)).map (·.stage)).getD 8
  let (st, busy) := match best free with
    | some x => (x.stage, x.busy)
    | none => (8, ((m.find? fun x => x.stage = 8).map (·.busy)).getD 0)
  let cls := ((List.range 8).filter fun cl => own cl = st).foldl (fun a cl => a + 2 ^ cl) 0
  ((s.setRegBits rPRS_LIMITER 24 4 st).setRegBits rPRS_LIMITER 10 10 (min busy 1000)).setRegBits rPRS_LIMITER 0 8 cls

/-- Close the press job of a context: samples in flight are discarded, no drop is reported (Table 9.11). -/
def pressEnd (s : State) (c : Nat) : State :=
  let gone := (s.prs.samples.filter fun x => x.ctx = c).map (·.id)
  let s1 := s.modPrs fun p =>
    { p with
      jobs := mapSet p.jobs c none, samples := p.samples.filter fun x => x.ctx ≠ c, turns := natPut p.turns c 0
      dpbQ := p.dpbQ.map fun q => q.filter fun y => !gone.contains y.1 }
  let s2 : State := { s1 with mmu := { s1.mmu with waits := s1.mmu.waits.filter fun w => !(w.who = .press c) } }
  (s2.clipForget c).modFar fun l => l.filter fun x => match x.who with
    | .stat d _ _ => d ≠ c
    | _ => true

/-- Open the press job from its record (R322, R324). -/
def pressOpenAt (s : State) (c : Nat) (r : List Byte) : State × Ans :=
  match pressBad r with
  | some d => (s, { status := cREFUSED, detail := d })
  | none =>
    ((s.modPrs fun p => { p with jobs := mapSet p.jobs c (some { rec' := r, maxSize := pressMaxSize r }) }).activity, { status := cOK })

/-- PRESS_OPEN of a context, as it begins and as its record comes. -/
def pressOpenRun (t : State) (q : Req) : State × Option Ans :=
  if (t.ctx (q.arg 0)).isNone then (t, some { status := cNO_CONTEXT })
  else if (t.pressJob (q.arg 0)).isSome then (t, some { status := cBUSY })
  else t.openWith q (q.arg 0) (q.arg 1) fun u r => u.pressOpenAt (q.arg 0) r

/-- The record that an open command waits for has come: the command goes on and is answered. -/
def openAgain (s : State) : State :=
  match s.host.waiting with
  | none => s
  | some q =>
    let t : State := { s with host := { s.host with waiting := none } }
    match if q.opcode = 4 then t.pressOpenRun q else t.rackOpenRun q with
    | (u, some a) => u.answer q a
    | (u, none) => u

/-- The record cannot be read (log 24). -/
def openFails (s : State) : State :=
  match s.host.waiting with
  | none => s
  | some q => ({ s with host := { s.host with waiting := none } } : State).answer q { status := cREFUSED, detail := 1 }

end State

def effPressOpen (q : Req) (s : State) : State := s.cmdWait q 4 2 false fun t => t.pressOpenRun q

def effPressClose (q : Req) (s : State) : State :=
  s.cmd q 5 1 false fun t => t.onCtx q fun _ =>
    if (t.pressJob (q.arg 0)).isNone then (t, { status := cSTATE }) else ((t.pressEnd (q.arg 0)).activity, { status := cOK })

/-! Meanings -/

def execPressAdmit (c cl : Nat) (s : State) := run [bPRS, bRCK] s (s.live (s.pressAdmit c cl))
def execPressFetchChunk (c id : Nat) (ok : Bool) (s : State) := run [bPRS] s (s.live (s.pressFetch c id ok))
def execDemuxParse (c id core : Nat) (s : State) := run [bPRS] s (s.live (s.pressDemux c id core))
def execDpbReserve (wing : Nat) (s : State) := run [bPRS] s (s.live (s.dpbReserve wing))
def execVideoDecodeAu (c id core : Nat) (s : State) := run [bPRS] s (s.live (s.videoDecode c id core))
def execAudioDecode (c id : Nat) (s : State) := run [bPRS] s (s.live (s.audioDecode c id))
def execCaptionExtract (c id : Nat) (s : State) := run [bPRS] s (s.live (s.captionExtract c id))
def execTensorizeFrame (c id : Nat) (s : State) := run [bPRS] s (s.live (s.tensorize c id))
def execAssembleSample (c id : Nat) (s : State) := run [bPRS] s (s.live (s.assemble c id))
def execPressLimiterWindow (m : List StageBusy) (s : State) := run [bPRS] s (s.live (s.limiter m))
def execPressOpen (q : Req) (s : State) := run [bSTW, bPRS] s (effPressOpen q s)
def execPressClose (q : Req) (s : State) := run [bSTW, bPRS] s (effPressClose q s)

end Sys2Proof.Machine
end

