-- ==== Sys2Proof/Machine/Reshard.lean ====
section
/-! DEFINITION. Reshard in place: plan checks, journal, rounds, resumption (12 R441 to R453; 07 R258). -/

namespace Sys2Proof.Machine

/-- A plan extent (12 Table 12.4). -/
structure Extent where
  round : Nat
  peer : Nat
  va : Nat
  len : Nat
  dir : Nat
  deriving DecidableEq, Repr

/-- A reshard plan. -/
structure Plan where
  rounds : Nat
  count : Nat
  park : Nat
  parkBytes : Nat
  exts : List Extent
  deriving DecidableEq, Repr

def Plan.parse (bs : List Byte) : Plan :=
  let n := fieldLe bs 4 4
  { rounds := fieldLe bs 0 4, count := n, park := fieldLe bs 8 8, parkBytes := fieldLe bs 0x10 8,
    exts := (List.range (min n ((bs.length - 64) / 32))).map fun i =>
      let o := 64 + 32 * i
      { round := fieldLe bs o 4, peer := fieldLe bs (o + 4) 4, va := fieldLe bs (o + 8) 8, len := fieldLe bs (o + 0x10) 4,
        dir := fieldLe bs (o + 0x14) 1 } }

def Extent.overlaps (a b : Extent) : Bool := a.va < b.va + b.len && b.va < a.va + a.len

/-- No two extents of a list overlap. -/
def apart : List Extent → Bool
  | [] => true
  | e :: t => !(t.any e.overlaps) && apart t

/-- Order of ROUND, then DIR, then PEER. -/
def extLe (a b : Extent) : Bool :=
  a.round < b.round || (a.round = b.round && (a.dir < b.dir || (a.dir = b.dir && a.peer ≤ b.peer)))

/-- The rules of R441 and R442, with the 4,096 OUT extents per round of R445. -/
def Plan.bad (p : Plan) : Bool :=
  let outs := p.exts.filter (·.dir = 0)
  let ins := p.exts.filter (·.dir = 1)
  let frees := p.exts.filter (·.dir = 2)
  let parkE : Extent := { round := 0, peer := 0, va := p.park, len := p.parkBytes, dir := 0 }
  p.rounds = 0 || p.rounds > 65536 || p.count = 0 || p.count > 2 ^ 20 || p.exts.length ≠ p.count
    || p.park % 65536 ≠ 0 || p.parkBytes % 65536 ≠ 0
    || p.exts.any (fun e => e.dir > 2 || e.va % 4096 ≠ 0 || e.len % 4096 ≠ 0 || e.len = 0 || e.round ≥ p.rounds)
    || !((p.exts.zip (p.exts.drop 1)).all fun (a, b) => extLe a b)
    || (outs.map (·.round)).eraseDups.any (fun r =>
        let os := outs.filter (·.round = r)
        (os.map (·.len)).sum > p.parkBytes || os.length > 4096)
    || !apart outs || !apart ins || p.exts.any (fun e => e.overlaps parkE)
    || ins.any (fun e => (List.range (e.len / 4096)).any fun k =>
        let a := e.va + 4096 * k
        !((outs.filter fun o => o.round ≤ e.round).any fun o => o.va ≤ a && a + 4096 ≤ o.va + o.len)
          && !(frees.any fun o => o.va ≤ a && a + 4096 ≤ o.va + o.len))
    || outs.any (fun o => ins.any fun i => i.round < o.round && i.overlaps o)

/-- Extents of a round and direction with their plan index. -/
def Plan.of (p : Plan) (round dir : Nat) : List (Nat × Extent) :=
  (p.exts.zipIdx.filter fun (e, _) => e.round = round && e.dir = dir).map fun (e, i) => (i, e)

/-- A reshard at the start of a round. -/
def Resh.fresh (x : Resh) : Resh := { ctx := x.ctx, pa := x.pa, inst := x.inst, seq := x.seq, root := x.root }

namespace State

/-- Journal header fields (12 Table 12.5). -/
def jget (s : State) (pa off n : Nat) : Nat := ((s.journal pa).map fun b => fieldLe b off n).getD 0
def jput (s : State) (pa off n v : Nat) : State := s.putJournal pa fun b => patchLe b off n v

/-- The plan copy in a journal. -/
def jplan (s : State) (pa : Nat) : Plan :=
  let n := s.hbmLe (pa + 0x31000 + 4) 4
  Plan.parse (s.hbm.read (pa + 0x31000) (64 + 32 * min n (2 ^ 20)))

/-- A VA of the reshard's address space, through the journal's PTROOT; the apertures belong to no hub unit (08 R280, R281; R451). -/
def resXlat (s : State) (root va : Nat) (acs : Acs) : Except XErr Loc :=
  if va ≥ 0xFFFE00000000 then .error { cause := cAPERTURE } else walkPt s.hbm s.prs.size false va acs 3 root

/-- The places of a range of the reshard's address space. -/
def resSpan (s : State) (root va n : Nat) (acs : Acs) : Except (Nat × XErr) (List (Nat × Loc × Nat)) :=
  (vaPieces va n).foldl (fun acc (a, k) => match acc with
    | .error e => .error e
    | .ok ls => match s.resXlat root a acs with
      | .error e => .error (a, e)
      | .ok l => (s.resolve a l k acs).map fun more => ls ++ more) (.ok [])

/-- Read ranges of the reshard's address space: none while bytes are on their way from another module; and store to them: true once every
byte is in place. -/
def resSpans (s : State) (root : Nat) (rs : List (Nat × Nat)) (acs : Acs) : Except (Nat × XErr) (List (Nat × Loc × Nat)) :=
  rs.foldl (fun acc (va, n) => acc.bind fun ls => (s.resSpan root va n acs).map fun more => ls ++ more) (.ok [])
def resRead (s : State) (c root : Nat) (rs : List (Nat × Nat)) : Except (Nat × XErr) (Option (List Byte) × State) :=
  (s.resSpans root rs .rd).map fun ls =>
    if s.farReady (.resh c false) ls then (some (s.farBytes (.resh c false) ls), s.farDrop (.resh c false))
    else (none, s.farAsk (.resh c false) (farPieces ls) none)
def resWrite (s : State) (c root : Nat) (rs : List (Nat × Nat)) (bs : List Byte) : Except (Nat × XErr) (Bool × State) :=
  (s.resSpans root rs .wr).map fun ls =>
    if s.farReady (.resh c true) ls then (true, (s.farDrop (.resh c true)).spread ls bs)
    else (false, s.farAsk (.resh c true) (farPieces ls) (some (farData ls bs)))

def findResh (s : State) (c : Nat) : Option Resh := s.col.resh.find? fun x => x.ctx = c
def setResh (s : State) (c : Nat) (x : Option Resh) : State :=
  { s with col := { s.col with resh := (s.col.resh.filter fun y => y.ctx ≠ c) ++ x.toList } }

def modResh (s : State) (c : Nat) (f : Resh → Resh) : State :=
  { s with col := { s.col with resh := s.col.resh.map fun y => if y.ctx = c then f y else y } }

/-- A reshard stops on a translation error: an instruction's waits as a mover, the steward's under its own record; a cause that nothing
resolves holds the steward's (08 R291; R451; log 26). -/
def reshFault (s : State) (x : Resh) (acs : Acs) (e : Nat × XErr) : State :=
  match x.inst with
  | none =>
    if finalCause e.2.cause then s
    else s.addWait {
      wid := 0, ctx := x.ctx, who := .resh x.ctx, va := e.1, glob := e.2.glob, cause := e.2.cause, level := e.2.level, pte := e.2.pte
      access := acs.bits, unit := 5 }
  | some (r, uid) => match s.findInfl r uid with
    | some i => match i.mv with
      | some m => s.moverFault r i m acs e
      | none => s
    | none => s

/-- A reshard ends: with a fault of its instruction, or done. -/
def reshEnd (s : State) (x : Resh) (f : Option FaultCode) : State :=
  let s1 := s.setResh x.ctx none
  match x.inst, f with
  | some (r, uid), some fc => match s1.findInfl r uid with
    | some i => s1.roomFault r i.pc fc
    | none => s1
  | some (r, uid), none => s1.modInfl r uid fun k => { k with ready := true }
  | none, _ => s1

/-- One OUT extent is copied into parking, hashed and recorded: true once it is (R445, R446). -/
def reshParkOne (s : State) (x : Resh) (p : Plan) (ie : Nat × Extent) (k off : Nat) : Except (Acs × Nat × XErr) (Bool × State) :=
  let root := s.jget x.pa 0x40 8
  match s.resRead x.ctx root [(ie.2.va, ie.2.len)] with
  | .error e => .error (.rd, e)
  | .ok (none, t) => .ok (false, t)
  | .ok (some bs, t) => match t.resWrite x.ctx root [(p.park + off, ie.2.len)] bs with
    | .error e => .error (.wr, e)
    | .ok (false, u) => .ok (false, u)
    | .ok (true, u) =>
      .ok (true, (u.hbmWrite (x.pa + 0x1000 + 48 * k) (leBytes 4 ie.1 ++ leBytes 4 1 ++ sha256 bs ++ leBytes 8 0)).modResh x.ctx fun y =>
        { y with parked := k :: y.parked })

/-- PARK the extents from place k on, as far as their bytes have come (R446). -/
def reshParkFrom (s : State) (x : Resh) (p : Plan) : List (Nat × Extent) → Nat → Nat → State
  | [], _, _ => (s.jput x.pa 9 1 1).modResh x.ctx fun y => { y with parked := [], arrive := 0 }
  | ie :: rest, k, off =>
    if x.parked.contains k then s.reshParkFrom x p rest (k + 1) (off + ie.2.len)
    else match s.reshParkOne x p ie k off with
    | .error (a, e) => s.reshFault x a e
    | .ok (false, t) => t
    | .ok (true, t) => t.reshParkFrom x p rest (k + 1) (off + ie.2.len)

/-- PARK: every OUT extent of the round, in plan order (R445, R446). -/
def reshPark (s : State) (x : Resh) (p : Plan) : State := s.reshParkFrom x p (p.of (s.jget x.pa 0x10 4) 0) 0 0

/-- Module of a rank, from the journal's copy of the member array. -/
def reshMod (s : State) (pa : Nat) (p : Plan) (rank : Nat) : Nat := s.hbmLe (pa + 0x31000 + 64 + 32 * p.count + 8 * rank) 4 % 2 ^ 18

/-- Ranks that a round's extents of a direction name, and the bytes of one rank's stream (12 R442). -/
def reshPeers (s : State) (pa : Nat) (p : Plan) (dir : Nat) : List Nat := ((p.of (s.jget pa 0x10 4) dir).map fun y => y.2.peer).eraseDups
def reshLen (s : State) (pa : Nat) (p : Plan) (dir rank : Nat) : Nat :=
  (((p.of (s.jget pa 0x10 4) dir).filter fun y => y.2.peer = rank).map fun y => y.2.len).sum

/-- One COLFRAG of a reshard to a rank under an operation sequence. -/
def reshFragment (s : State) (x : Resh) (p : Plan) (rank seq arg : Nat) (data : List Byte) : State :=
  let m := s.reshMod x.pa p rank
  s.request (match x.inst with
    | some (r, uid) => .col r uid
    | none => .mgmt) {
      op := opCOLFRAG, dst := m, addr := colAddr x.ctx seq + m * 2 ^ 44, arg := s.jget x.pa 0xC 2 + arg, data := data }

/-- READY with the length of its stream to a rank; PAUSE to every rank that sends to this one in the round (12 R426, R436). -/
def reshReadyTo (s : State) (x : Resh) (p : Plan) (rk : Nat) : State :=
  s.reshFragment x p rk x.seq (2 ^ 10) (leBytes 8 0 ++ leBytes 8 (s.reshLen x.pa p 1 rk))
def reshPause (s : State) (x : Resh) (p : Plan) : State :=
  (s.reshPeers x.pa p 1).foldl (fun t rk => t.reshFragment x p rk x.seq (2 ^ 11) []) s

/-- READY to every rank that sends to this one in the round; a member that has resumed past its parking also to those that it sends to,
which answer it with theirs (12 R426, R450; log 17). -/
def reshReady (s : State) (x : Resh) (p : Plan) : State :=
  (s.reshPeers x.pa p 1 ++ if x.again then (s.reshPeers x.pa p 0).filter fun rk => !(s.reshPeers x.pa p 1).contains rk else []).foldl
    (fun t rk => t.reshReadyTo x p rk) s

/-- OUT extents of the round to a rank in plan order: place among the round's, offset in the parking area, length. -/
def reshOuts (s : State) (x : Resh) (p : Plan) (rank : Nat) : List (Nat × Nat × Nat) :=
  let outs := p.of (s.jget x.pa 0x10 4) 0
  (((outs.foldl (fun (acc : List (Nat × Nat × Extent) × Nat) ie => (acc.1 ++ [(acc.1.length, acc.2, ie.2)], acc.2 + ie.2.len)) ([], 0)).1.filter
    fun y => y.2.2.peer = rank).map fun y => (y.1, y.2.1, y.2.2.len))

/-- Fragments of a stream: each extent in runs of 4 KiB, then its digest in a fragment of its own (R427, R446; log 17). -/
def reshFrags : List (List Byte × List Byte) → List (List Byte)
  | [] => []
  | (bs, dg) :: t => (List.range (bs.length / 4096)).map (fun f => (bs.drop (4096 * f)).take 4096) ++ dg :: reshFrags t

/-- Fragments of a stream before an extent: the fragment an extent begins with. -/
def reshFragNo (lens : List Nat) (k : Nat) : Nat := ((lens.take k).map fun n => n / 4096 + 1).sum

/-- A stretch of the round's OUT stream to a rank goes out from parking; it is owed until its bytes have been read and while the rank
pauses (R427, R436, R446). -/
def reshStream (s : State) (x : Resh) (p : Plan) (job : Nat × Nat × Nat) : State :=
  let (rank, lo, hi) := job
  let owe (t : State) : State := t.modResh x.ctx fun y => { y with owed := job :: y.owed.filter (· ≠ job) }
  let outs := s.reshOuts x p rank
  if x.paused.any (·.1 = rank) then owe s
  else match s.resRead x.ctx (s.jget x.pa 0x40 8) (outs.map fun y => (p.park + y.2.1, y.2.2)) with
  | .error e => (owe s).reshFault x .rd e
  | .ok (none, t) => owe t
  | .ok (some bs, t) =>
    let exts := (outs.foldl (fun (acc : List (List Byte × List Byte) × List Byte) y =>
      (acc.1 ++ [(acc.2.take y.2.2, t.hbm.read (x.pa + 0x1000 + 48 * y.1 + 8) 32)], acc.2.drop y.2.2)) ([], bs)).1
    let fs := reshFrags exts
    let seq := natGet x.ready rank
    (((fs.zipIdx.take hi).drop lo).foldl (fun u (b, f) => u.reshFragment x p rank seq (f * 2 ^ 16) b) t).modResh x.ctx fun y =>
      { y with owed := y.owed.filter (· ≠ job), sent := natPut y.sent rank (max (natGet y.sent rank) (min hi fs.length)) }

/-- The group's slots of a reshard's barriers lie apart from those of BARRIER (log 41). -/
def reshSlots (s : State) (pa : Nat) : Nat := 2048 + s.jget pa 0xC 2

/-- At the barrier of number n: the arrival goes to the root; true once it stands there and the root, if it is this module, has every
member's. On another module the command is the root's release (R428, R446; log 41). -/
def reshBarrier (s : State) (x : Resh) (p : Plan) (n : Nat) : Bool × State :=
  let m := s.reshMod x.pa p x.root
  let g := s.reshSlots x.pa
  if x.arrive = 0 then
    (false, (s.modResh x.ctx fun y => { y with arrive := 1 }).arriveAt (.arrivalResh x.ctx) x.ctx g (s.jget x.pa 0x14 4) m n)
  else (x.arrive = 2 && (some m ≠ s.fab.num || s.allArrived x.ctx g (s.jget x.pa 0x18 4) n), s)

/-- The whole stream to a rank. -/
def reshAll (rk : Nat) : Nat × Nat × Nat := (rk, 0, 2 ^ 32)

/-- SEND: past the first barrier this member is READY, and sends to the ranks that are (R426, R446). -/
def reshSend (s : State) (x : Resh) (p : Plan) : State :=
  let y := { x with arrive := 0 }
  let s1 := ((s.jput x.pa 9 1 2).setResh x.ctx (some y)).reshReady y p
  ((s1.reshPeers x.pa p 0).filter fun rk => x.ready.any (·.1 = rk)).foldl (fun t rk => t.reshStream y p (reshAll rk)) s1

/-- The rank that a packet's module stands for in a reshard (R420). -/
def reshRank (s : State) (x : Resh) (k : Packet) : Option Nat :=
  (List.range (s.jget x.pa 0x18 4)).find? fun rk => s.reshMod x.pa (s.jplan x.pa) rk = k.src

/-- A READY for a reshard: another length or kind raises GROUP; else its stream goes out, now or once this member sends: on from the next
fragment after a PAUSE, and from the start when it comes again, which a peer that expects bytes of that member answers with its own
READY (12 R426, R436, R442, R450; log 17). -/
def reshTakeReady (s : State) (x : Resh) (rk : Nat) (k : Packet) : State :=
  let p := s.jplan x.pa
  let out := s.reshLen x.pa p 0 rk
  if fieldLe k.data 0 2 ≠ 0 ∨ fieldLe k.data 8 8 ≠ out then s.reshEnd x (some .group)
  else
    let was := x.ready.any (·.1 = rk)
    let paused := x.paused.any (·.1 = rk)
    let y := { x with
      ready := natPut x.ready rk (k.addr / 2 ^ 24 % 65536), paused := x.paused.filter (·.1 ≠ rk)
      owed := x.owed.filter fun j => paused || j.1 ≠ rk }
    let s1 := s.setResh x.ctx (some y)
    if s.jget x.pa 9 1 < 2 then s1
    else
      let s2 := if out = 0 then s1 else s1.reshStream y p (if paused then (rk, natGet x.sent rk, 2 ^ 32) else reshAll rk)
      if (was && !paused || out = 0) && !x.again && s.reshLen x.pa p 1 rk ≠ 0 then s2.reshReadyTo y p rk else s2

/-- A sender's extents of which every fragment has come, in stream order: number, first fragment, bytes and digest; a fragment shorter
than 4 KiB is a digest (log 17). -/
def reshWhole (rx : List (Nat × List Byte)) : List (Nat × Nat × List Byte × List Byte) :=
  ((List.range rx.length).foldl (fun (a : List (Nat × Nat × List Byte × List Byte) × Nat × List Byte × Bool) f =>
    if !a.2.2.2 then a
    else match rx.find? fun y => y.1 = f with
      | none => (a.1, a.2.1, a.2.2.1, false)
      | some (_, bs) =>
        if bs.length < 4096 then (a.1 ++ [(a.1.length, a.2.1, a.2.2.1, bs)], f + 1, [], true)
        else (a.1, a.2.1, a.2.2.1 ++ bs, true)) ([], 0, [], true)).1

/-- Bytes lo to lo + n − 1 of the round's IN stream of a rank, as ranges of its IN extents in plan order (R442). -/
def reshRanges (s : State) (x : Resh) (p : Plan) (rank lo n : Nat) : List (Nat × Nat) :=
  (((p.of (s.jget x.pa 0x10 4) 1).filter fun y => y.2.peer = rank).foldl (fun (a : List (Nat × Nat) × Nat) y =>
    let b := max lo a.2
    let e := min (lo + n) (a.2 + y.2.len)
    (if b < e then a.1 ++ [(y.2.va + (b - a.2), e - b)] else a.1, a.2 + y.2.len)) ([], 0)).1

/-- The word on a sender's extent: 1 it has matched, 2 it is to be sent again, 3 its third resend failed too. It travels as a fragment
with bit 31 of its number set; the spec gives it no form: DESIGN CHOICE (log 17). -/
def reshWord (s : State) (x : Resh) (p : Plan) (rank k v : Nat) : State :=
  s.reshFragment x p rank x.seq ((2 ^ 31 + k) * 2 ^ 16) (leBytes 8 k ++ leBytes 8 v)

/-- DONE and DONE_BYTES of a RESHARD's mover: the fragments of the IN extents that lead in plan order (08 R296). -/
def reshProgress (s : State) (x : Resh) (p : Plan) : State :=
  let round := s.jget x.pa 0x10 4
  let before := ((p.exts.filter fun e => e.dir = 1 && e.round < round).map (·.len)).sum
  let lead := ((s.reshPeers x.pa p 1).foldl (fun (a : Nat × Bool) rk =>
    if !a.2 then a
    else
      let got := (((reshWhole ((x.rx.filter (·.1 = rk)).map (·.2))).takeWhile fun e => x.good.contains (rk, e.1)).map fun e => e.2.2.1.length).sum
      (a.1 + got, got = s.reshLen x.pa p 1 rk)) (0, true)).1
  let n := before + lead
  match x.inst with
  | some (r, uid) => s.modInfl r uid fun i => { i with mv := i.mv.map fun m => { m with done := n / 4096, doneBytes := n } }
  | none => s

/-- A sender's extent has come whole: it is written in place and hashed; a match is acknowledged, a mismatch asks for a resend, and the
fourth ends the reshard on both members with the sender reported (R446, R448). -/
def reshLandOne (s : State) (x : Resh) (p : Plan) (rank lo : Nat) (e : Nat × Nat × List Byte × List Byte) : State :=
  let (k, f0, bs, dg) := e
  match s.resWrite x.ctx (s.jget x.pa 0x40 8) (s.reshRanges x p rank lo bs.length) bs with
  | .error er => s.reshFault x .wr er
  | .ok (false, t) => t
  | .ok (true, t) =>
    if sha256 bs = dg then
      let y := { x with good := (rank, k) :: x.good }
      ((t.setResh x.ctx (some y)).reshProgress y p).reshWord y p rank k 1
    else
      let n := ((x.resends.find? fun z => z.1 = (rank, k)).map (·.2)).getD 0
      if n ≥ 3 then
        (((t.reshWord x p rank k 3).report (s.reshMod x.pa p rank) sxRESHARD 1).immediate).reshEnd x (some .uncorrectable)
      else
        let y := { x with
          resends := ((rank, k), n + 1) :: x.resends.filter fun z => z.1 ≠ (rank, k)
          rx := x.rx.filter fun z => !(z.1 = rank && f0 ≤ z.2.1 && z.2.1 ≤ f0 + bs.length / 4096) }
        ((t.setResh x.ctx (some y)).reshWord y p rank k 2).regCount rCOL_STATUS 8 8 1

/-- The next extent of a rank that has come whole and is not yet taken, with its offset in the stream. -/
def reshNext (x : Resh) (rank : Nat) : Option (Nat × (Nat × Nat × List Byte × List Byte)) :=
  let es := reshWhole ((x.rx.filter (·.1 = rank)).map (·.2))
  (es.find? fun e => !x.good.contains (rank, e.1)).map fun e => (((es.take e.1).map fun z => z.2.2.1.length).sum, e)

/-- Take the extents that have come whole, as far as their writes can be made (R446, R447). -/
def reshLand : Nat → State → Nat → Plan → State
  | 0, s, _, _ => s
  | n + 1, s, c, p => match s.findResh c with
    | none => s
    | some x => match (s.reshPeers x.pa p 1).findSome? fun rk => (reshNext x rk).map fun y => (rk, y) with
      | none => s
      | some (rk, lo, e) =>
        let t := s.reshLandOne x p rk lo e
        if t.findResh c = some x then t else reshLand n t c p

/-- A data fragment for a reshard: kept until its extent is whole; the digest of an extent that has matched comes again when its sender
lacks the acknowledgement (R446, R450). -/
def reshTakeData (s : State) (x : Resh) (rk : Nat) (k : Packet) : State :=
  let p := s.jplan x.pa
  let f := k.arg / 2 ^ 16 % 2 ^ 32
  match (reshWhole ((x.rx.filter (·.1 = rk)).map (·.2))).find? fun e => x.good.contains (rk, e.1) ∧ e.2.1 ≤ f ∧ f ≤ e.2.1 + e.2.2.1.length / 4096 with
  | some e => if k.data.length < 4096 then s.reshWord x p rk e.1 1 else s
  | none =>
    let y := { x with rx := (rk, f, k.data) :: x.rx.filter fun z => ¬(z.1 = rk ∧ z.2.1 = f) }
    reshLand y.rx.length (s.setResh x.ctx (some y)) x.ctx p

/-- A peer's word on an OUT extent: acknowledged, to be sent again, or failed for good (R446, R448). -/
def reshTakeWord (s : State) (x : Resh) (rk : Nat) (k : Packet) : State :=
  let p := s.jplan x.pa
  let n := fieldLe k.data 0 8
  let outs := s.reshOuts x p rk
  match outs[n]? with
  | none => s
  | some (j, _, _) =>
    if fieldLe k.data 8 8 = 1 then
      let a := x.pa + 0x1000 + 48 * j + 4
      s.hbmSet a 4 (s.hbmLe a 4 ||| 2)
    else if fieldLe k.data 8 8 = 2 then
      let lens := outs.map fun y => y.2.2
      s.reshStream x p (rk, reshFragNo lens n, reshFragNo lens (n + 1))
    else s.reshEnd x (some .uncorrectable)

/-- A packet reaches its reshard (R426, R436, R446). -/
def reshPacket (s : State) (x : Resh) (k : Packet) : State :=
  match s.reshRank x k with
  | none => s
  | some rk =>
    if k.arg.testBit 10 then s.reshTakeReady x rk k
    else if k.arg.testBit 11 then s.setResh x.ctx (some { x with paused := (rk, k.src) :: x.paused.filter (·.1 ≠ rk) })
    else if k.arg.testBit 47 then s.reshTakeWord x rk k
    else s.reshTakeData x rk k

/-- The operation sequence that a reshard the steward resumed bears, which has no instruction to count (R425, R451): DESIGN CHOICE (log
17). -/
abbrev resumedSeq : Nat := 65535

/-- The reshard that a COLFRAG belongs to: of its context, group and operation sequence. A reshard's READY carries no SEL; one that the
steward resumed takes any of them and its own is taken. What is no READY bears the sequence of a READY here or of the sender's (R426; log
17). -/
def fragResh (s : State) (k : Packet) : Option Resh :=
  let c := k.addr / 2 ^ 40 % 16
  let g := k.arg % 1024
  let q := k.addr / 2 ^ 24 % 65536
  if !(s.findCols c g q).isEmpty then none
  else (s.findResh c).filter fun x => s.jget x.pa 0xC 2 = g
    && (q = x.seq || (if k.arg.testBit 10 then fieldLe k.data 0 2 = 0 && (x.inst.isNone || q = resumedSeq) else x.ready.any (·.2 = q)))

/-- A COLFRAG of a kind: it reaches its reshard, or its collective. -/
def fragment (s : State) (k : Packet) (kind : Nat) : State :=
  match s.fragResh k with
  | none => s.colPacket k kind
  | some x =>
    let (port, s1) := s.fromInbox k
    let is := if k.arg.testBit 10 then 0 else if k.arg.testBit 11 then 1 else 2
    if k.op ≠ opCOLFRAG || k.rsp || is ≠ kind then s
    else if colBad k then s1.respond port k rsSPACE []
    else if !(s.devState = stREADY || s.devState = stRUNNING) then s1.respond port k rsNOT_READY []
    else (s1.reshPacket x k).respond port k rsOK []

/-- The SEND phase goes on: what has come whole is written, and owed streams go out (R446). -/
def reshTake (s : State) (c : Nat) (p : Plan) : State :=
  let s1 := reshLand (((s.findResh c).map (·.rx.length)).getD 0) s c p
  match s1.findResh c with
  | some x => x.owed.foldl (fun t j => match t.findResh c with
      | some y => t.reshStream y p j
      | none => t) s1
  | none => s1

/-- The round is complete when every OUT extent is acknowledged and every byte of the IN extents has matched (12 R446). -/
def reshCheck (s : State) (c : Nat) (p : Plan) : State :=
  match s.findResh c with
  | none => s
  | some x =>
    let round := s.jget x.pa 0x10 4
    let outs := p.of round 0
    if (List.range outs.length).all (fun k => s.hbmLe (x.pa + 0x1000 + 48 * k + 4) 4 / 2 % 2 = 1)
        && (s.reshPeers x.pa p 1).all (fun rk =>
          (((reshWhole ((x.rx.filter (·.1 = rk)).map (·.2))).filter fun e => x.good.contains (rk, e.1)).map fun e => e.2.2.1.length).sum
            = s.reshLen x.pa p 1 rk) then
      s.putJournal x.pa fun b => patchLe (patchLe b 0x48 8 (fieldLe b 0x48 8 + (outs.map fun y => y.2.len).sum)) 9 1 3
    else s

/-- A reshard's translation fault is being resolved, or its mover stands still. -/
def reshHeld (s : State) (x : Resh) : Bool :=
  match x.inst with
  | some (r, uid) => match (s.findInfl r uid).bind (·.mv) with
    | some m => m.paused || m.wait.isSome
    | none => true
  | none => s.mmu.waits.any fun w => w.who = .resh x.ctx

/-- The next stretch of a reshard (R446). -/
def reshRound (s : State) (c : Nat) : State :=
  match s.findResh c with
  | none => s
  | some x =>
    if s.journalState x.pa ≠ 1 || s.reshHeld x then s
    else
      let p := s.jplan x.pa
      let round := s.jget x.pa 0x10 4
      match s.jget x.pa 9 1 with
      | 0 => s.reshPark x p
      | 1 =>
        let b := s.reshBarrier x p (round * 4 + 1)
        if b.1 then b.2.reshSend x p else b.2
      | 2 => (s.reshTake c p).reshCheck c p
      | _ =>
        let b := s.reshBarrier x p (round * 4 + 3)
        if !b.1 then b.2
        else if round + 1 ≥ p.rounds then
          (b.2.putJournal x.pa fun j => patchLe (patchLe (patchLe j 0x10 4 (round + 1)) 9 1 0) 8 1 2).reshEnd x none
        else (b.2.putJournal x.pa fun j => patchLe (patchLe j 0x10 4 (round + 1)) 9 1 0).setResh c (some x.fresh)

/-- A reshard whose journal says PARKED or SEND passes the first barrier again (12 R450): the phase it resumes in, and whether its peers
send READY again. -/
def reshBack (s : State) (pa : Nat) : State × Bool :=
  (if s.jget pa 9 1 = 2 then s.jput pa 9 1 1 else s, s.jget pa 9 1 = 1 || s.jget pa 9 1 = 2)

/-- After a reset the steward resumes a running reshard from its journal (12 R450, R451). -/
def reshResume (s : State) (c : Nat) : State :=
  match mapGet s.col.reshDir c with
  | none => s
  | some pa =>
    if s.journalState pa ≠ 1 || (s.findResh c).isSome || s.devState = stOFF || s.devState = stBOOT then s
    else
      (s.reshBack pa).1.setResh c (some { ctx := c, pa := pa, inst := none, seq := resumedSeq, again := (s.reshBack pa).2 })

end State

/-- A read at issue that misses waits for the fault's resolution; the instruction then issues again (08 R291, R292). -/
def waitIssue (a : At) (unit : Nat) (e : Nat × XErr) : Iss :=
  if State.finalCause e.2.cause then .fault .translation
  else
    let w : WaitF := {
      wid := 0, ctx := a.c, who := .fetch a.room, va := e.1, glob := e.2.glob, cause := e.2.cause, level := e.2.level, pte := e.2.pte
      access := 1, unit := unit, pc := a.pc, lease := a.li }
    .again fun u => (u.addWait w).setHold a.room (.fetch u.mmu.nextWid)

/-- The plan bytes that a RESHARD reads at issue, none while they come from another module (R441). -/
def reshPlan (t : State) (r : Nat) (a : At) (va : Nat) : Except (Nat × XErr) (Option (List Byte) × State) :=
  (t.farRead (.plan r true) a.c (some r) va 64).bind fun h => match h with
    | (none, u) => .ok (none, u)
    | (some head, u) =>
      let n := fieldLe head 4 4
      u.farRead (.plan r false) a.c (some r) va (if n ≤ 2 ^ 20 then 64 + 32 * n else 64)

/-- Places of the journal's bytes in HBM, frame by frame; none where a frame is no HBM of this module (R443). -/
def reshFrames (t : State) (r : Nat) (a : At) (w : TWord) (n : Nat) : Option (List Nat) :=
  (State.vaPieces (t.latch a w.b.toNat).base n).mapM fun y => match t.xlat a.c (some r) y.1 .wr true with
    | .ok (.hbm pa) => some pa
    | _ => none

/-- The journal's physical address, that of its first byte: its frames are taken as one run from there on, since the directory holds one
address (R443). DESIGN CHOICE (log 41). -/
def reshPa (t : State) (r : Nat) (a : At) (w : TWord) : Option Nat := (reshFrames t r a w 1).bind (·.head?)

/-- The journal at `pa` is running this plan (12 R450). -/
def reshSame (t : State) (pa : Nat) (plan : List Byte) : Bool :=
  t.journalState pa = 1 && ((t.journal pa).map fun b => (b.drop 0x20).take 32) = some (sha256 plan)

/-- The checks of a RESHARD's journal and plan (12 R441 to R443, R452). -/
def reshChecks (t : State) (a : At) (w : TWord) (g : Group) (pa : Nat) (plan : List Byte) : List (Bool × FaultCode) :=
  let j := t.latch a w.b.toNat
  let same := reshSame t pa plan
  let busy := t.reshardOn a.c && !(mapGet t.col.reshDir a.c = some pa && same)
  let need := 0x31000 + (64 + 32 * fieldLe plan 4 4) + 8 * g.count
  [(j.fmt ≠ fmtBytes || j.dim0 < need || !((reshFrames t a.room a w need).map (·.all inLedger)).getD false, .descriptor),
    ((Plan.parse plan).bad, .descriptor), (busy || (t.journalState pa = 1 && !same), .reshardPending)]

/-- The journal of a reshard that starts: header, plan and members, round 0, PARK (12 R443, Table 12.5). -/
def reshJournal (t : State) (a : At) (g : Group) (pa : Nat) (plan : List Byte) : State :=
  let mems := g.members.flatMap fun (m, l) => leBytes 4 m ++ leBytes 4 l
  let t1 := t.hbmWrite (pa + 0x31000) (plan ++ mems)
  let t2 := t1.putJournal pa fun b =>
    let b := patch (patchLe (patchLe (patchLe b 8 1 1) 9 1 0) 0xA 1 a.c) 0x20 (sha256 plan)
    let b := patchLe (patchLe (patchLe (patchLe b 0xC 2 g.idx) 0x10 4 0) 0x14 4 g.rank) 0x18 4 g.count
    patchLe (patchLe (patchLe b 0x40 8 (((t.ctx a.c).map (·.d.ptroot)).getD 0)) 0x48 8 0) 0x50 8 t.now
  { t2 with col := { t2.col with reshDir := mapSet t2.col.reshDir a.c (some pa) } }

/-- The RESHARD is in flight and its reshard runs (12 R425, R443, R450). -/
def reshStart (t u : State) (r : Nat) (a : At) (w : TWord) (g : Group) (pa : Nat) (again : Bool) : State :=
  let raw := rawDesc t r a.uid w.b.toNat ++ rawDesc t r a.uid w.c.toNat
  let p := u.jplan pa
  let m : Mover := {
    unit := 5, raw := raw, check := moverCheck 0x62#8 w raw, total := ((p.exts.filter fun e => e.dir = 1).map (·.len)).sum / 4096 }
  let q := u.nextSeq a.c a.li g.idx
  (q.2.pending1 a 0x62 w { Infl.mk0 with descs := [t.latch a w.b.toNat, t.latch a w.c.toNat], mv := some m }).setResh a.c
    (some { ctx := a.c, pa := pa, inst := some (r, a.uid), seq := q.1, again := again, root := g.root })

/-- What a RESHARD whose checks pass makes: a start, or the resumption of its running plan (12 R443, R450). -/
def reshGo (t : State) (r : Nat) (a : At) (w : TWord) (g : Group) (pa : Nat) (plan : List Byte) : State :=
  if reshSame t pa plan then
    reshStart t (t.reshBack pa).1 r a w g pa (t.reshBack pa).2
  else reshStart t (reshJournal t a g pa plan) r a w g pa false

/-- RESHARD at issue: plan and journal checks, then the start or the resumption (12 R441 to R445, R450; 07 R258). -/
def effReshard (r : Nat) (w : TWord) (s : State) : State :=
  s.issue r 0x62#8 w fun a t =>
    checked [(!okTok w || !zeroSel w || !zeroMod w || w.a = 0, .operand), (!okD w.b || !okD w.c, .descriptor)] fun _ =>
      match t.latchGroup a.c a.li w.a true with
      | .error f => .fault f
      | .ok none => .fault .group
      | .ok (some g) =>
        checked [descCheck (t.latch a w.b.toNat), descCheck (t.latch a w.c.toNat)] fun _ =>
          match reshPlan t r a (t.latch a w.c.toNat).base, reshPa t r a w with
          | .error e, _ => waitIssue a 5 e
          | .ok _, none => .fault .descriptor
          | .ok (none, _), some _ => .again fun u => ((reshPlan u r a (t.latch a w.c.toNat).base).map (·.2)).toOption.getD u
          | .ok (some plan, u), some pa => checked (reshChecks u a w g pa plan) fun _ => .ok (reshGo u r a w g pa plan)

/-- The reshard of an instruction. -/
def State.instResh (s : State) (r uid : Nat) : Option Resh := s.col.resh.find? fun x => x.inst = some (r, uid)

/-- A mover resumes; a collective that still forms sends READY again and goes on from the next fragment, a reshard in SEND sends
READY again (08 R297, R299; 12 R436). -/
def effMoverResume (r uid : Nat) (s : State) : State :=
  let (t, on) := moverResumed r uid s
  if !on then t
  else match (s.findInfl r uid).bind (·.col), s.instResh r uid with
    | some o, _ =>
      if o.formed then t.colPump r uid else (((t.colReady r uid).colEarly ((((s.room r).lease).map (·.1)).getD 0) o.group.idx o.seq).colLoad r uid).colPump r uid
    | none, some x => if t.jget x.pa 9 1 = 2 then t.reshReady x (t.jplan x.pa) else t
    | none, none => t

/-! Meanings -/

def execColfragReady (k : Packet) (s : State) := run [bFAB, bCOL] s (s.fragment k 0)
def execColfragPause (k : Packet) (s : State) := run [bFAB, bCOL] s (s.fragment k 1)
def execColfragData (k : Packet) (s : State) := run [bFAB, bCOL] s (s.fragment k 2)
def execMoverResume (r uid : Nat) (s : State) := run [bRoom r] s (s.live (effMoverResume r uid s))

def execTReshard (r : Nat) (w : TWord) (s : State) := run [bRoom r, bCOL] s (effReshard r w s)
def execReshardRound (c : Nat) (s : State) := run [bCOL] s (if s.devState = stSTOPPED then s else s.reshRound c)
def execReshardResume (c : Nat) (s : State) := run [bCOL] s (if s.devState = stSTOPPED then s else s.reshResume c)

end Sys2Proof.Machine
end

