-- ==== Sys2Proof/Machine/Streams.lean ====
section
/-! DEFINITION. The stream registry, the RNG instructions and the draw ledger (07 R253 to R255; 10 R369 to R378). -/

namespace Sys2Proof.Machine

/-- A registry entry (10 Table 10.6). -/
structure RegEntry where
  id : Nat
  live : Bool
  opened : Bool
  closed : Bool
  refs : Nat
  counter : Nat
  start : Nat
  gen : Nat
  startRefs : Nat
  deriving DecidableEq, Repr

def RegEntry.ofBytes (bs : List Byte) : RegEntry :=
  let f := fieldLe bs
  let fl := f 4 2
  { id := f 0 4, live := fl.testBit 0, opened := fl.testBit 1, closed := fl.testBit 2, refs := f 6 2, counter := f 8 8,
    start := f 0x10 8, gen := f 0x18 2, startRefs := f 0x1A 2 }

def RegEntry.bytes (e : RegEntry) : List Byte :=
  let b (x : Bool) (n : Nat) : Nat := if x then n else 0
  leBytes 4 e.id ++ leBytes 2 (b e.live 1 + b e.opened 2 + b e.closed 4) ++ leBytes 2 e.refs ++ leBytes 8 e.counter
    ++ leBytes 8 e.start ++ leBytes 2 e.gen ++ leBytes 2 e.startRefs ++ leBytes 4 0

/-- A free entry keeps its generation. -/
def RegEntry.freed (e : RegEntry) : RegEntry :=
  { e with live := false, opened := false, closed := false }

/-- The registry has 4,096 entries. -/
abbrev regEntries : Nat := 4096

namespace State

def regAddr (s : State) (c i : Nat) : Nat := ((s.ctx c).map (·.d.registry)).getD 0 + 32 * i
/-- A test context's registry is the steward's own (15 R520). -/
def regEntry (s : State) (c i : Nat) : RegEntry := RegEntry.ofBytes (match s.kernel c with
  | some k => k.regs.read (32 * i) 32
  | none => s.ctxRead c (s.regAddr c i) 32)
def putEntry (s : State) (c i : Nat) (e : RegEntry) : State :=
  if (s.kernel c).isSome then s.modKernel c fun k => { k with regs := k.regs.write (32 * i) e.bytes }
  else s.ctxWrite c (s.regAddr c i) e.bytes
/-- Change every entry of the registry. -/
def mapRegistry (s : State) (c : Nat) (f : RegEntry → RegEntry) : State :=
  (List.range regEntries).foldl (fun t i =>
    let e := t.regEntry c i
    if f e = e then t else t.putEntry c i (f e)) s

/-- The entry a handle names: live, not closed, of its generation (10 R370, R371). -/
def handle (s : State) (c : Nat) (h : W64) : Option (Nat × RegEntry) :=
  let n := h.toNat
  let i := n % 4096
  let e := s.regEntry c i
  if n < 2 ^ 28 ∧ e.live ∧ !e.closed ∧ e.gen = n / 4096 then some (i, e) else none

/-- At ADVANCE (10 R373). -/
def registryAdvance (s : State) (c : Nat) : State :=
  s.mapRegistry c fun e =>
    let e1 := { e with start := e.counter, startRefs := e.refs, opened := false }
    if e.closed then e1.freed else e1

/-- At ABORT (10 R373). -/
def registryAbort (s : State) (c : Nat) : State :=
  s.mapRegistry c fun e =>
    let e1 := { e with counter := e.start }
    if e.opened then e1.freed else { e1 with refs := e.startRefs, closed := false }

/-! The draw ledger (10 R376, Table 10.9) -/

def drawCopy (s : State) (c k : Nat) : Nat := s.ledgerOf c + 0x10000 + 0x20000 * k
def drawSeq (s : State) (c k : Nat) : Nat := s.hbmLe (s.drawCopy c k) 8

/-- Write the draw ledger into the copy without the highest SEQ. -/
def writeDraw (s : State) (c step cursor : Nat) : State :=
  let q0 := s.drawSeq c 0
  let q1 := s.drawSeq c 1
  let k := if q0 ≥ q1 ∧ q0 ≠ 0 then 1 else 0
  let a := s.drawCopy c k
  let es := ((List.range regEntries).map (s.regEntry c)).filter (·.live)
  let body := leBytes 8 step ++ leBytes 8 cursor ++ leBytes 4 es.length ++ List.replicate 36 0#8
    ++ es.flatMap fun e => leBytes 4 e.id ++ leBytes 2 e.refs ++ leBytes 2 0 ++ leBytes 8 e.counter
  (s.hbmWrite (a + 8) body).hbmSet a 8 (max q0 q1 + 1)

end State

/-- The entry SOPEN opens or joins, and what it becomes (07 R253; 10 R370, R371): an open stream of the identifier is joined
only when asked for; a new one takes the lowest free entry and its next generation. -/
def State.openEntry (t : State) (c id ctr : Nat) (join : Bool) : Except FaultCode (Nat × RegEntry) :=
  let all := (List.range regEntries).map fun i => (i, t.regEntry c i)
  match all.find? fun x => x.2.live && !x.2.closed && x.2.id = id with
  | some (i, e) =>
    if !join then .error .streamAlias
    else if e.refs ≥ 65535 then .error .streamFull
    else .ok (i, { e with refs := e.refs + 1 })
  | none =>
    match all.find? fun x => !x.2.live with
    | none => .error .streamFull
    | some (i, e) =>
      .ok (i, { id := id, live := true, opened := true, closed := false, refs := 1, counter := ctr, start := ctr,
                gen := (e.gen + 1) % 65536, startRefs := 0 })

/-! Effects -/

def effSopen (r : Nat) (w : TWord) (s : State) : State :=
  s.issue r 0x50#8 w fun a t =>
    checked [(!okTok w || !zeroSel w || w.mod.toNat > 1 || !okS w.b || !okS w.c, .operand)] fun _ =>
      match t.openEntry a.c w.a.toNat (t.sreg r w.b).toNat (w.mod.toNat = 1) with
      | .error f => .fault f
      | .ok (i, e) => .ok (((t.putEntry a.c i e).setSreg r w.c (BitVec.ofNat 64 (i + 4096 * e.gen))).pending1 a 0x50 w
          { Infl.mk0 with ready := true })

/-- Store bytes over the element data of a tensor, row by row. -/
def storeRows (d : Desc) (m : Mem) (bs : List Byte) : Mem :=
  (List.range d.rows).foldl (fun m row => m.write (pantOff d.base + d.rowOff row) ((bs.drop (row * d.rowBytes)).take d.rowBytes)) m

/-- The outputs of counters k to k + n − 1, modulo 2^64 (10 R346, R372). -/
def drawBytes (key id k n : Nat) : List Byte :=
  (List.range n).flatMap fun j => leBytes 16 (gen key 0 id ((k + j) % 2 ^ 64)).toNat

/-- The checks of a DRAW's destination (07 R254). -/
def drawChecks (d : Desc) (n : Nat) : List (Bool × FaultCode) :=
  [descCheck d, (d.fmt ≠ fmtBytes, .format),
    (d.global || !Desc.ownPantry d.base || d.elems * d.bits / 8 < 16 * n, .descriptor)]

def effDraw (r : Nat) (w : TWord) (s : State) : State :=
  s.issue r 0x51#8 w fun a t =>
    let n := w.c.toNat
    checked [(!okTok w || !zeroSel w || !zeroMod w || !okS w.a || n = 0 || n > 65536, .operand), (!okD w.b, .descriptor)] fun _ =>
      let d := t.latch a w.b.toNat
      match t.handle a.c (t.sreg r w.a) with
      | none => .fault .streamClosed
      | some (i, e) =>
        checked (drawChecks d n) fun _ =>
          let key := t.jobKey a.c
          let t1 := t.putPantry r a.uid d.ranges (storeRows d (t.room r).pantry (drawBytes key e.id e.counter n))
          let t2 := t1.putEntry a.c i { e with counter := (e.counter + n) % 2 ^ 64 }
          .ok (t2.pending1 a 0x51 w { Infl.mk0 with descs := [d], ready := true, writes := d.ranges })

def effRewind (r : Nat) (w : TWord) (s : State) : State :=
  s.issue r 0x52#8 w fun a t =>
    checked [(!okTok w || !zeroSel w || !zeroMod w || !okS w.a || !okS w.b || w.c ≠ 0, .operand)] fun _ =>
      match t.handle a.c (t.sreg r w.a) with
      | none => .fault .streamClosed
      | some (i, e) => .ok ((t.putEntry a.c i { e with counter := (t.sreg r w.b).toNat }).pending1 a 0x52 w { Infl.mk0 with ready := true })

def effSclose (r : Nat) (w : TWord) (s : State) : State :=
  s.issue r 0x53#8 w fun a t =>
    checked [(!okTok w || !zeroSel w || !zeroMod w || !okS w.a || w.b ≠ 0 || w.c ≠ 0, .operand)] fun _ =>
      match t.handle a.c (t.sreg r w.a) with
      | none => .fault .streamClosed
      | some (i, e) =>
        .ok ((t.putEntry a.c i { e with refs := e.refs - 1, closed := decide (e.refs ≤ 1) }).pending1 a 0x53 w { Infl.mk0 with ready := true })

def effStell (r : Nat) (w : TWord) (s : State) : State :=
  s.issue r 0x54#8 w fun a t =>
    checked [(!okTok w || !zeroSel w || !zeroMod w || !okS w.a || !okS w.b || w.c ≠ 0, .operand)] fun _ =>
      match t.handle a.c (t.sreg r w.a) with
      | none => .fault .streamClosed
      | some (_, e) => .ok ((t.setSreg r w.b (BitVec.ofNat 64 e.counter)).pending1 a 0x54 w { Infl.mk0 with ready := true })

/-! Meanings -/

def execTSopen (r : Nat) (w : TWord) (s : State) := run [bRoom r, bRNG] s (effSopen r w s)
def execTDraw (r : Nat) (w : TWord) (s : State) := run [bRoom r, bRNG] s (effDraw r w s)
def execTRewind (r : Nat) (w : TWord) (s : State) := run [bRoom r, bRNG] s (effRewind r w s)
def execTSclose (r : Nat) (w : TWord) (s : State) := run [bRoom r, bRNG] s (effSclose r w s)
def execTStell (r : Nat) (w : TWord) (s : State) := run [bRoom r, bRNG] s (effStell r w s)

end Sys2Proof.Machine
end

