-- ==== Sys2Proof/Machine/Vintner.lean ====
section
/-! DEFINITION. The statistics publish, the decision at a step boundary, the precision budget, the swap and the ladder
mirror, and the PRC instructions (05 R167 to R184; 07 R259 to R261; 20 R662). -/

namespace Sys2Proof.Machine

/-! Reduced records (R164, R167) -/

/-- Fields of a statistics record that reduce: offset, bytes, by maximum (Tables 4.6, 5.3). -/
def statFields : List (Nat × Nat × Bool) :=
  ((List.range 16).map fun i => (8 * i, 8, false)) ++ [(0x80, 4, true), (0x84, 4, false)]
    ++ (List.range 16).map fun i => (0x90 + 4 * i, 4, false)

/-- Two records reduced into one. -/
def statAdd (a b : List Byte) : List Byte :=
  statFields.foldl (fun r (o, n, mx) =>
    let x := fieldLe a o n
    let y := fieldLe b o n
    patchLe r o n (if mx then max x y else x + y)) a

/-- The record of a key in a list, all zero when absent. -/
def statOf (l : List (Nat × List Byte)) (k : Nat) : List Byte :=
  ((l.find? fun x => x.1 = k).map (·.2)).getD (List.replicate 256 0#8)

/-! One wing's evaluation (R171 to R178) -/

def sat32 (n : Nat) : Nat := min n (2 ^ 32 - 1)

/-- mse, sat and taste of a reduced record. -/
def measures (r : List Byte) : List Nat :=
  let f := fieldLe r
  let q (a b : Nat) : Nat := if b = 0 then 0 else sat32 (a / b)
  [q (f 0x70 8) (f 0x68 8), q ((f 0x18 8 + f 0x60 8) * 2 ^ 32) (f 0 8), q (f 0x78 8) (f 0x50 8)]

/-- Factors of Table 5.1 by ladder and rung. -/
def timeFactor (l r : Nat) : Nat := (if l = 0 then [1, 2, 4, 8] else [3, 5, 5, 30]).getD r 0
def memFactor (l r : Nat) : Nat := (if l = 0 then [2, 4, 8, 16] else [8, 12, 16, 32]).getD r 0

/-- A ladder is not steered: PIN, or forward under SENS (R160, R161). -/
def pinned (e : BitVec 128) (l : Nat) : Bool := entBits e (ePin l) 1 = 1 || (l = 0 && entBits e 15 1 = 1)

/-- Time and memory cost of a ladder above its floor (R175). -/
def ladderCost (e : BitVec 128) (l : Nat) : Nat × Nat :=
  let r := entBits e (eRung l) 2
  let f := entBits e (eFloor l) 2
  (entBits e (eTwork l) 16 * (timeFactor l r - timeFactor l f), entBits e (eMelem l) 16 * (memFactor l r - memFactor l f))

/-- What one ladder's measures ask for. -/
inductive Ask where
  | none | down | up (severity : Nat) | ceil
  deriving DecidableEq, Repr

/-- Counters of one ladder after its measures, and what it asks for (R171, R172). -/
def ladderStep (pol : List Byte) (ms : List Nat) (e : BitVec 128) (l : Nat) : BitVec 128 × Ask :=
  let th (i : Nat) : Nat := fieldLe pol (8 + 24 * l + 4 * i) 4
  let k := if fieldLe pol 0 1 = 0 then 2 else fieldLe pol 0 1
  let m := if fieldLe pol 2 2 = 0 then 256 else fieldLe pol 2 2
  let idx := ms.zipIdx
  let breach := idx.any fun (x, i) => x > th (2 * i)
  let quiet := idx.all fun (x, i) => x ≤ th (2 * i + 1)
  let rung := entBits e (eRung l) 2
  if breach then
    let b := min (entBits e (eBcnt l) 4 + 1) 15
    let e1 := entSet (entSet e (eQcnt l) 12 0) (eBcnt l) 4 b
    if rung ≥ entBits e (eCeil l) 2 then (e1, .ceil)
    else if b ≥ k then
      (e1, .up ((idx.map fun (x, i) => if th (2 * i) = 0 then 2 ^ 32 - 1 else x * 65536 / th (2 * i)).foldl max 0))
    else (e1, .none)
  else if quiet then
    let q := min (entBits e (eQcnt l) 12 + 1) 4095
    let e1 := entSet (entSet e (eBcnt l) 4 0) (eQcnt l) 12 q
    if q ≥ m ∧ rung > entBits e (eFloor l) 2 then (e1, .down) else (e1, .none)
  else (entSet (entSet e (eBcnt l) 4 0) (eQcnt l) 12 0, .none)

/-- RW bits of a ladder entry (05 Table 5.7). -/
def ladderRw : Nat := 0xFFFFFFFFFFFFFFFF * 2 ^ 64 + 0xFF7F

/-- A wing's result: entries by layer, spend, refused requests and breaches at a ceiling. -/
structure EvalOut where
  ents : List (BitVec 128)
  time : Nat
  mem : Nat
  denied : Nat
  ceil : Nat
  deriving DecidableEq, Repr

/-- Grant requests in order until one does not fit (R176, R182). -/
def grant (bt bm : Nat) : List (Nat × Nat × Nat) → List (BitVec 128) → Nat → Nat → List (BitVec 128) × Nat × Nat × Nat
  | [], es, t, m => (es, t, m, 0)
  | (sv, layer, l) :: rest, es, t, m =>
    let e := es.getD layer 0
    let r := entBits e (eRung l) 2
    let dt := entBits e (eTwork l) 16 * (timeFactor l (r + 1) - timeFactor l r)
    let dm := entBits e (eMelem l) 16 * (memFactor l (r + 1) - memFactor l r)
    if (bt = 0 ∧ bm = 0) ∨ t + dt > bt ∨ m + dm > bm then (es, t, m, ((sv, layer, l) :: rest).length)
    else
      let e1 := entSet (entSet (entSet e (eRung l) 2 (r + 1)) (eBcnt l) 4 0) (eQcnt l) 12 0
      grant bt bm rest (es.set layer e1) (t + dt) (m + dm)

def evalWing (pol : List Byte) (recs : List (Nat × List Byte)) (ents : List (BitVec 128)) : EvalOut :=
  let keys := (List.range ents.length).flatMap fun i => [(i, 0), (i, 1)]
  let (es, asks) := keys.foldl (fun (acc : List (BitVec 128) × List (Nat × Nat × Ask)) (i, l) =>
    let e := acc.1.getD i 0
    if pinned e l then acc
    else
      let (e1, a) := ladderStep pol (measures (statOf recs (2 * i + l))) e l
      (acc.1.set i e1, acc.2 ++ [(i, l, a)])) (ents, [])
  let downs := asks.filter fun x => x.2.2 = .down
  let es1 := downs.foldl (fun v (i, l, _) =>
    let e := v.getD i 0
    v.set i (entSet (entSet e (eRung l) 2 (entBits e (eRung l) 2 - 1)) (eQcnt l) 12 0)) es
  let cost := (es1.flatMap fun e => [ladderCost e 0, ladderCost e 1])
  let reqs := (asks.filterMap fun (i, l, a) => match a with
    | .up sv => some (sv, i, l)
    | _ => none).mergeSort fun a b => a.1 ≥ b.1
  let (es2, t, m, den) := grant (fieldLe pol 0x40 8) (fieldLe pol 0x48 8) reqs es1 (cost.map (·.1)).sum (cost.map (·.2)).sum
  { ents := es2, time := t, mem := m, denied := den, ceil := (asks.filter fun x => x.2.2 = .ceil).length }

namespace State

def polAt (s : State) (c : Nat) : Nat := ((s.ctx c).map (·.d.policy)).getD 0

/-- A context's entries in a table. -/
def rangeEnts (s : State) (c : Nat) (t : List (Nat × BitVec 128)) : List (BitVec 128) :=
  (List.range (s.ladSize c)).map fun i => entGet t (s.ladIdx c i)
def putEnts (s : State) (c : Nat) (t : List (Nat × BitVec 128)) (es : List (BitVec 128)) : List (Nat × BitVec 128) :=
  es.zipIdx.foldl (fun u (e, i) => entPut u (s.ladIdx c i) e) t

def modVnt (s : State) (c : Nat) (f : VntEval → VntEval) : State := s.modCtx c fun x => { x with vnt := f x.vnt }
def vntOf (s : State) (c : Nat) : VntEval := ((s.ctx c).map (·.vnt)).getD {}

/-- The publish acts: records and PEND bits are reduced, the records cleared (R164, R167; 04 R129). A second publish of a
step adds to the first (log 18). -/
def publish (s : State) (c : Nat) (peers : List PeerStats) : State :=
  let n := 2 * s.ladSize c
  let base := ((s.ctx c).map (·.d.stats)).getD 0
  let own := (List.range n).map fun k => (k, s.ctxRead c (base + 256 * k) 256)
  let red := own.map fun (k, r) => (k, peers.foldl (fun a p => statAdd a (statOf p.stats k)) r)
  let old : VntEval := if (s.vntOf c).finished then {} else s.vntOf c
  let red := if old.published then red.map fun (k, r) => (k, statAdd (statOf old.reduced k) r) else red
  let s1 := peers.foldl (fun t p => p.pend.foldl (fun u (b, j) =>
    if (u.hdir c).any fun x => x.1 = b ∧ j < x.2 then
      let e := u.ctxLe c (b + 2 * j) 2
      u.ctxSetLe c (b + 2 * j) 2 (if e / 8 % 2 = 1 then e else e + 8)
    else u) t) s
  let s2 := s1.ctxWrite c base (List.replicate (256 * n) 0#8)
  s2.modVnt c fun _ => { old with reduced := red, published := true, done := false, firmware := false, policy := s2.ctxRead c (s2.polAt c) 128 }

/-- Write SPENT_TIME and SPENT_MEM (R175). -/
def putSpend (s : State) (c time mem : Nat) : State := s.ctxWrite c (s.polAt c + 0x50) (leBytes 8 time ++ leBytes 8 mem)

/-- Write an evaluation's result: spend, refusals and the event (R175, R177, log 18). -/
def evalWrite (s : State) (c : Nat) (o : EvalOut) : State :=
  let p := s.polAt c
  let s1 := (s.putSpend c o.time o.mem).ctxSetLe c (p + 0x60) 4 o.denied
  if o.denied > 0 then s1.postEvent c evBUDGET else s1

/-- Put result entries into a wing's pending copy. -/
def putPend (s : State) (c w : Nat) (es : List (BitVec 128)) : State :=
  s.modWing w fun v => { v with pend := s.putEnts c v.pend es }

/-- An image's RW fields over an entry of a table (R184). -/
def setRw (l : List (Nat × BitVec 128)) (i img : Nat) : List (Nat × BitVec 128) :=
  let e := entGet l i
  entPut l i ((e &&& ~~~(BitVec.ofNat 128 ladderRw)) ||| BitVec.ofNat 128 (img &&& ladderRw))

/-- Each wing evaluates (R169, R171). A second evaluation of a step starts from the entries the first one kept, with the LSETs since. -/
def evaluate (s : State) (c : Nat) : State :=
  let v := s.vntOf c
  if !v.published ∨ v.done ∨ v.firmware then s
  else
    let from' (w : Nat) : List (Nat × BitVec 128) := v.lsets.foldl (fun t x => setRw t x.1 x.2) (v.kept.getD w (s.wing w).pend)
    let kept := [from' 0, from' 1]
    let o0 := evalWing v.policy v.reduced (s.rangeEnts c (from' 0))
    let o1 := evalWing v.policy v.reduced (s.rangeEnts c (from' 1))
    let s1 := ((s.regCount (rVNT_STATUS 0) 4 12 o0.ceil).regCount (rVNT_STATUS 1) 4 12 o1.ceil).modVnt c fun x => { x with kept := kept, lsets := [] }
    if o0 = o1 then
      (((s1.putPend c 0 o0.ents).putPend c 1 o1.ents).evalWrite c o0).modVnt c fun x => { x with done := true }
    else
      ((((s1.regCount (rVNT_STATUS 0) 24 8 1).regCount (rVNT_STATUS 1) 24 8 1).postEvent c evDIVERGE).immediate).modVnt c fun x =>
        { x with firmware := true }

/-- The steward's evaluation of the same boundary replaces both wings' results (R169); it works from the west wing's copy, and LSETs
since the wings evaluated stand over its result (log 18). -/
def evaluateFirmware (s : State) (c : Nat) : State :=
  let v := s.vntOf c
  if !v.firmware then s
  else
    let o := evalWing v.policy v.reduced (s.rangeEnts c (v.kept.getD 0 []))
    let s1 := (s.putPend c 0 o.ents).putPend c 1 o.ents
    let again (t : Vnt) : Vnt := { t with pend := v.lsets.foldl (fun l x => setRw l x.1 x.2) t.pend }
    (((s1.modWing 0 again).modWing 1 again).evalWrite c o).modVnt c fun x => { x with firmware := false, done := true }

/-- An evaluation of the context is still running. -/
def evaluating (s : State) (c : Nat) : Bool := (s.vntOf c).published && !(s.vntOf c).done

/-- The ladder mirror's 68 KiB (20 R662): CHECK covers the whole mirror (log 18). -/
def mirrorBytes (s : State) (c : Nat) : List Byte :=
  let es := s.rangeEnts c (s.wing 0).cur
  let body := leBytes 4 (s.lndOf c).toNat ++ leBytes 4 (s.epoch c) ++ leBytes 4 es.length ++ List.replicate 4084 0#8
    ++ (es.flatMap fun e => leBytes 16 e.toNat) ++ List.replicate (65536 - 16 * es.length) 0#8
  patchLe body 0xC 4 (sha32 body)

def writeMirror (s : State) (c : Nat) : State := s.hbmWrite (s.ledgerOf c + 0x120000) (s.mirrorBytes c)

/-- The pending copy becomes current; the spend is written; the epoch moves on when a rung changes; the mirror is written (R170, R174,
R175, R179; 20 R662). -/
def swapLadders (s : State) (c : Nat) : State :=
  let v := s.vntOf c
  let s0 := if v.published then s else (s.regCount (rVNT_STATUS 0) 16 8 1).regCount (rVNT_STATUS 1) 16 8 1
  let rungs (t : List (Nat × BitVec 128)) : List (Nat × Nat) := (s.rangeEnts c t).map fun e => (entBits e 0 2, entBits e 8 2)
  let new := s.rangeEnts c (s.wing 0).pend
  let changed := rungs (s.wing 0).cur ≠ rungs (s.wing 0).pend
  let moves := (((rungs (s.wing 0).cur).zip (rungs (s.wing 0).pend)).filter fun x => x.1 ≠ x.2).length
  let s1 := (s0.modWing 0 fun t => { t with cur := s.putEnts c t.cur new }).modWing 1 fun t =>
    { t with cur := s.putEnts c t.cur (s.rangeEnts c t.pend) }
  let e := (s.epoch c + 1) % 65536
  let s2 := if changed then
      ((s1.setRegBits (rVNT_EPOCH 0 c) 0 16 e).setRegBits (rVNT_EPOCH 1 c) 0 16 e).lifeAdd lfRung 0 moves
    else s1
  let cost := new.flatMap fun x => [ladderCost x 0, ladderCost x 1]
  let s3 := s2.putSpend c (cost.map (·.1)).sum (cost.map (·.2)).sum
  (s3.modVnt c fun x => { x with published := false, done := false, firmware := false, finished := true }).writeMirror c

end State

/-! PRC instructions (07 R259 to R261) -/

/-- Every room of a launch has arrived at a hold with its earlier instructions complete (06 R211). -/
def State.arrived (s : State) (c sl : Nat) (p : Hold → Bool) : Bool :=
  s.allRooms c sl fun x => x.seqr.launch = some (c, sl) && p x.seqr.hold && x.infl.isEmpty

/-- A lease index lies in the range of the launch that a room runs. -/
def State.inLaunch (t : State) (r li : Nat) : Bool :=
  match (t.room r).seqr.launch with
  | some (c, sl) => ((t.launch c sl).map fun l => decide (l.lr.first ≤ li) && decide (li < l.lr.first + l.lr.count)).getD false
  | none => false

/-- The group of a PUBLISH or an STP: the room that the member record names checks it for the launch (12 R421; 13 R459). A record that
names no room of the launch, or a RANK without a record, leaves nobody to join: every room raises GROUP. -/
def State.joinGroup (t : State) (a : At) (x : W32) : Option FaultCode :=
  if !okG x then some .operand
  else if x.toNat = 0 then none
  else if x.toNat > 1024 then some .group
  else
    let e := t.readGroup a.c x.toNat
    match e.1.members[e.1.rank]? with
    | none => some .group
    | some (_, l) => if (l = a.li && t.groupBad e a.li true) || !t.inLaunch a.room l then some .group else none

def effPublish (r : Nat) (w : TWord) (s : State) : State :=
  s.issue r 0x70#8 w fun a t =>
    checked [(!okTok w || !zeroSel w || !zeroMod w || w.b ≠ 0 || w.c ≠ 0, .operand)] fun _ =>
      match t.joinGroup a w.a with
      | some f => .fault f
      | none => .ok (t.holdFor r a.pc w (.publish w.a.toNat))

/-- A room is held at a PUBLISH. -/
def Hold.isPublish : Hold → Bool
  | .publish _ => true
  | _ => false

/-- Every room of the launch has arrived: the publish acts once and the rooms go on (R260). -/
def effPublishAct (c sl : Nat) (peers : List PeerStats) (s : State) : State :=
  if !s.arrived c sl Hold.isPublish then s
  else (s.publish c peers).releaseRooms c sl fun x => x.seqr.launch = some (c, sl) && Hold.isPublish x.seqr.hold

def effLquery (r : Nat) (w : TWord) (s : State) : State :=
  s.issue r 0x71#8 w fun a t =>
    let n := w.b.toNat
    checked [(!okTok w || !zeroSel w || !zeroMod w || n = 0 || n > 4096 || w.a.toNat + n > t.ladSize a.c || !okP w.c 16 (16 * n), .operand)] fun _ =>
      let bs := (List.range n).flatMap fun i => leBytes 16 (t.ladder a.c (w.a.toNat + i)).toNat
      .ok ((t.pantStore r a.uid w.c.toNat bs).pending1 a 0x71 w { Infl.mk0 with ready := true })

/-- An entry image breaks a rule of R161 or R184. -/
def badLadder (e : BitVec 128) : Bool :=
  [0, 1].any (fun l =>
    let r := entBits e (eRung l) 2
    let f := entBits e (eFloor l) 2
    let k := entBits e (eCeil l) 2
    decide (r < f ∨ r > k ∨ f > k))
  || (entBits e 15 1 = 1 && decide (entBits e (eFloor 1) 2 < 2))

/-- The RW fields of a table entry become an image's, in the pending copy of both wings (05 R174, R184). What the wings evaluated stays as
it was (R169). -/
def State.putLadder (t : State) (c i img : Nat) : State :=
  let up (v : Vnt) : Vnt := { v with pend := State.setRw v.pend i img }
  let t2 := ((t.modWing 0 up).modWing 1 up).modVnt c fun v =>
    if v.kept.isEmpty || v.finished then v else { v with lsets := v.lsets ++ [(i, img)] }
  { t2 with free := t2.free + 1 }

def effLset (r : Nat) (w : TWord) (s : State) : State :=
  s.issue r 0x72#8 w fun a t =>
    checked [(!okTok w || !zeroSel w || !zeroMod w || w.c ≠ 0 || w.a.toNat ≥ t.ladSize a.c || !okP w.b 16 16, .operand)] fun _ =>
      let img := t.pantLe r a.uid w.b.toNat 16
      if badLadder (BitVec.ofNat 128 img) then .fault .format
      else .ok ((t.putLadder a.c (t.ladIdx a.c w.a.toNat) img).pending1 a 0x72 w { Infl.mk0 with ready := true })

def effBudget (r : Nat) (w : TWord) (s : State) : State :=
  s.issue r 0x73#8 w fun a t =>
    checked [(!okTok w || !zeroSel w || !zeroMod w || !okS w.a || !okS w.b || w.c ≠ 0, .operand)] fun _ =>
      let t1 := t.ctxWrite a.c (t.polAt a.c + 0x40) (leBytes 8 (t.sreg r w.a).toNat ++ leBytes 8 (t.sreg r w.b).toNat)
      .ok (t1.pending1 a 0x73 w { Infl.mk0 with ready := true })

/-! Meanings -/

abbrev vntBlocks (r : Nat) : List Nat := [bRoom r, bVNTW, bVNTE]

def execTPublish (r : Nat) (w : TWord) (s : State) := run (vntBlocks r) s (effPublish r w s)
def execPublishAct (c sl : Nat) (peers : List PeerStats) (s : State) := run [bVNTW, bVNTE] s (s.live (effPublishAct c sl peers s))
def execTLquery (r : Nat) (w : TWord) (s : State) := run (vntBlocks r) s (effLquery r w s)
def execTLset (r : Nat) (w : TWord) (s : State) := run (vntBlocks r) s (effLset r w s)
def execTBudget (r : Nat) (w : TWord) (s : State) := run (vntBlocks r) s (effBudget r w s)
def execVintnerEvaluate (c : Nat) (s : State) := run [bVNTW, bVNTE] s (s.live (s.evaluate c))
def execVintnerFirmwareEval (c : Nat) (s : State) := run [bVNTW, bVNTE] s (s.live (s.evaluateFirmware c))

end Sys2Proof.Machine
end

