-- ==== Sys2Proof/Machine/Steps.lean ====
section
/-! DEFINITION. The STP instructions and the phases of a training step (07 R262 to R264; 13 R458 to R483; 14 R510 to
R512). -/

namespace Sys2Proof.Machine

/-- Kinds of STP: 0 CHECK, 1 COMMIT, 2 ADVANCE, 3 ABORT. -/
abbrev kCHECK : Nat := 0
abbrev kCOMMIT : Nat := 1
abbrev kADVANCE : Nat := 2
abbrev kABORT : Nat := 3

namespace State

/-- Physical address of the open step's record, when it is the open step's. -/
def stepVerdict (s : State) (c : Nat) : Nat :=
  let n := (s.stepHdr c).step
  let a := s.stepRec c n
  if s.hbmLe a 8 = n then s.hbmLe (a + 8) 8 else 0

/-- The order of the phases as the header holds it (07 R264; 13 R466, R468, R481). -/
def badPhase (s : State) (c kind : Nat) (step : W64) : Bool :=
  let h := s.stepHdr c
  step.toNat ≠ h.step
  || (match kind with
      | 0 => h.phase ≠ phOPEN || h.flags % 2 = 1
      | 1 => h.phase ≠ phCHECKED || h.flags % 2 = 1 || s.stepVerdict c ≠ 0
      | 2 => h.phase ≠ phCOMMITTING
      | _ => h.phase ≠ phOPEN && h.phase ≠ phCHECKED)

/-- The loss tensor of a room; a SENT_DESC of 4,096 or more names no descriptor (R467). -/
def lossDesc (s : State) (c r : Nat) : Desc :=
  Desc.parse (fun o => (s.room r).pantry.nat o) (descTab + 128 * ((s.stepHdr c).sentDesc % 4096))
/-- A room's loss tensor breaks R467. -/
def badLoss (s : State) (c r : Nat) : Bool :=
  let d := s.lossDesc c r
  (s.stepHdr c).sentDesc ≥ 4096 || d.check.isSome || d.fmt ≠ fmtFP32 || d.global || !Desc.ownPantry d.base

end State

/-- Operands of an STP: SKIP is ABORT's, the verdict scalar CHECK's (07 Table 7.13). -/
def stpOperandsOk (kind : Nat) (w : TWord) : Bool :=
  okTok w && zeroSel w && (if kind = kABORT then decide (w.mod.toNat ≤ 1) else w.mod = 0) && okS w.b
    && (if kind = kCHECK then okS w.c else w.c = 0)

/-- Issue of an STP: the room is held at the step group (R262, R459). -/
def effStp (op : Byte) (kind : Nat) (r : Nat) (w : TWord) (s : State) : State :=
  s.issue r op w fun a t =>
    checked [(!stpOperandsOk kind w, .operand)] fun _ =>
      match t.joinGroup a w.a with
      | some f => .fault f
      | none =>
        let step := t.sreg r w.b
        checked [(t.reshardOn a.c, .reshardPending), (t.badPhase a.c kind step, .phase),
          (kind = kCHECK && t.badLoss a.c r, .descriptor)] fun _ =>
          .ok (t.holdFor r a.pc w (.stp kind w.a.toNat step.toNat w.c.toNat (w.mod = 1)))

/-- A room is held at an STP of this kind. -/
def Hold.isStp (kind : Nat) : Hold → Bool
  | .stp k _ _ _ _ => k = kind
  | _ => false

namespace State

def stpArrived (s : State) (c sl kind : Nat) : Bool := s.arrived c sl (Hold.isStp kind)
def releaseStp (s : State) (c sl kind : Nat) : State :=
  s.releaseRooms c sl fun x => x.seqr.launch = some (c, sl) && Hold.isStp kind x.seqr.hold
/-- Rooms of ADVANCE and ABORT wait for the swap acknowledgement (05 R180). -/
def toSwapAck (s : State) (c sl kind : Nat) : State :=
  (s.launchRooms c sl).foldl (fun t r => if Hold.isStp kind (t.room r).seqr.hold then t.setHold r .swapAck else t) s

def phaseTrace (s : State) (c kind verdict step : Nat) : State :=
  s.trace isMgmt 0 tyPHASE (some c) (leBytes 1 (0x80 + kind) ++ leBytes 1 verdict ++ leBytes 6 0 ++ leBytes 8 step)

/-! CHECK (Table 13.4) -/

/-- Trip bits of a room. -/
def tripOf (s : State) (c r : Nat) : Nat :=
  let h := s.stepHdr c
  let d := s.lossDesc c r
  let v := s.view r (s.room r).nextUid d
  let els := (List.range d.rows).flatMap fun row => (List.range d.dim0).map fun i => v.exact row i
  (if h.sentMode.testBit 0 && els.any (fun x => !x.isFin) then 1 else 0)
    + (if h.sentMode.testBit 1 && els.any (fun x => fvLt (decFp32 (BitVec.ofNat 32 h.lossMax)) x) then 2 else 0)
    + (if h.sentMode.testBit 2 && (s.room r).invStep then 4 else 0)

/-- Delivered slots this module reports, those that the open record's FULL bits name (10 R366; 14 R505): at fanout position 0 of its trainer only, and none for a
dropped micro-batch. -/
def ownDelivered (s : State) (c : Nat) : Option Nat :=
  let (fanout, trainers) := ((s.ctx c).map (·.tgroup)).getD (1, [])
  match s.fab.num.bind fun m => trainers.findIdx? (· = m) with
  | none => none
  | some i =>
    if i % fanout ≠ 0 then none
    else
      let mine := (trainers.drop i).take fanout
      let own := s.groupMods c (s.protLe c 0x14 2)
      if s.prot c ∧ s.protLe c 0x30 8 = (s.stepHdr c).step ∧ mine.all own.contains then some 0
      else some (((s.openSample c).map fun a => ((List.range 512).filter (s.hbmLe (a + 0x40) 64).testBit).length).getD 0)

/-- Module numbers of this module's replica. -/
def ownReplica (s : State) (c : Nat) : List Nat :=
  if s.prot c then s.groupMods c (s.protLe c 0x14 2) else []

/-- A minority member fetches its digest set again from a majority member (14 R511). -/
def startRebuild (s : State) (c src : Nat) (want : List Byte) (more : List (Nat × List Byte) := []) : State :=
  let ps := s.winPieces c src (s.protRanges c 1 true)
  let s1 := s.modCtx c fun x => { x with
    rebuild := if ps.isEmpty then none else some { src := src, want := want, left := ps.length, more := more } }
  ps.foldl (fun t p => t.request (.rebuild c p.1) { op := opREAD, dst := src, addr := p.2.1, arg := p.2.2 }) s1

/-- This module was in the minority at a COMMITS; twice within 1,024 commits it reports itself (R511). -/
def inMinority (s : State) (c : Nat) : State :=
  let cm := (s.stepHdr c).commits
  let past := ((s.ctx c).map (·.minority)).getD []
  let s1 := s.modCtx c fun x => { x with minority := cm :: past }
  if past.any fun p => cm - p ≤ 1024 then s1.suspectSelf sxDIGEST else s1

/-- The members of a group above a rank in turn, wrapping: rank and module. -/
def membersAbove (g : Group) : List (Nat × Nat) :=
  (List.range (g.count - 1)).filterMap fun i => let rk := (g.rank + 1 + i) % g.count; g.members[rk]?.map fun m => (rk, m.1)

/-- The digest comparison (14 R510 to R512): verdict bit [2] and what follows from it; with no majority a second time, after the quick
tests, the context accepts no launch. -/
def digestCheck (s : State) (c : Nat) (peers : List PeerCheck) : Bool × State :=
  if !s.digestDue c then (false, s)
  else
    let g := (s.readGroup c (s.protLe c 0x12 2)).1
    let own := (((s.ctx c).bind (·.digest)).getD [])
    let all := (g.rank, own) :: peers.filterMap (·.digest)
    let differ := all.any fun x => x.2 ≠ own
    let again := ((s.ctx c).map (·.retake)).getD false
    let s := s.modCtx c fun x => { x with retake := false }
    if !differ then (peers.any (·.digestBad), s)
    else
      let n := all.length
      let votes (d : List Byte) : Nat := (all.filter fun x => x.2 = d).length
      match all.find? fun x => 2 * votes x.2 > n with
      | none => (true, s.modCtx c fun x => if again then { x with noLaunch := true } else { x with needQuick := true, roots := all })
      | some (_, win) =>
        let modOf (rk : Nat) : Nat := (g.members[rk]?.map (·.1)).getD 0
        let s1 := s.postEvent c evDIGEST
        let s2 := (all.filter fun x => x.2 ≠ win).foldl (fun t x => t.report (modOf x.1) sxDIGEST 1) s1
        if own = win then (true, s2)
        else
          let s4 := s2.inMinority c
          match (membersAbove g).filter fun x => all.any fun y => y.1 = x.1 ∧ y.2 = win with
          | (_, m) :: _ => (true, s4.startRebuild c m win)
          | [] => (true, s4)

/-- CHECK may act: the digest of a due step is there, no rebuild and no quick test is open, and the step's replays have
ended (14 R510 to R512; 15 R540). -/
def checkReady (s : State) (c : Nat) : Bool :=
  match s.ctx c with
  | none => false
  | some x =>
    (!s.digestDue c || x.digest.isSome) && x.rebuild.isNone && !x.needQuick
      && (x.evidOver || !(s.tst.replays.any fun p => p.ctx = c && p.step = (s.stepHdr c).step))

/-- The open step's record begins afresh when its place still holds another step's (R460; log 18). -/
def freshRec (s : State) (c : Nat) : State :=
  let n := (s.stepHdr c).step
  let a := s.stepRec c n
  if s.hbmLe a 8 = n then s else s.hbmWrite a (leBytes 8 n ++ List.replicate 248 0#8)

/-- CHECK acts (Table 13.4). -/
def check (s : State) (c sl : Nat) (peers : List PeerCheck) : State :=
  let h := s.stepHdr c
  let rs := s.launchRooms c sl
  let trip := rs.foldl (fun m r => m ||| s.tripOf c r) 0
  let a := s.stepRec c h.step
  let s1 := s.freshRec c
  let loss := match ((s.ctx c).map (·.rooms)).getD [] with
    | r :: _ =>
      let v := s.view r (s.room r).nextUid (s.lossDesc c r)
      v.code 0 0
    | [] => 0
  let s2 := ((s1.hbmSet (a + 0x34) 4 trip).hbmSet (a + 0x28) 2 (s1.hbmLe (a + 0x28) 2 + 1)).hbmSet (a + 0x30) 4 loss
  let mism := (((s.ctx c).map (·.mismatch)).getD false) || peers.any (·.mismatch)
  let dead := (((s.ctx c).map (·.deadline)).getD false) || peers.any (·.deadline)
  let (dig, s3) := s2.digestCheck c peers
  let verdict := (if trip ≠ 0 ∨ (peers.any fun p => p.trip ≠ 0) then 1 else 0) + (if mism then 2 else 0)
    + (if dig then 4 else 0) + (if dead then 8 else 0)
  let own := s.ownDelivered c
  let used := own.getD 0 + (peers.filterMap (·.delivered)).sum
  let parts := (own.map fun n => (s.ownReplica c, n)).toList ++ peers.filterMap fun p => p.delivered.map fun n => (p.replica, n)
  let s4 := (s3.modCtx c fun x => { x with delivered := parts })
  let s5 := match s4.openSample c with
    | none => s4
    | some q =>
      let t := s4.hbmSet (q + 0x18) 4 used
      if used < s4.hbmLe (q + 0x10) 8 then (t.postEvent c evSHORTFALL).regCount rRCK_STATUS 16 8 1 else t
  let s6 := ((s5.hbmSet (a + 8) 8 verdict).hbmSet (a + 0x10) 8 s.now).setPhase c phCHECKED
  let s7 := rs.foldl (fun t r => match (t.room r).seqr.hold with
    | .stp _ _ _ dst _ => t.setSreg r (BitVec.ofNat 32 dst) (BitVec.ofNat 64 verdict)
    | _ => t) s6
  let s8 := if verdict % 2 = 1 then s7.postEvent c evSENTINEL else s7
  let guard := s.prot c && !s.rasOff && s.protLe c 0x1A 1 % 2 = 1
  let s9 := if guard then s8.modCtx c fun x => { x with guardDue := true } else s8
  ((s9.modLaunch c sl fun l => { l with closed := false }).phaseTrace c kCHECK verdict h.step).releaseStp c sl kCHECK

/-- COMMIT acts; it waits while a snapshot of the context reads, or the guard's snapshot has not read (14 R490, R507). -/
def commit (s : State) (c sl : Nat) : State :=
  let h := s.stepHdr c
  let a := s.stepRec c h.step
  let s1 := s.setPhase c phCOMMITTING
  let s2 := (s1.hbmSet (a + 0x18) 8 s.now).hbmSet (a + 0x2C) 4 (s1.samplesUsed c)
  ((s2.modLaunch c sl fun l => { l with closed := false }).phaseTrace c kCOMMIT 0 h.step).releaseStp c sl kCOMMIT

/-! ADVANCE and ABORT (Tables 13.7, 13.8) -/

/-- Vintages, marks and INV-in-step of a context go; headroom moves on; the pending ladder copy becomes current. -/
def boundary (s : State) (c : Nat) : State :=
  let rs := ((s.ctx c).map (·.rooms)).getD []
  let storm := ((rs.filter fun r => (s.room r).invStep).length, rs.length)
  let s := { s with res := { s.res with storms := (storm :: s.res.storms).take 16 } }
  let s1 := { s with col := { s.col with vintages := s.col.vintages.filter fun x => x.1.ctx ≠ c } }
  let s2 := (((s.ctx c).map (·.rooms)).getD []).foldl (fun t r => t.modRoom r fun x => { x with invStep := false }) s1
  let s3 := s2.modCtx c fun x =>
    { x with
      mismatch := false, deadline := false, digest := none, evidOver := false, guardDue := false, delivered := []
      saved := x.saved.map fun v => (v.1, { v.2.1 with invStep := false }, v.2.2) }
  (s3.hdrBoundary c).swapLadders c

/-- A boundary that ADVANCE passes, once for each step (R480). -/
def crossOnce (s : State) (c : Nat) : State :=
  let n := (s.stepHdr c).step
  if (s.ctx c).bind (·.crossed) = some n then s else (s.boundary c).modCtx c fun x => { x with crossed := some n }

/-- Actions 3 to 6 of ADVANCE; each looks whether it has been done (R480). -/
def advanceFinish (s : State) (c : Nat) : State :=
  let h := s.stepHdr c
  let b := ((s.rackJob c).map rackB)
  let (s1, cursor) := match s.openSample c with
    | none =>
      let n := s.sampleRec c (h.step + 1)
      let q := s.sampleRec c h.step
      if s.hbmLe n 8 = h.step + 1 then (s, s.hbmLe (n + 8) 8)
      else if s.hbmLe q 8 ≠ h.step then (s, 0)
      else
        let cur := (s.hbmLe (q + 8) 8 + s.hbmLe (q + 0x10) 8) % 2 ^ 64
        (s.openRecord c (h.step + 1) cur (b.getD (s.hbmLe (q + 0x10) 8)) (s.hbmLe (q + 0x20) 4 / 2 % 2 = 1), cur)
    | some q =>
      let cur := (s.hbmLe (q + 8) 8 + s.hbmLe (q + 0x10) 8) % 2 ^ 64
      let short := match s.rackJob c with
        | some j => decide (j.policy = 2)
        | none => s.hbmLe (q + 0x20) 4 / 2 % 2 = 1
      let t := s.hbmSet (q + 0x20) 4 (s.hbmLe (q + 0x20) 4 ||| 1)
      (t.openRecord c (h.step + 1) cur (b.getD (s.hbmLe (q + 0x10) 8)) short, cur)
  let a := s1.stepRec c h.step
  let s2 := let t := s1.freshRec c
    if t.hbmLe (a + 0x2A) 1 = 1 then t else (t.hbmSet (a + 0x2A) 1 1).hbmSet (a + 0x20) 8 s.now
  let k := if s2.drawSeq c 0 ≥ s2.drawSeq c 1 then 0 else 1
  let drawn := s2.drawSeq c k ≠ 0 ∧ s2.hbmLe (s2.drawCopy c k + 8) 8 = h.step
  let s3 := if drawn then s2 else (s2.registryAdvance c).writeDraw c h.step cursor
  let s4 := s3.crossOnce c
  s4.putStepHdr c fun bs =>
    patchLe (patchLe (patchLe (patchLe bs 8 8 (h.step + 1)) 0x10 8 (h.commits + 1)) 0x18 1 phOPEN) 0x28 8 s.now

def advance (s : State) (c sl : Nat) : State :=
  let h := s.stepHdr c
  let s1 := ((s.setPhase c phADVANCING).advanceFinish c).rackWindow c
  ((s1.modLaunch c sl fun l => { l with closed := true }).phaseTrace c kADVANCE 0 h.step).toSwapAck c sl kADVANCE

/-- The open sample record under REPEAT or SKIP (10 R375). -/
def sampleAbort (s : State) (c : Nat) (skip : Bool) : State :=
  match s.openSample c with
  | none => s
  | some q =>
    let s1 := ((s.hbmSet (q + 0x1C) 2 (s.hbmLe (q + 0x1C) 2 + 1)).hbmSet (q + 0x18) 4 0).hbmWrite (q + 0x40) (List.replicate 128 0#8)
    if skip then
      (s1.hbmSet (q + 8) 8 (s.hbmLe (q + 8) 8 + s.hbmLe (q + 0x10) 8)).hbmSet (q + 0x1E) 2 (s.hbmLe (q + 0x1E) 2 + 1)
    else s1

def abort (s : State) (c sl : Nat) (skip : Bool) : State :=
  let h := s.stepHdr c
  let a := s.stepRec c h.step
  let s1 := (((s.freshRec c).sampleAbort c skip).hbmSet (a + 0x2A) 1 (if skip then 3 else 2)).hbmSet (a + 0x20) 8 s.now
  let s2 := (s1.registryAbort c).boundary c
  let s3 := s2.putStepHdr c fun bs =>
    patchLe (patchLe (patchLe bs 0x18 1 phOPEN) 0x19 1 (fieldLe bs 0x19 1 - fieldLe bs 0x19 1 % 2)) 0x28 8 s.now
  let s4 := if skip then s3.rackWindow c else s3
  ((s4.modLaunch c sl fun l => { l with closed := true }).phaseTrace c kABORT 0 h.step).toSwapAck c sl kABORT

end State

namespace State

/-- The STPs of the other members name this module's open step (07 R264). -/
def sameStep (s : State) (c : Nat) (steps : List Nat) : Bool := steps.all (· = (s.stepHdr c).step)

/-- The members' step numbers differ: every room held at the STP raises PHASE (07 R264). -/
def phaseFault (s : State) (c sl kind : Nat) : State :=
  (s.launchRooms c sl).foldl (fun t r => match (t.room r).seqr.owed with
    | some (pc, _) => if Hold.isStp kind (t.room r).seqr.hold then t.roomFault r pc .phase else t
    | none => t) s

/-- A phase acts where the members name one step. -/
def phaseAct (s : State) (c sl kind : Nat) (steps : List Nat) (t : State) : State :=
  if s.sameStep c steps then t else s.phaseFault c sl kind

end State

/-! Effects of the phases; `steps` are the step numbers that the other members' STPs name -/

def effCheckAct (c sl : Nat) (peers : List PeerCheck) (s : State) : State :=
  if s.stpArrived c sl kCHECK ∧ s.checkReady c then s.phaseAct c sl kCHECK (peers.map (·.step)) (s.check c sl peers) else s

/-- COMMIT waits while a snapshot of the context reads, or the guard's has not (14 R490, R507). -/
def State.commitHeld (s : State) (c : Nat) : Bool :=
  (s.res.snaps.any fun x => x.ctx = c && x.reading) || (((s.ctx c).map (·.guardDue)).getD false && !s.rasOff)

def effCommitAct (c sl : Nat) (steps : List Nat) (s : State) : State :=
  if s.stpArrived c sl kCOMMIT ∧ !s.commitHeld c then s.phaseAct c sl kCOMMIT steps (s.commit c sl) else s

/-- ADVANCE and ABORT wait for an evaluation still running (05 R174). -/
def effAdvanceAct (c sl : Nat) (steps : List Nat) (s : State) : State :=
  if s.stpArrived c sl kADVANCE ∧ !s.evaluating c then s.phaseAct c sl kADVANCE steps (s.advance c sl) else s

/-- An ABORT of the launch names SKIP (07 Table 7.13). -/
def State.abortSkips (s : State) (c sl : Nat) : Bool :=
  (s.launchRooms c sl).any fun r => match (s.room r).seqr.hold with
    | .stp _ _ _ _ k => k
    | _ => false

def effAbortAct (c sl : Nat) (steps : List Nat) (s : State) : State :=
  if s.stpArrived c sl kABORT ∧ !s.evaluating c then s.phaseAct c sl kABORT steps (s.abort c sl (s.abortSkips c sl)) else s

/-- ADVANCE or ABORT has retired in every room of the context: the vintner's copies of the boundary go (05 R169). -/
def State.retireCopies (s : State) (c : Nat) : State :=
  let held := (((s.ctx c).map (·.rooms)).getD []).any fun r => (s.room r).seqr.hold = .swapAck
  s.modVnt c fun v => if v.finished && !held then {} else v

/-- The swap acknowledgement reaches a room (05 R180). -/
def effSwapAck (r : Nat) (s : State) : State :=
  match (s.room r).seqr.hold with
  | .swapAck => (s.freeHold r).retireCopies (((s.room r).lease.map (·.1)).getD 16)
  | _ => s

/-! Meanings -/

def execTCheck (r : Nat) (w : TWord) (s : State) := run (vntBlocks r) s (effStp 0x80#8 kCHECK r w s)
def execTCommit (r : Nat) (w : TWord) (s : State) := run (vntBlocks r) s (effStp 0x81#8 kCOMMIT r w s)
def execTAdvance (r : Nat) (w : TWord) (s : State) := run (vntBlocks r) s (effStp 0x82#8 kADVANCE r w s)
def execTAbort (r : Nat) (w : TWord) (s : State) := run (vntBlocks r) s (effStp 0x83#8 kABORT r w s)
def execCheckAct (c sl : Nat) (peers : List PeerCheck) (s : State) := run [bCOL, bRCK] s (s.live (effCheckAct c sl peers s))
def execCommitAct (c sl : Nat) (steps : List Nat) (s : State) := run [bCOL] s (s.live (effCommitAct c sl steps s))
def execAdvanceAct (c sl : Nat) (steps : List Nat) (s : State) := run [bCOL, bRCK, bRNG, bVNTW, bVNTE] s (s.live (effAdvanceAct c sl steps s))
def execAbortAct (c sl : Nat) (steps : List Nat) (s : State) := run [bCOL, bRCK, bRNG, bVNTW, bVNTE] s (s.live (effAbortAct c sl steps s))
def execSwapAck (r : Nat) (s : State) := run (vntBlocks r) s (s.live (effSwapAck r s))

end Sys2Proof.Machine
end

