-- ==== Sys2Proof/Machine/Launch.lean ====
section
/-! DEFINITION. Launch slots and launches (06 R190, R191, R214 to R218; 18 R594, R599 to R602; 20 R654), and contexts: create,
destroy, reset (06 R199 to R202; 18 R606; 20 R660, R663). -/

namespace Sys2Proof.Machine

def LaunchRec.parse (bs : List Byte) : LaunchRec :=
  let f := fieldLe bs
  { entry := f 0 8, dtab := f 8 8, dtabCount := f 0x10 4, first := f 0x14 2, count := f 0x16 2, flags := f 0x18 4
    tag := f 0x20 8, args := (bs.drop 0x40).take 176 }

def LaunchRec.overlaps (a b : LaunchRec) : Bool := a.first < b.first + b.count && b.first < a.first + a.count

/-- Address of a launch slot (18 R599). -/
def slotAddr (c sl : Nat) : Nat := launchBase + 0x4000 * c + 0x100 * sl

namespace State

def seqDiscard (s : State) : State := s.regCount rSTW_HOST_STATUS 24 8 1

/-- The lease size L of a context. -/
def leaseSize (s : State) (c : Nat) : Nat := ((s.ctx c).map (·.size)).getD 0

/-- A reshard that a reset interrupted is not done: the steward runs it, or will (12 R451; 20 R664). -/
def reshHolds (s : State) : Bool := s.col.cut.any fun x => s.journalState x.2 = 1

/-- The front end acts on a SEQ value: accepted, or rejected with a record (06 R215, R218; 18 R602; 13 R481). A launch that
meets a resumed reshard completes at once with RESHARD_PENDING (12 R451). -/
def actSeq (s : State) (c sl : Nat) (seq : Nat) : State :=
  let s := s.modSlot c sl fun x => { x with held := none }
  let raw := s.hbm.read (slotAddr c sl) 256
  let r := LaunchRec.parse raw
  let reject (st : Nat) : State := s.postCpl c sl (cplBytes r.tag st 0 0 0 s.now s.now 0 0 seq) (r.flags % 2 = 1)
  if seq ≠ ((s.lslot c sl).lastSeq + 1) % 2 ^ 64 then reject csSEQ
  else if r.count = 0 ∨ r.first + r.count > s.leaseSize c ∨ r.dtabCount > 4096 then reject csLEASE
  else if s.reshHolds then
    (s.modSlot c sl fun x => { x with lastSeq := seq }).postCpl c sl
      (cplBytes r.tag csFAULT FaultCode.reshardPending.code r.first 0 s.now s.now 0 0 seq) (r.flags % 2 = 1)
  else
    let s1 := if (s.stepHdr c).valid ∧ (s.stepHdr c).phase = phADVANCING then s.advanceFinish c else s
    (s1.modSlot c sl fun x => { x with lastSeq := seq, launch := some { lr := r, seq := seq, tAccept := s.now } }).activity

/-- A PF0 write has completed a slot's SEQ word (18 R594, R600, R601; 06 R216; 20 R654). -/
def seqWritten (s : State) (c sl seq : Nat) : State :=
  match s.ctx c with
  | none => s.seqDiscard
  | some x =>
    if !s.host.bme || x.noLaunch || x.ended || !s.working then s.seqDiscard
    else if (s.lslot c sl).launch.isSome || s.devState = stDRAINING then
      s.modSlot c sl fun y => { y with held := some seq }
    else s.actSeq c sl seq

/-- A launch that waits may start: the context is in, its rooms are free, no running launch and no waiting launch of a lower
slot overlaps it, and with FLAGS[1] the previous slot is empty (06 R214, R217; log 27). -/
def mayStart (s : State) (c sl : Nat) : Bool :=
  match s.ctx c, s.launch c sl with
  | some x, some l =>
    !x.slicedOut && !l.running && s.working && !(s.mmu.waits.any fun w => w.who = .load c sl)
      && (l.lr.flags / 2 % 2 = 0 || sl = 0 || (s.launch c (sl - 1)).isNone)
      && (List.range 64).all (fun k => k = sl || (match s.launch c k with
        | some o => !(o.lr.overlaps l.lr) || (!o.running && sl < k)
        | none => true))
      && (rangeOf l.lr).all fun li => match x.rooms[li]? with
        | some r => (s.room r).lease = some (c, li) && (s.room r).seqr.launch.isNone
        | none => false
  | _, _ => false

/-- Every room of the range starts: descriptor image, argument area, tokens and scalars at 0, PC at ENTRY (06 R189, R193; 07 R229,
R230). An image behind another module's address comes first. -/
def startLaunch (s : State) (c sl : Nat) : State :=
  match s.launch c sl with
  | none => s
  | some l =>
    let n := if l.lr.dtab = 0 then 0 else 128 * l.lr.dtabCount
    match s.farRead (.load c sl) c none l.lr.dtab n with
    | .error (va, e) =>
      if finalCause e.cause then s.launchFault c sl l.lr.first 0 FaultCode.translation.code
      else s.addWait {
        wid := 0, ctx := c, who := .load c sl, va := va, glob := e.glob, cause := e.cause, level := e.level, pte := e.pte, access := 1
        unit := Config.hubUnit 1, lease := l.lr.first }
    | .ok (none, t) => t
    | .ok (some img, t) =>
      let s1 := t.modLaunch c sl fun l => { l with running := true }
      (s1.launchRooms c sl).foldl (fun t r => (t.farDropRoom r).modRoom r fun x =>
        { x with
          pantry := (x.pantry.write descTab img).write argArea (l.lr.args ++ List.replicate 80 0#8)
          sreg := List.replicate 16 0, tok := List.replicate 16 0, infl := [], prior := [], nextUid := 0
          seqr := { launch := some (c, sl), pc := l.lr.entry } }) s1

/-- A room is at its pre-emption point (07 Table 7.15; 08 R301, R304): no tile is in flight, no tasting is open, no unit of a mover is in
flight, no fragment or extent of a collective or reshard (12 R436), and no instruction is unfinished whose point comes after its
completion. -/
def atPoint (s : State) (r : Nat) : Bool :=
  let x := s.room r
  x.taste.isEmpty && x.infl.all (fun i => i.mv.isSome || i.isTile)
    && x.trell.all (fun t => t.flying.isEmpty && t.drains.isEmpty && t.port.isNone
        && t.slots.all fun sl => sl.st = .free || sl.st = .opened)
    && x.infl.all fun i => (match i.mv with
        | some m => m.wait.isSome || (m.asked.isEmpty && !m.sent)
        | none => true)
      && !(s.fab.reqs.any fun q => q.who = .col r i.uid)
      && (match s.instResh r i.uid with
        | some y => !(s.mmu.far.any fun f => f.who = .resh y.ctx true || f.who = .resh y.ctx false)
        | none => true)

/-- A fault's launch may end: every room of the range is at its pre-emption point (06 R191). -/
def faultEnds (s : State) (c sl : Nat) : Bool :=
  (match s.launch c sl, s.ctx c with
    | some l, some x => l.fault.isSome && !x.slicedOut
    | _, _ => false)
  && (s.launchRooms c sl).all s.atPoint

/-- Waits of a launch's rooms go when it ends. -/
def dropWaits (s : State) (c sl : Nat) : State :=
  let lis := ((s.launch c sl).map fun l => rangeOf l.lr).getD []
  let mine (w : WaitF) : Bool := w.ctx = c && (match w.who with
    | .mover _ _ => lis.contains w.lease
    | .fetch _ => lis.contains w.lease
    | .load d k => d = c && k = sl
    | _ => false)
  { s with mmu := { s.mmu with waits := s.mmu.waits.filter fun w => !mine w } }

/-- Movers and reshards of a launch's rooms end with it. -/
def dropResh (s : State) (c : Nat) : State :=
  { s with col := { s.col with resh := s.col.resh.filter fun x => !(x.ctx = c && x.inst.isSome
      && !(match x.inst with
        | some (r, uid) => (s.findInfl r uid).isSome
        | none => true)) } }

/-- End a launch with a status and what hangs on it. -/
def finishLaunch (s : State) (c sl status : Nat) : State :=
  let s1 := (s.dropWaits c sl).endLaunch c sl status
  let s2 := s1.modCtx c fun x => { x with
    saved := x.saved.map fun v => if v.2.1.seqr.launch = some (c, sl) then
      (v.1, { v.2.1 with seqr := {}, infl := [] }, v.2.2) else v }
  (s2.dropResh c).activity

/-! Contexts -/

/-- A context descriptor's fields as CTX_CREATE carries them (06 Table 6.3). The spec gives a PRIORITY above 3, an MSIX above 2,047 and a
PANTRY_NEED that is no multiple of 64 KiB no outcome: the model cuts the first two to their low bits and takes the third as it is.
DESIGN CHOICE (log 36). -/
def CtxDesc.parse (bs : List Byte) : CtxDesc :=
  let f := fieldLe bs
  { ptroot := f 0 8, jobKey := f 8 8, stats := f 0x10 8, policy := f 0x18 8, save := f 0x20 8, ledger := f 0x28 8
    registry := f 0x30 8, groups := f 0x38 8, cpl := f 0x40 8, msix := f 0x48 2 % 2048, priority := f 0x4A 1 % 4
    roomsMin := f 0x4C 2, roomsMax := f 0x4E 2, pantryNeed := f 0x50 4, quantumUs := f 0x54 4, ladders := f 0x64 2 }

/-- Parts of a save image in the order of 08 Table 8.12: the fixed record, the context data, the descriptor table, open slots of 128 KiB,
spout state; the stride holds the largest image the context can need, 48 open slots and the spout state (R303). -/
abbrev imageRecord : Nat := 0x10000
def imageTail (need : Nat) : Nat := imageRecord + need + 0x80000
def imageStride (need : Nat) : Nat := imageTail need + 48 * 0x20000 + 0x50000

/-- A range lies in a region of HBM. -/
def rangeIn (p : Nat → Bool) (a n : Nat) : Bool := p a && p (a + n - 1) && a / wingSize = (a + n - 1) / wingSize

/-- Tables that a page-table root leads to: their addresses and sizes, `fuel` levels down (08 R283). -/
def ptTables (m : Mem) : Nat → Nat → List (Nat × Nat)
  | 0, _ => []
  | fuel + 1, base =>
    let n := if fuel = 2 then 2 ^ 18 else if fuel = 1 then 512 else 32
    let live := ((m.filter fun c => base ≤ c.1 && c.1 < base + 8 * n).map fun c => (c.1 - base) / 8).eraseDups
    (base, 8 * n) :: live.flatMap fun i =>
      let pte := m.le (base + 8 * i) 8
      if fuel = 0 ∨ pte % 4 ≠ 1 then [] else ptTables m fuel (pte / 4096 * 4096)

/-- CTX_CREATE answers LEASE for a lease of L rooms (06 R202; 08 R278): the save area holds one stride per room, and page tables and
frame pool lie in general memory. -/
def badLease (s : State) (d : CtxDesc) (l : Nat) : Bool :=
  let act := ((List.range 72).filter fun r => (s.room r).role = 0).length
  d.pantryNeed > 0xF00000 || d.roomsMin > 68 || d.roomsMin > act || d.roomsMax < d.roomsMin
    || !rangeIn (fun a => a < hbmEnd && inSave a) d.save (max 1 l * imageStride d.pantryNeed)
    || !rangeIn (inGeneral s.prs.size) d.ptroot 0x210000
    || (ptTables s.hbm 3 d.ptroot).any fun x => !rangeIn (inGeneral s.prs.size) x.1 x.2

/-- First entry of a free run of ladder entries (05 R183). -/
def freeLadder (s : State) (n : Nat) : Option Nat :=
  let used (i : Nat) : Bool := s.ctxs.any fun x => match x with
    | some c => c.ladderBase ≤ i && i < c.ladderBase + c.d.ladders
    | none => false
  (List.range 4097).find? fun b => b + n ≤ 4096 && (List.range n).all fun i => !used (b + i)

/-- Rooms that the steward may grant: active, distinct. -/
def grantable (s : State) (rooms : List Nat) : Bool :=
  rooms.eraseDups = rooms && rooms.all fun r => r < 72 && (s.room r).role = 0
def allFree (s : State) (rooms : List Nat) : Bool := rooms.all fun r => (s.room r).lease.isNone

/-- The length of a context's time-slice quantum in ns (06 R203, Table 6.3; 21 Table 21.6). -/
def quantumNs (s : State) (c : Nat) : Nat :=
  let own := ((s.ctx c).map (·.d.quantumUs)).getD 0
  let dflt := s.regBits rSTW_QUANTUM 0 24
  (if own ≠ 0 then own else if dflt ≠ 0 then dflt else 2000) * 1000

/-- Grant rooms to lease indices: every room gets the context's LND_CTL, and a quantum begins (04 R157; 06 R203). -/
def placeLease (s : State) (c : Nat) (rooms : List Nat) : State :=
  let lnd := ((s.ctx c).map (·.lnd)).getD 0
  let s1 := rooms.zipIdx.foldl (fun t (r, li) => (t.modRoom r fun x => { x with lease := some (c, li) }).setRegKept (rLND_CTL r) lnd) s
  s1.modCtx c fun x => { x with quantum := (s.now, s.quantumNs c), rotate := false }

/-- The policy record at creation (05 Table 5.6). -/
def policyInit : List Byte :=
  let th := [0x08000000, 0x00080000, 0x00400000, 0, 0x04000000, 0x00100000].flatMap (leBytes 4)
  leBytes 1 2 ++ leBytes 1 6 ++ leBytes 2 256 ++ leBytes 4 0 ++ th ++ th ++ leBytes 4 0x20000000 ++ List.replicate 68 0#8

/-- The mirror reloads ladder entries, epoch and LND_CTL (20 R662, R663); false when its CHECK fails. -/
def loadMirror (s : State) (c : Nat) : Option State :=
  let a := s.ledgerOf c + 0x120000
  let bs := s.hbm.read a 69632
  if fieldLe bs 0xC 4 ≠ sha32 (patchLe bs 0xC 4 0) then none
  else
    let n := min (fieldLe bs 8 4) (s.ladSize c)
    let up (t : List (Nat × BitVec 128)) : List (Nat × BitVec 128) :=
      (List.range n).foldl (fun u i => entPut u (s.ladIdx c i) (BitVec.ofNat 128 (fieldLe bs (0x1000 + 16 * i) 16))) t
    let s1 := (s.modWing 0 fun v => { cur := up v.cur, pend := up v.pend }).modWing 1 fun v => { cur := up v.cur, pend := up v.pend }
    let e := fieldLe bs 4 2
    let s2 := (s1.setRegBits (rVNT_EPOCH 0 c) 0 16 e).setRegBits (rVNT_EPOCH 1 c) 0 16 e
    some (s2.setLnd c (BitVec.ofNat 32 (fieldLe bs 0 4)))

/-- What creation does with a valid step ledger (20 R663). -/
def rejoin (s : State) (c : Nat) : State :=
  if !(s.stepHdr c).valid then s
  else
    let s1 := (s.loadMirror c).getD (s.modCtx c fun x => { x with events := x.events ||| BitVec.ofNat 64 (2 ^ evDIVERGE) })
    let ph := (s1.stepHdr c).phase
    if ph = phADVANCING then s1.advanceFinish c
    else if ph = phOPEN ∨ ph = phCHECKED then s1.setDirty c true
    else s1

/-- Ladder entries of a range take their reset value in both wings. -/
def clearLadders (s : State) (base n : Nat) : State :=
  let up (t : List (Nat × BitVec 128)) : List (Nat × BitVec 128) := t.filter fun x => !(base ≤ x.1 && x.1 < base + n)
  (s.modWing 0 fun v => { cur := up v.cur, pend := up v.pend }).modWing 1 fun v => { cur := up v.cur, pend := up v.pend }

/-- The place behind every context in the round-robin (06 R203). -/
def lastTurn (s : State) : Nat := (s.ctxs.filterMap fun x => x.map (·.turn)).foldl max 0 + 1

/-- Create a context; it is sliced out at first when its rooms are not all free. The spec names no LND_CTL for its rooms: the model takes
that of the first granted room as it stands, be the room another context's. EVENTS and FLAGSUM start at 0, whatever the body holds at
0x58 and 0x60, which gives them no start value. DESIGN CHOICE (log 36). -/
def createCtx (s : State) (c : Nat) (d : CtxDesc) (base : Nat) (rooms : List Nat) : State :=
  let free := s.allFree rooms
  let lnd := (rooms.head?.map fun r => s.reg (rLND_CTL r)).getD (regReset (rLND_CTL 0))
  let x : Ctx := {
    d := d, size := rooms.length, rooms := if free then rooms else [], slicedOut := !free, ladderBase := base, lnd := lnd
    turn := s.lastTurn }
  let s1 := (((s.setCtx c (some x)).clearLadders base d.ladders).setReg (rVNT_EPOCH 0 c) 0).setReg (rVNT_EPOCH 1 c) 0
  let s2 := if free then s1.placeLease c rooms else s1
  (s2.ctxWrite c d.policy policyInit).rejoin c

/-- A context's rooms lose their lease; with `zero`, pantry, descriptor table and open slots are zeroed (20 R660). -/
def freeLease (s : State) (c : Nat) (zero : Bool) : State :=
  (((s.ctx c).map (·.rooms)).getD []).foldl (fun t r => t.modRoom r fun x =>
    if x.lease.map (·.1) = some c then
      { x with
        lease := none, seqr := {}, infl := [], taste := []
        pantry := if zero then [] else x.pantry
        trell := if zero then List.replicate 12 {} else x.trell
        invStep := false }
    else x) s

/-- Everything of a context that lies outside its record goes, but for its whole snapshot generation (14 R495). -/
def purgeCtx (s : State) (c : Nat) : State :=
  let s1 := (s.pressEnd c).rackEnd c
  { s1 with
    mmu := { s1.mmu with waits := s1.mmu.waits.filter fun w => w.ctx ≠ c }
    col := { s1.col with
      vintages := s1.col.vintages.filter fun v => v.1.ctx ≠ c
      early := s1.col.early.filter fun k => k.addr / 2 ^ 40 % 16 ≠ c
      resh := s1.col.resh.filter fun x => x.ctx ≠ c || x.inst.isNone }
    res := { s1.res with snaps := s1.res.snaps.filter fun x => x.ctx ≠ c || x.whole, due := s1.res.due.filter fun x => x ≠ c }
    tst := { s1.tst with replays := s1.tst.replays.filter fun p => p.ctx ≠ c } }

/-- Context reset (20 Table 20.4): launches complete with STATUS 3, jobs close, leases are freed and granted again with
zeroed pantries, LND_CTL follows lease index 0. A context that is out keeps its value (04 R157). -/
def resetCtx (s : State) (c : Nat) (rooms : List Nat) : State :=
  match s.ctx c with
  | none => s
  | some x =>
    let lnd := s.lndOf c
    let s1 := (List.range 64).foldl (fun t sl => if (t.launch c sl).isSome then t.finishLaunch c sl csRESET else t) s
    let s2 := (s1.purgeCtx c).freeLease c true
    let free := s2.grantable rooms && rooms.length = x.size && s2.allFree rooms
    let s3 := s2.modCtx c fun y => { y with
      rooms := if free then rooms else [], slicedOut := !free, saved := [], opSeq := [], arrivals := [], rotate := false, lnd := lnd
      slots := y.slots.map fun z => { z with held := none } }
    (if free then s3.placeLease c rooms else s3).activity

/-- A context goes with its lease and ladder entries (06 R200; 18 Table 18.5). Its directory entry goes too, unless the journal's reshard
still runs, which the steward then resumes (12 R451). -/
def destroyCtx (t : State) (c : Nat) (x : Ctx) : State :=
  let t1 := ((t.purgeCtx c).freeLease c false).clearLadders x.ladderBase x.d.ladders
  ({ t1.setCtx c none with
    res := { t1.res with snaps := t1.res.snaps.filter fun x => x.ctx ≠ c }
    col := { t1.col with reshDir := if t1.reshardOn c then t1.col.reshDir else mapSet t1.col.reshDir c none } }).activity

end State

/-! Effects -/

def effRoomLaunchEnd (r : Nat) (s : State) : State :=
  let x := s.room r
  match x.seqr.launch, x.lease with
  | some (c, sl), some (_, li) =>
    if x.seqr.ended && x.infl.isEmpty then
      s.modLaunch c sl fun l => { l with ended := if l.ended.contains li then l.ended else li :: l.ended }
    else s
  | _, _ => s

/-- The launch has ended in every room of its range (R190, R218). -/
def effLaunchComplete (c sl : Nat) (s : State) : State :=
  match s.launch c sl with
  | some l => if l.running && l.fault.isNone && (State.rangeOf l.lr).all l.ended.contains then s.finishLaunch c sl csDONE else s
  | none => s

def effLaunchFaultEnd (c sl : Nat) (s : State) : State := if s.faultEnds c sl then s.finishLaunch c sl csFAULT else s

/-- The host writes a slot's SEQ word through BAR2 (R215; 18 R600). -/
def effLaunchSeqWrite (c sl : Nat) (seq : W64) (s : State) : State :=
  if 16 ≤ c ∨ 64 ≤ sl ∨ s.devState = stOFF ∨ s.devState = stBOOT ∨ s.devState = stTEST ∨ s.devState = stVESTIBULE then s
  else (s.hbmSet (slotAddr c sl + 0xF8) 8 seq.toNat).seqWritten c sl seq.toNat

/-- A held SEQ is acted on once the slot is empty and the module accepts launches (R216; 20 R654). -/
def effLaunchHeldSeq (c sl : Nat) (s : State) : State :=
  match (s.lslot c sl).held with
  | some _ =>
    if (s.lslot c sl).launch.isSome || s.devState = stDRAINING || !s.working then s
    else s.seqWritten c sl (s.hbmLe (slotAddr c sl + 0xF8) 8)
  | none => s

def effLaunchRangeStart (c sl : Nat) (s : State) : State := if s.mayStart c sl then s.startLaunch c sl else s

/-- Bus Master Enable of PF0 is set: held completion records go out (18 R594). -/
def effBmeSet (s : State) : State :=
  let s1 := { s with host := { s.host with bme := true } }
  (List.range 16).foldl (fun t c => match t.ctx c with
    | none => t
    | some x => x.heldCpl.foldl (fun u y => u.postCpl c y.1 y.2.1 y.2.2) (t.modCtx c fun z => { z with heldCpl := [] })) s1

/-- Reserved bytes of a context descriptor (Table 6.3). Chapter 06 states no check of them; the model lets R606's check of a command's
reserved fields reach those of its body. DESIGN CHOICE (log 36). -/
def ctxReserved (bs : List Byte) : Bool := anyByte bs 0x4B 1 || anyByte bs 0x66 154

def effCtxCreate (q : Req) (rooms : List Nat) (s : State) : State :=
  s.cmd q 1 1 false fun t =>
    let c := q.arg 0
    let body := q.bodyAt 0 256
    let d := State.CtxDesc.parse body
    if c ≥ 16 ∨ ctxReserved body then (t, { status := cINVALID })
    else if (t.ctx c).isSome then (t, { status := cEXISTS })
    else if t.badLease d rooms.length then (t, { status := cLEASE })
    else match t.freeLadder d.ladders with
      | none => (t, { status := cLEASE })
      | some b =>
        if t.grantable rooms ∧ d.roomsMin ≤ rooms.length ∧ rooms.length ≤ d.roomsMax ∧ 0 < rooms.length then
          (t.createCtx c d b rooms, { status := cOK })
        else (t, { status := cLEASE })

def effCtxDestroy (q : Req) (s : State) : State :=
  s.cmd q 2 1 false fun t => t.onCtx q fun x =>
    let c := q.arg 0
    if x.slots.any fun l => l.launch.isSome then (t, { status := cBUSY })
    else
      (t.destroyCtx c x, { status := cOK })

def effCtxReset (q : Req) (rooms : List Nat) (s : State) : State :=
  s.cmd q 3 1 false fun t => t.onCtx q fun _ => (t.resetCtx (q.arg 0) rooms, { status := cOK })

/-! Meanings -/

def execRoomLaunchEnd (r : Nat) (s : State) := run [bRoom r] s (s.live (effRoomLaunchEnd r s))
def execLaunchComplete (c sl : Nat) (s : State) := run [bSTW] s (s.live (effLaunchComplete c sl s))
def execLaunchFaultEnd (c sl : Nat) (s : State) := run [bSTW] s (s.live (effLaunchFaultEnd c sl s))
def execLaunchSeqWrite (c sl : Nat) (seq : W64) (s : State) := run [bSTW] s (effLaunchSeqWrite c sl seq s)
def execLaunchHeldSeq (c sl : Nat) (s : State) := run [bSTW] s (effLaunchHeldSeq c sl s)
def execLaunchRangeStart (c sl : Nat) (s : State) := run [bSTW] s (effLaunchRangeStart c sl s)
def execBmeSet (s : State) := run [bSTW] s (effBmeSet s)
def execCtxCreate (q : Req) (rooms : List Nat) (s : State) := run [bSTW, bVNTW, bVNTE] s (effCtxCreate q rooms s)
def execCtxDestroy (q : Req) (s : State) := run [bSTW] s (effCtxDestroy q s)
def execCtxReset (q : Req) (rooms : List Nat) (s : State) := run [bSTW] s (effCtxReset q rooms s)

end Sys2Proof.Machine
end

