-- ==== Sys2Proof/Machine/Preempt.lean ====
section
/-! DEFINITION. Pre-emption, save images, time slicing (06 R203, R204; 08 R301 to R304; 12 R436). Context data and descriptor table go
through the save area in HBM; the parts whose layout 08 Table 8.12 does not give are kept as the room's own state beside it (log 28). -/

namespace Sys2Proof.Machine

/-- Frame offsets of the words a save image carries: the engine flag words and LND_CTL (08 Table 8.12; 04 R157). -/
def imageRegs : List Nat := (List.range 12).map (fun t => 0x100 + 0x20 * t) ++ [0x300, 0x304, 0x340, 0x380]

namespace State

/-- PAUSE to every peer that sends to a pre-empted collective or reshard (12 R436). -/
def colPause (s : State) (r : Nat) (i : Infl) : State :=
  match i.col, (s.room r).lease with
  | some o, some (c, _) =>
    if o.formed then s else (sendersOf o).foldl (fun t p => t.colSend r c i.uid o p (o.group.idx + 2 ^ 11) []) s
  | _, _ => match s.instResh r i.uid with
    | some x => if s.jget x.pa 9 1 = 2 then s.reshPause x (s.jplan x.pa) else s
    | none => s

/-- A room stops issuing. -/
def stopRoom (s : State) (r : Nat) : State := s.modRoom r fun x => { x with seqr := { x.seqr with stopped := true } }

/-- The launch of a room has raised a fault: it is handled first (07 R267). -/
def faulted (s : State) (r : Nat) : Bool :=
  match (s.room r).seqr.launch with
  | some (c, sl) => ((s.launch c sl).map (·.fault.isSome)).getD false
  | none => false

/-- What a room keeps when its lease leaves it: its place, its clock and the bytes in its pantry. -/
def Room.bare (x : Room) : Room :=
  { role := x.role, pantry := x.pantry, stretch := x.stretch, recovering := x.recovering, gated := x.gated }

/-- Address of a lease index's save image, and PANTRY_NEED (08 R303). -/
def imageAt (s : State) (c li : Nat) : Nat :=
  ((s.ctx c).map fun x => x.d.save + li * imageStride x.d.pantryNeed).getD 0
def needOf (s : State) (c : Nat) : Nat := ((s.ctx c).map (·.d.pantryNeed)).getD 0

/-- Bytes of a room's image after its descriptor table: open slots, and the spout state of an unfinished SPMV (08 Table 8.12). -/
def imageMore (x : Room) : Nat :=
  0x20000 * (x.trell.map fun t => (t.slots.filter fun sl => sl.st = .opened).length).sum
    + if x.infl.any fun i => i.mv.any fun m => m.unit = 2 then 0x50000 else 0

/-- Write a room's image to the save area through its mover port (08 R302, R303): context data and descriptor table at their places; the
other parts as bytes the spec gives no layout for (log 28). -/
def writeImage (s : State) (r c li : Nat) : State :=
  let a := s.imageAt c li
  let need := s.needOf c
  let x := s.room r
  let m := (s.hbm.copy x.pantry 0 (a + imageRecord) need).copy x.pantry descTab (a + imageRecord + need) 0x80000
  let m := (m.write a ((Config.saveBytes s.free 0).take imageRecord)).write (a + imageTail need)
    ((Config.saveBytes s.free 1).take (imageMore x))
  { s with hbm := m, free := s.free + 1 }

/-- A mover at a unit boundary: its pre-emption record, unless it waits on a fault and keeps that record (08 R298, R301). -/
def pauseMover (s : State) (r : Nat) (i : Infl) : Infl :=
  { i with mv := i.mv.map fun m =>
    { m with paused := true, record := if m.wait.isSome then m.record else (m.waitF s r i).record } }

/-- Save the room at its pre-emption point: every mover stops at its unit boundary (08 R302). What a trellis had loaded is loaded again
(03 R106). -/
def saveRoom (s : State) (r : Nat) : State :=
  match (s.room r).lease with
  | none => s
  | some (c, li) =>
    let s1 := ((s.room r).infl.foldl (fun t i => t.colPause r i) (s.bump fmSEQ r 4 1)).farDropRoom r
    let x := s1.room r
    let img : Room := { x with
      seqr := { x.seqr with stopped := false }
      infl := x.infl.map fun i => pauseMover s1 r i
      trell := x.trell.map fun t => { t with cur := none, shadow := none, queue := t.queue.map fun j => { j with loaded := 0 } } }
    let rg := imageRegs.map fun o => (o, s1.reg (rRoom r + o))
    let s2 := (s1.writeImage r c li).modCtx c fun y => { y with saved := (li, img, rg) :: y.saved.filter fun v => v.1 ≠ li }
    s2.setRoom r (Room.bare x)

/-- Pantry after a restore: context data and descriptor table from the save area, the argument area from the fixed record, over the bytes
of the physical room (08 R273, R302, Table 8.12). -/
def restoredPantry (s : State) (c li : Nat) (img old : Mem) : Mem :=
  let a := s.imageAt c li
  let need := s.needOf c
  ((old.copy s.hbm (a + imageRecord) 0 need).copy img argArea argArea 256).copy s.hbm (a + imageRecord + need) descTab 0x80000

/-- What waits for a saved instruction, its requests and its reshard, belong to it in the new room (08 R301). -/
def retarget (s : State) (r : Nat) (img : Room) : State × Room :=
  let open' (wid : Nat) : Bool := s.mmu.waits.any fun w => w.wid = wid
  let infl := img.infl.map fun i => { i with mv := i.mv.map fun m => match m.wait with
    | some wid => if open' wid then m else { m with wait := none }
    | none => m }
  let hold := match img.seqr.hold with
    | .fetch wid => if open' wid then img.seqr.hold else .none
    | h => h
  let ids := (infl.filterMap fun i => i.mv.bind (·.wait)) ++ (match hold with
    | .fetch wid => [wid]
    | _ => [])
  let up (w : WaitF) : WaitF := if ids.contains w.wid then
      { w with who := match w.who with
        | .mover _ uid => .mover r uid
        | .fetch _ => .fetch r
        | z => z }
    else w
  let mine (uid : Nat) : Bool := infl.any fun i => i.uid = uid
  let upReq (q : FabReq) : FabReq := match q.who with
    | .col _ uid => if mine uid then { q with who := .col r uid } else q
    | _ => q
  let upResh (x : Resh) : Resh := match x.inst with
    | some (_, uid) => if mine uid then { x with inst := some (r, uid) } else x
    | none => x
  let s1 := (s.modFab fun f => { f with reqs := f.reqs.map upReq })
  let s2 := { s1 with col := { s1.col with resh := s1.col.resh.map upResh } }
  ({ s2 with mmu := { s2.mmu with waits := s2.mmu.waits.map up } }, { img with infl := infl, seqr := { img.seqr with hold := hold } })

/-- Read a save image back into a room (08 R302). LND_CTL follows the lease; flags stay with the engines that raised them (02 R63; 21
R688), though the image holds them. It issues no more where its launch has faulted meanwhile (06 R191). -/
def loadRoom (s : State) (c li r : Nat) : State :=
  match s.ctx c with
  | none => s
  | some x => match x.saved.find? fun v => v.1 = li with
    | none => s
    | some (_, img, rg) =>
      let old := s.room r
      let (s1, im) := s.retarget r img
      let bad := match img.seqr.launch with
        | some (d, sl) => ((s.launch d sl).map (·.fault.isSome)).getD false
        | none => false
      let nr : Room := { im with
        seqr := { im.seqr with stopped := bad }
        role := old.role, lease := some (c, li), stretch := old.stretch, recovering := old.recovering, gated := old.gated
        pantry := s.restoredPantry c li img.pantry old.pantry }
      let s2 := (s1.setRoom r nr).modCtx c fun y => { y with saved := y.saved.filter fun v => v.1 ≠ li, rooms := y.rooms.set li r }
      (rg.filter fun v => v.1 = rLND_CTL 0 - rRoom 0).foldl (fun t v => t.setRegKept (rRoom r + v.1) v.2) s2

/-- A context has launches accepted (06 R203). -/
def hasLaunch (s : State) (c : Nat) : Bool := ((s.ctx c).map fun x => x.slots.any fun l => l.launch.isSome).getD false

/-- A context waits: it has launches and is sliced out. -/
def waitsIn (s : State) (c : Nat) : Bool := s.hasLaunch c && ((s.ctx c).map (·.slicedOut)).getD false

/-- Active rooms that no lease holds. -/
def freeRooms (s : State) : Nat := ((List.range 72).filter fun r => (s.room r).role = 0 && (s.room r).lease.isNone).length

/-- The steward must time-slice: the leases wanted exceed 68 rooms (06 R203), or a waiting context does not fit beside the leases
granted above ROOMS_MIN (log 28). -/
def contended (s : State) : Bool :=
  ((List.range 16).filter s.hasLaunch).foldl (fun n c => n + ((s.ctx c).map (·.d.roomsMin)).getD 0) 0 > 68
    || (List.range 16).any fun c => s.waitsIn c && decide (s.leaseSize c > s.freeRooms)

def prio (s : State) (c : Nat) : Nat := ((s.ctx c).map (·.d.priority)).getD 0
def turnOf (s : State) (c : Nat) : Nat := ((s.ctx c).map (·.turn)).getD 0

/-- A context of a higher priority waits, or one of the same priority (06 R203). -/
def higherWaits (s : State) (c : Nat) : Bool := (List.range 16).any fun d => s.waitsIn d && decide (s.prio d > s.prio c)
def equalWaits (s : State) (c : Nat) : Bool := (List.range 16).any fun d => d ≠ c && s.waitsIn d && decide (s.prio d ≥ s.prio c)

/-- A context gives way: the leases contend, and a higher priority waits, its quantum is over with an equal one waiting, or it has
nothing to run while another waits (06 R203). -/
def givesWay (s : State) (c : Nat) : Bool :=
  s.contended && (s.higherWaits c || (s.equalWaits c && ((s.ctx c).map (·.rotate)).getD false)
    || (!s.hasLaunch c && (List.range 16).any fun d => d ≠ c && s.waitsIn d))

/-- The context is the next to come in: no waiting one has a higher priority, or its priority and an earlier turn (06 R203). -/
def nextIn (s : State) (c : Nat) : Bool :=
  (List.range 16).all fun d => d = c || !s.waitsIn d
    || (s.waitsIn c && (decide (s.prio d < s.prio c) || (s.prio d = s.prio c && decide (s.turnOf c ≤ s.turnOf d))))

/-- Pre-empt one room: it stops issuing, and at its pre-emption point it is saved and leaves its lease. -/
def preempt (s : State) (r : Nat) : State :=
  if (s.room r).lease.isNone || (s.room r).role = 3 then s
  else
    let s1 := s.stopRoom r
    if s1.atPoint r && !s1.faulted r then s1.saveRoom r else s1

/-- Pre-empt every room of a context that gives way; once all are at their points, all are saved and the context is out, behind the
others in the round-robin (06 R203, R204). -/
def sliceOut (s : State) (c : Nat) : State :=
  match s.ctx c with
  | none => s
  | some x =>
    if x.slicedOut || !s.givesWay c then s
    else
      let held := x.rooms.zipIdx.filter fun (r, li) => (s.room r).lease = some (c, li)
      let rs := held.map (·.1)
      let s1 := rs.foldl (fun t r => t.stopRoom r) s
      if rs.all fun r => s1.atPoint r && !s1.faulted r then
        let lnd := s.lndOf c
        (rs.foldl (fun t r => t.saveRoom r) s1).modCtx c fun y =>
          { y with rooms := [], slicedOut := true, rotate := false, turn := s.lastTurn, lnd := lnd }
      else s1

/-- Restore all rooms of the next context together. -/
def sliceIn (s : State) (c : Nat) (rooms : List Nat) : State :=
  match s.ctx c with
  | none => s
  | some x =>
    if !x.slicedOut || !s.nextIn c || !(s.grantable rooms && s.allFree rooms) || rooms.length ≠ x.size then s
    else
      let s1 := (s.modCtx c fun y => { y with rooms := rooms, slicedOut := false }).placeLease c rooms
      rooms.zipIdx.foldl (fun t (r, li) => t.loadRoom c li r) s1

end State

/-! Effects -/

def effPreemptRoom (r : Nat) (s : State) : State := s.preempt r

/-- A saved room of a context that is in is restored into a free active room. -/
def effRestoreRoom (c li r : Nat) (s : State) : State :=
  match s.ctx c with
  | some x =>
    if x.slicedOut || !(s.grantable [r] && s.allFree [r]) || li ≥ x.rooms.length then s else s.loadRoom c li r
  | none => s

/-- A quantum is over: when another context of the same or a higher priority waits, this one gives way; otherwise its next quantum
begins (R203; 21 Table 21.6). -/
def effQuantumExpiry (c : Nat) (s : State) : State :=
  match s.ctx c with
  | some x =>
    if x.slicedOut || decide (s.now < x.quantum.1 + x.quantum.2) then s
    else if !s.contended || !s.equalWaits c then s.modCtx c fun y => { y with quantum := (s.now, s.quantumNs c) }
    else ((x.rooms.zipIdx.filter fun (r, li) => (s.room r).lease = some (c, li)).foldl (fun t v => t.stopRoom v.1) s).modCtx c fun y =>
      { y with rotate := true }
  | none => s

/-! Meanings -/

def execPreemptRoom (r : Nat) (s : State) := run [bSTW, bRoom r] s (s.live (effPreemptRoom r s))
def execRestoreRoom (c li r : Nat) (s : State) := run [bSTW, bRoom r] s (s.live (effRestoreRoom c li r s))
def execQuantumExpiry (c : Nat) (s : State) := run [bSTW] s (s.live (effQuantumExpiry c s))
def execSliceOut (c : Nat) (s : State) := run [bSTW] s (s.live (s.sliceOut c))
def execSliceIn (c : Nat) (rooms : List Nat) (s : State) := run [bSTW] s (s.live (s.sliceIn c rooms))

end Sys2Proof.Machine
end

