-- ==== Sys2Proof/Machine/Admit.lean ====
section
/-! DEFINITION. Admission of trellis tiles by the power manager (01 R19, R23, Table 1.7; 20 R655, R666 to R669, R672). -/

namespace Sys2Proof.Machine

/-- The head of a queue may enter the feeder: it has a segment and its sideboard terms, the tile before it has all of its
segments, the room issues, and a tasted tile has room in the tasting queue (03 R105, R106; 04 R142, R147). -/
def headReady (x : Room) (t : Trellis) (j : TileJob) : Bool :=
  let prevDone := match t.flying.getLast? with
    | some k => decide (k.loaded = k.segs)
    | none => true
  j.loaded ≠ 0 && j.sbReady && prevDone && !x.seqr.stopped && !(j.taste && x.taste.length ≥ 4)

namespace State

def modPwr (s : State) (f : Pwr → Pwr) : State := { s with pwr := f s.pwr }

/-- CAP as it acts, in W. -/
def capW (s : State) : Nat :=
  let w := 25 * min 0x7C (s.regBits rPWR_CTL 8 8)
  if s.pwr.under then min w 2900 else w

/-- The projected draw in mW: the last measurement and every tile admitted since (R666). -/
def projected (s : State) : Nat := 1000 * s.regBits rPWR_DRAW 0 16 + s.pwr.extra

/-- The estimate for a tile on an upper (false) or lower (true) trellis, in mW (R666). -/
def tileEst (s : State) (lower : Bool) : Nat := if lower then s.pwr.tileMw.2 else s.pwr.tileMw.1

/-- Estimate of the in-field test of a room: a tile on each of its trellises, charged once when its built-in sets end. R666 gives estimates
by tile kind only: DESIGN CHOICE (log 10). -/
def testEst (s : State) : Nat := 8 * s.tileEst false + 4 * s.tileEst true

/-- New-work tiles that wait for admission in a room: a head that is ready, by its trellis. -/
def waiting (s : State) (r : Nat) : List Nat :=
  if (s.room r).role = 3 then [] else (List.range 12).filter fun t => match ((s.room r).trell.getD t {}).queue with
    | j :: _ => headReady (s.room r) ((s.room r).trell.getD t {}) j
    | [] => false

/-- Estimates of the new-work tiles that wait in these rooms. -/
def waitingEst (s : State) (rs : List Nat) : Nat := (rs.map fun r => ((s.waiting r).map fun t => s.tileEst (t ≥ 8)).sum).sum

/-- The power manager admits new tiles at all, in this room (R668, R672; 20 Table 20.2). -/
def admitsAny (s : State) (r : Nat) : Bool :=
  !s.pwr.excess && !s.pwr.crit && !s.regBit rPWR_STATUS 24 && decide (s.pwr.wingHold.getD (r / 36) 0 ≤ s.now)

/-- The projection stays at or below CAP with `first` mW of tiles that go first and `n` mW more (R666). -/
def fits (s : State) (first n : Nat) : Bool := decide (s.projected + first + n ≤ 1000 * s.capW)

/-- The rooms whose new work goes before room r's: those from the rotation's place up to r (01 Table 1.7). -/
def roomsBefore (s : State) (r : Nat) : List Nat :=
  ((List.range 72).map fun i => (s.pwr.rot + i) % 72).takeWhile fun x => x ≠ r

/-- A new-work tile of room r is admitted: tiles of rooms the rotation serves first, and of earlier trellises of its own room, go
before it (R666; 01 Table 1.7; the order inside a room and the form of the rotation are the model's, log 10). -/
def admits (s : State) (r t : Nat) : Bool :=
  s.admitsAny r && s.fits (s.waitingEst (s.roomsBefore r) + (((s.waiting r).filter (· < t)).map fun x => s.tileEst (x ≥ 8)).sum)
    (s.tileEst (t ≥ 8))

/-- An in-field test of room r is admitted: all new work that waits goes before it (01 Table 1.7). -/
def admitsTest (s : State) (r : Nat) : Bool := s.admitsAny r && s.fits (s.waitingEst (List.range 72)) s.testEst

/-- A tile is admitted: new work as `admits` says, a tile of a room under test when all new work that waits fits before it (01 Table
1.7). -/
def admitsTile (s : State) (r t : Nat) : Bool :=
  if (s.room r).role = 3 then s.admitsAny r && s.fits (s.waitingEst (List.range 72)) (s.tileEst (t ≥ 8)) else s.admits r t

/-- Test tiles that wait for admission in a room under test: heads that are ready, by trellis. -/
def waitingTest (s : State) (r : Nat) : List Nat :=
  if (s.room r).role ≠ 3 then [] else (List.range 12).filter fun t => match ((s.room r).trell.getD t {}).queue with
    | j :: _ => headReady (s.room r) ((s.room r).trell.getD t {}) j
    | [] => false

/-- Estimates of the in-field tests that wait: the built-in sets of each room whose test has not been admitted, and the ready tiles of pack
kernels. -/
def testsEst (s : State) : Nat :=
  (s.tst.tests.filter fun x => x.st = 1 && x.krun.isNone).length * s.testEst
    + ((List.range 72).map fun r => ((s.waitingTest r).map fun t => s.tileEst (t ≥ 8)).sum).sum

/-- A tasting tile of room r is admitted: all new work and all tests that wait go before it (01 Table 1.7). -/
def admitsTaste (s : State) (r : Nat) : Bool :=
  s.admitsAny r && s.fits (s.waitingEst (List.range 72) + s.testsEst) (s.tileEst true)

/-- A tile is withheld: CAPPING. -/
def withhold (s : State) : State := s.setRegBit rPWR_STATUS 19 true

/-- Tiles of `mw` are admitted: their estimate enters the projection. -/
def chargeMw (s : State) (mw : Nat) : State :=
  let s1 := { s with pwr := { s.pwr with extra := s.pwr.extra + mw } }
  s1.setRegBits rPWR_DRAW 16 16 (min 65535 (s1.projected / 1000))

/-- A new-work tile of room r is admitted; the rotation goes on behind the room. -/
def charge (s : State) (r : Nat) (lower : Bool) : State :=
  (s.chargeMw (s.tileEst lower)).modPwr fun p => { p with rot := (r + 1) % 72 }

/-- A tile is admitted: a test's tile leaves the rotation as it is. -/
def chargeTile (s : State) (r : Nat) (lower : Bool) : State :=
  if (s.room r).role = 3 then s.chargeMw (s.tileEst lower) else s.charge r lower

/-! Start tokens (20 R667) -/

/-- A trellis that has been idle for more than 1 µs starts a tile only with a start token. -/
def needsToken (s : State) (x : Trellis) : Bool := x.flying.isEmpty && decide (s.now > x.idleSince + 1000)

/-- Start tokens that a wing has left in the 100 ns of now, of its 8 (tokens not used lapse: log 10). -/
def tokensLeft (s : State) (wing : Nat) : Nat :=
  match s.pwr.tokens.getD wing (0, 0) with
  | (w, n) => if w = s.now / 100 then 8 - n else 8

/-- A wing grants a start token. -/
def takeToken (s : State) (wing : Nat) : State :=
  s.modPwr fun p => { p with tokens := p.tokens.set wing (s.now / 100, 8 - s.tokensLeft wing + 1) }

end State

end Sys2Proof.Machine
end

