-- ==== Sys2Proof/Machine/Ports.lean ====
section
/-! DEFINITION. The Gysal ports' states, their flits, and the stop wave (11 R383 to R391, R405, R408 to R410; 22 R695). -/

namespace Sys2Proof.Machine

namespace State

/-- The ports have power and clocks in every device state but OFF. -/
def portOn (s : State) (p : Nat) (t : State) : State := if s.devState = stOFF ∨ p ≥ 32 then s else t

/-- A port leaves its state for another; leaving UP loses the link (11 R389, R405). -/
def portTo (s : State) (p st : Nat) : State :=
  if s.portState p = psUP then (s.setPort p st).loseLink p else s.setPort p st

/-- One step of Table 11.2. -/
def portStep (s : State) (p src dst : Nat) : State :=
  if s.portState p = src then s.portTo p dst else s

/-- DISABLE set (R417). -/
def portDisable (s : State) (p : Nat) : State :=
  let s1 := s.setRegBit (rFAB_PORT p) 0 true
  if s1.portState p = psDISABLED then s1 else (s1.portTo p psDISABLED).gate (96 + p)

/-- DISABLE cleared: the port is DOWN until a signal is detected (Table 11.2). -/
def portEnable (s : State) (p : Nat) : State := 
  let s1 := s.setRegBit (rFAB_PORT p) 0 false
  if s1.portState p = psDISABLED then (s1.wake (96 + p)).setPort p psDOWN else s1

end State

/-! Effects -/

/-- FEC locks: the port enters INIT and sends its TRAIN flit (R383). -/
def effPortFecLock (p : Nat) (s : State) : State :=
  if s.portState p = psFEC_LOCK ∨ s.portState p = psRETRAIN then (s.setPort p psINIT).sendTrain p false else s

def effPortLossOfSignal (p : Nat) (s : State) : State :=
  let st := s.portState p
  if st = psDISABLED ∨ st = psDOWN then s else s.portTo p psDOWN

/-- A TRAIN flit: another version is refused and counted; an equal one in INIT completes the exchange; one with RESET in
UP brings fresh buffer sizes and is answered (R383, R384). -/
def effTrainFlit (p : Nat) (f : TrainFlit) (s : State) : State :=
  if s.portState p ≠ psINIT ∧ !s.portUp p then s
  else
  let st := s.portState p
  let s := (s.bump fmPORT p 1 1).heard p f.link
  if f.version ≠ Config.fabricVersion then
    (s.setRegBit (rFAB_PORT p) 1 true).modFab fun x => { x with refused := x.refused + 1 }
  else
    let s1 := s.modPort p fun q => { q with trainSeen := true, bufs := f.bufs }
    if st = psUP then s1.pump p
    else
      let s2 := if (s1.port p).trainSent then s1 else s1.sendTrain p false
      (s2.setPort p psUP).pump p

/-- A NAK: every unacknowledged flit goes out again, before any new one (R388, R391). -/
def effNakFlit (p : Nat) (l : LinkHdr) (s : State) : State :=
  if s.portUp p then (((s.bump fmPORT p 1 1).heard p l).resend p).pump p else s

def effIdleFlit (p : Nat) (l : LinkHdr) (s : State) : State :=
  if s.portUp p then (s.bump fmPORT p 1 1).hear p l else s

/-- The expected flit has not come: another NAK (R387). -/
def effNakRepeat (p : Nat) (s : State) : State :=
  if s.portUp p ∧ (s.port p).nakSent then s.sendNak p else s

def effReplayTimeout (p : Nat) (s : State) : State :=
  if s.portUp p ∧ (s.port p).replay ≠ [] then s.resend p else s

/-- LIFETIME has passed since the link was lost: each waiting packet whose response has not arrived is resent (R405). -/
def effLinkLostResend (p : Nat) (s : State) : State :=
  let ks := (s.port p).lost
  let s1 := s.modPort p fun q => { q with lost := [] }
  ks.foldl (fun t k => if t.fab.reqs.any fun q => q.tag = k.tag then t.send { k with dup := true } else t) s1

/-- A flit of a reserved type is discarded and counted (R385). -/
def effReservedFtype (p ftype : Nat) (s : State) : State :=
  if 5 ≤ ftype ∧ ftype ≤ 15 ∧ s.portUp p then
    (s.bump fmPORT p 1 1).modFab fun f => { f with badFtype := f.badFtype + 1 }
  else s

/-- STOP_ID, origin, origin-valid and time base of a STOP flit's word 1 (R409). -/
def stopFields (f : DataFlit) : Nat × Nat × Bool × Nat :=
  let w := leNum ((f.bytes.drop 16).take 16)
  (w % 65536, w / 2 ^ 16 % 2 ^ 18, w.testBit 34, w / 2 ^ 64)

/-- A STOP flit: its acknowledgement and credits are heard; one whose pair is new stops the module, and the wave goes on (R385, R408). -/
def effStopFlit (p : Nat) (f : DataFlit) (s : State) : State :=
  s.rxFlit p f 3 fun t =>
    let (id, origin, valid, w) := stopFields f
    if t.fab.stops.contains (id, origin) then t.hear p f.link
    else ((t.heard p f.link).stopWave id origin valid w).halt

/-- STOP# falls while this module does not drive it, nor within 1 µs of its release (22 R695). -/
def effStopPinFall (s : State) : State :=
  let near := (s.dbg.stopRel.map fun t => decide (s.now < t + 1000)).getD false
  if s.devState = stOFF ∨ s.dbg.stopDriven ∨ near then s else s.globalStop

/-- The 5 µs of drive are over. -/
def effStopDriveRelease (s : State) : State :=
  if s.dbg.stopDriven then s.modDbg fun d => { d with stopDriven := false, stopRel := some s.now } else s

/-! Meanings -/

def execPortDisable (p : Nat) (s : State) := run [bFAB] s (s.portOn p (s.portDisable p))
def execPortDisableClear (p : Nat) (s : State) := run [bFAB] s (s.portOn p (s.portEnable p))
def execPortSignalDetect (p : Nat) (s : State) := run [bFAB] s (s.portOn p (s.portStep p psDOWN psTRAINING))
def execPortTrainingDone (p : Nat) (s : State) := run [bFAB] s (s.portOn p (s.portStep p psTRAINING psFEC_LOCK))
def execPortFecLock (p : Nat) (s : State) := run [bFAB] s (s.portOn p (effPortFecLock p s))
def execPortLossOfLock (p : Nat) (s : State) := run [bFAB] s (s.portOn p (s.portStep p psUP psRETRAIN))
def execPortLossOfSignal (p : Nat) (s : State) := run [bFAB] s (s.portOn p (effPortLossOfSignal p s))
def execRetrainTimeout (p : Nat) (s : State) := run [bFAB] s (s.portOn p (s.portStep p psRETRAIN psDOWN))
def execTrainFlit (p : Nat) (f : TrainFlit) (s : State) := run [bFAB] s (s.portOn p (effTrainFlit p f s))
def execDataFlit (p : Nat) (f : DataFlit) (s : State) := run [bFAB] s (s.portOn p (s.dataFlit p f))
def execNakFlit (p : Nat) (l : LinkHdr) (s : State) := run [bFAB] s (s.portOn p (effNakFlit p l s))
def execIdleFlit (p : Nat) (l : LinkHdr) (s : State) := run [bFAB] s (s.portOn p (effIdleFlit p l s))
def execNakRepeatTimeout (p : Nat) (s : State) := run [bFAB] s (s.portOn p (effNakRepeat p s))
def execReplayTimeout (p : Nat) (s : State) := run [bFAB] s (s.portOn p (effReplayTimeout p s))
def execLinkLostResend (p : Nat) (s : State) := run [bFAB] s (s.portOn p (effLinkLostResend p s))
def execReservedFtypeFlit (p ftype : Nat) (_ : LinkHdr) (s : State) := run [bFAB] s (s.portOn p (effReservedFtype p ftype s))
def execStopFlit (p : Nat) (f : DataFlit) (s : State) := run [bFAB, bDBG] s (s.portOn p (effStopFlit p f s))
def execStopPinFall (s : State) := run [bDBG] s (effStopPinFall s)
def execStopDriveRelease (s : State) := run [bDBG] s (effStopDriveRelease s)

end Sys2Proof.Machine
end

