-- ==== Sys2Proof/Machine/Time.lean ====
section
/-! DEFINITION. Clock stretching, the time base, its replicas, and alignment to the parent module (16 R548 to R562). -/

namespace Sys2Proof.Machine

/-- Offset of an exchange, in half ns, and its delay, in half ns (16 R556). -/
def Stamp4.offset2 (x : Stamp4) : Int := ((x.t2 : Int) - x.t1) + ((x.t3 : Int) - x.t4)
def Stamp4.delay2 (x : Stamp4) : Int := ((x.t4 : Int) - x.t1) - ((x.t3 : Int) - x.t2)

/-- The exchange with the smallest delay, the earliest of equals (16 R556). -/
def bestStamp (xs : List Stamp4) : Option Stamp4 :=
  xs.foldl (fun acc x => match acc with
    | none => some x
    | some y => if Stamp4.delay2 x < Stamp4.delay2 y then some x else some y) none

/-- OFFSET of TB_STATUS, saturating at ±32,767 (16 Table 16.3). -/
def offsetField (off : Int) : Nat := (BitVec.ofInt 16 (max (-32767) (min 32767 off))).toNat

/-- The parent a module follows (16 R555). -/
inductive Parent where
  | none
  | near (port : Nat)
  | far (num : Nat)
  deriving DecidableEq, Repr

namespace State

/-- House position as a hello carries it. -/
def position (s : State) : Option Nat := s.housePos

def parent (s : State) : Parent :=
  if s.regBit rTB_CTL 31 then .far (s.regBits rTB_CTL 0 18)
  else if s.fab.num = some 0 then .none
  else match s.position with
  | none => .none
  | some 0 => match s.fab.num with
    | some d => if d / 8 = 0 then .none else .far ((d / 8 - 1) / 8 * 8)
    | Option.none => .none
  | some _ =>
    match (List.range 16).find? fun p => s.portState p = psUP && (((s.port p).hello.map fun h => h.1.pos) = some 0) with
    | some p => .near p
    | Option.none => .none

/-- The parent's hello says ALIGNED; a far parent that is not aligned answers NOT_READY and gives no stamps. -/
def parentAligned (s : State) : Bool :=
  match s.parent with
  | .none => false
  | .near p => ((s.port p).hello.map fun h => h.1.aligned).getD false
  | .far _ => true

/-- The root advances at its rate (16 R559). -/
def advanceRoot (s : State) (ns : Nat) : State :=
  let t := (ns : Int) * (1000000000 + s.tb.rate) + s.tb.frac
  { s with tb := { s.tb with root := s.tb.root + BitVec.ofInt 64 (t / 1000000000), frac := t % 1000000000 } }

/-- The writes that wait to be sent leave, each in pieces of at most 4 KiB (08 R284; log 16). -/
def sendPosted (s : State) : State :=
  let s0 : State := { s with mmu := { s.mmu with posted := [] } }
  s.mmu.posted.foldl (fun t k => (globPieces k.addr k.arg).foldl (fun t (g, n) =>
    t.request .mgmt { k with op := opWRITE, addr := g, arg := n, data := (k.data.drop (g - k.addr)).take n }) t) s0

/-- Time passes: the press and the racking engine count their waits, and the root counts (09 R320; R550). -/
def elapse (s : State) (ns : Nat) : State := (s.pressTime ns).advanceRoot ns

/-- What a nanosecond does while no command waits: posted writes leave, and the root counts it at its rate; a module that is OFF keeps no
time (R550; logs 1, 16). -/
def idle (s : State) : State := if s.devState = stOFF then s else s.sendPosted.elapse 1

/-- The root's count goes to every replica (16 R551). -/
def loadReplicas (s : State) : State :=
  let slip := (s.tb.replicas.filter fun x => decide (x.2 + 4 < s.now)).length
  { s with tb := { s.tb with slips := s.tb.slips + slip, replicas := s.tb.replicas.filter fun x => decide (x.2 > s.now) } }

/-- Set HOLDOVER and report it (16 R561). -/
def holdover (s : State) : State :=
  if s.regBit rTB_STATUS 30 then s else (s.setRegBit rTB_STATUS 30 true).reportMgr 2 0 0

/-- A measurement that failed; the third in a row sets HOLDOVER. -/
def measureFailed (s : State) : State :=
  let s1 := { s with tb := { s.tb with fails := s.tb.fails + 1 } }
  if s1.tb.fails ≥ 3 then s1.holdover else s1

/-- ALIGNED sets: the ports send a fresh TRAIN exchange with their full buffers (16 R557). -/
def setAligned (s : State) : State := (s.setRegBit rTB_STATUS 31 true).retrainAll

end State

/-! Effects -/

/-- The supply falls more than DROOP_MV below the setpoint: s rises to STRETCH_MAX at most (R548). -/
def effSupplyDroop (r mv : Nat) (s : State) : State :=
  let x := s.room r
  let top := min 8 (s.regBits (rRM_STRETCH_CTL r) 8 4)
  if r ≥ 72 ∨ x.gated ∨ mv ≤ s.regBits (rRM_STRETCH_CTL r) 0 8 then s
  else
    let s1 := if x.stretch = 0 then s.lifeAdd lfDroop (8 * r + min 7 (mv / 10)) 1 else s
    let s2 := if x.stretch = 0 ∧ 0 < top then
        (((s1.regCount (rRM_STRETCH_CTL r) 16 8 1).lifeAdd lfStretch r 1).bump fmSEQ r 5 1).riskEvent 1 0 else s1
    s2.modRoom r fun x => { x with stretch := min top (x.stretch + 1), recovering := false }

/-- The supply has stayed above the threshold for 16 cycles: s falls. -/
def effDroopRecovery (r : Nat) (s : State) : State :=
  if r ≥ 72 ∨ (s.room r).stretch = 0 then s
  else s.modRoom r fun x => { x with stretch := x.stretch - 1, recovering := decide (x.stretch > 1) }

/-- A spare room in deep idle, with no hand-off and no test due, gates its reference (R553). -/
def effDeepIdleGate (r : Nat) (s : State) : State :=
  let x := s.room r
  if r < 72 ∧ x.role = 1 ∧ x.lease.isNone ∧ !s.tst.tests.any (fun t => t.room = r) then s.gate r else s

/-- A gated island may wake: a room that is not retired, a port not in DISABLED, a press cluster with a core in use. -/
def State.mayWake (s : State) (i : Nat) : Bool :=
  if i < 72 then (s.room i).role ≠ 2
  else if 96 ≤ i ∧ i < 128 then s.portState (i - 96) ≠ psDISABLED
  else true

def effIslandWake (island : Nat) (s : State) : State := if s.mayWake island then s.wake island else s

def effTbRootLoad (elapsed : Nat) (s : State) : State := (s.elapse elapsed).loadReplicas

/-- The first alignment after a start: the root steps once (R558). -/
def effTbAlign (stamps : List Stamp4) (s : State) : State :=
  if s.devState ≠ stREADY ∨ s.ctxs.any Option.isSome ∨ s.aligned ∨ !s.parentAligned then s
  else match bestStamp stamps with
  | none => s
  | some x =>
    let before := s.now
    let live := (List.range 140).filter fun i => !s.tb.gated.any fun g => g.1 = i
    let s1 := { s with
      tb := { s.tb with root := s.tb.root + BitVec.ofInt 64 (Stamp4.offset2 x / 2), replicas := live.map fun i => (i, s.nowAt i) } }
    let s2 := s1.setRegBits rTB_STATUS 0 16 (offsetField (Stamp4.offset2 x / 2))
    (s2.trace isRoot 0 tySTEP none (leBytes 8 before ++ leBytes 8 s2.now)).setAligned

/-- The offset measured each second is slewed out over the next (R559), or the measurement fails (R561). -/
def effTbMeasure (stamps : List Stamp4) (s : State) : State :=
  if !s.aligned ∨ s.parent = .none then s
  else if !s.parentAligned then s.holdover
  else match bestStamp stamps with
  | none => s.measureFailed
  | some x =>
    let off := Stamp4.offset2 x / 2
    let s1 := (s.setRegBits rTB_STATUS 0 16 (offsetField off)).setRegBit rTB_STATUS 30 false
    { s1 with tb := { s1.tb with rate := max (-50000) (min 50000 off), fails := 0 } }

/-- A PTM result is latched as a pair (R562). -/
def effPtmDialogue (host : W64) (s : State) : State :=
  let put (t : State) (o : Nat) (v : W64) : State := (t.setReg o (v.setWidth 32)).setReg (o + 4) ((v >>> 32).setWidth 32)
  put (put s rTB_PTM_HOST host) rTB_PTM_LOCAL (BitVec.ofNat 64 (s.nowAt isHost))

/-! Meanings -/

/-- The module has power. -/
def State.powered (s t : State) : State := if s.devState = stOFF then s else t

def execSupplyDroop (r mv : Nat) (s : State) := run [bRoom r] s (s.powered (effSupplyDroop r mv s))
def execDroopRecovery (r : Nat) (s : State) := run [bRoom r] s (s.powered (effDroopRecovery r s))
def execDeepIdleGate (r : Nat) (s : State) := run [bRoom r] s (s.live (effDeepIdleGate r s))
def execIslandWake (island : Nat) (s : State) := run [bTB] s (s.powered (effIslandWake island s))
def execTbRootLoad (elapsed : Nat) (s : State) := run [bTB] s (s.powered (effTbRootLoad elapsed s))
def execTbAlign (stamps : List Stamp4) (s : State) := run [bTB] s (effTbAlign stamps s)
def execTbMeasure (stamps : List Stamp4) (s : State) := run [bTB] s (s.powered (effTbMeasure stamps s))
def execPtmDialogue (host : W64) (s : State) := run [bTB] s (s.powered (effPtmDialogue host s))

end Sys2Proof.Machine
end

