-- ==== Sys2Proof/Machine/Power.lean ====
section
/-! DEFINITION. Input, rails, device states, draining, resets, power capping and thermal throttling (chapter 20). -/

namespace Sys2Proof.Machine

/-- Causes of a start (20 Table 20.7 LAST_RESET). -/
abbrev lrPOWER_UP : Nat := 0
abbrev lrPERST_WARM : Nat := 1
abbrev lrPERST_COLD : Nat := 2
abbrev lrWARM : Nat := 3
abbrev lrCOLD : Nat := 4
abbrev lrSTEWARD : Nat := 5
abbrev lrWATCHDOG : Nat := 6
abbrev lrTRIP : Nat := 7

namespace State


/-! What each reset keeps (Table 20.4) -/

/-- The state a warm or cold start begins from: the keeping store, the straps, the input and what has been sent stay;
`lost` tells that HBM is lost, `cold` that the start is no warm reset. Lost memory reads as memory that nothing has written
(log 3). -/
def wipe (s : State) (lost cold : Bool) : State :=
  { pending := s.pending
    regs := []
    rooms := (List.range 72).map fun r => { role := (s.tst.repair.getD r {}).role }
    ctxs := List.replicate 16 none
    hbm := if lost then [] else s.hbm
    buttery := []
    hostMem := s.hostMem
    mmu := { retired := s.mmu.retired }
    vnt := [{}, {}]
    tb := {}
    fab := {
      slotId := s.fab.slotPin, feedId := s.fab.feedPin, slotPin := s.fab.slotPin, feedPin := s.fab.feedPin
      taken := if cold then none else s.fab.taken }
    dbg := { unlocked := s.dbg.unlocked && !cold, stopDriven := s.dbg.stopDriven }
    prs := { sizeSet := s.prs.sizeSet, size := s.prs.sizeSet.getD 24 }
    rck := {}
    life := { slots := s.life.slots }
    col := if lost then {} else { reshDir := s.col.reshDir, cut := s.col.reshDir.filter fun x => s.journalState x.2 = 1 }
    host := { bar2Gib := s.host.bar2Gib }
    res := { held := if lost then [] else s.res.held }
    tst := {
      full := lost, override := s.tst.nextOver, rowmaps := s.tst.rowmaps, packs := s.tst.packs
      suspended := s.tst.suspended, turns := s.tst.turns, sigs := s.tst.sigs
      repair := s.tst.repair.zipIdx.map fun (x, r) => { x with first := x.first || s.tst.tests.any fun y => y.room = r && y.st = 1 } }
    pwr := { under := s.pwr.under, perst := s.pwr.perst, tileMw := s.pwr.tileMw }
    sec := { s.sec with parts := [], meas := List.replicate 8 (List.replicate 32 0), quote := [], auths := [] }
    out := s.out
    free := s.free }

/-- A start: BOOT, its cause recorded, the start and the way the last period ended counted (R651, R656, R657; 17 Table
17.11). -/
def begin (s : State) (lost cold : Bool) (cause : Nat) : State :=
  let s1 := if s.devState = stBOOT then s else s.msix 1 2
  let t := (s1.wipe lost cold).setRegBits rPWR_STATUS 25 3 cause
  let t := (t.setRegBit rPWR_STATUS 18 s.pwr.under).lifeAdd lfState stBOOT 1
  let t := t.lifeAdd lfStarts 0 1
  if s.pwr.lastEnd = 1 then t.lifeAdd lfOrderly 0 1 else if s.pwr.lastEnd = 2 then t.lifeAdd lfAbrupt 0 1 else t

/-- A cold reset; nothing happens while the module is OFF. -/
def coldReset (s : State) (cause : Nat) : State := if s.devState = stOFF then s else s.begin true true cause

/-- A warm reset: HBM stays unless POST_FULL is set (R659). -/
def warmReset (s : State) (cause : Nat) : State :=
  if s.devState = stOFF then s else s.begin (s.regBit rSTW_TEST_CTL 1) false cause

/-- A reset the steward requests: the lifetime items are written first (17 R588). -/
def stewardReset (s : State) : State := if s.devState = stOFF then s else (s.lifeWrite true).warmReset lrSTEWARD

/-- Every rail stops: the module is OFF and everything volatile is lost (R647, R673, R674). -/
def railsStop (s : State) (orderly : Bool) : State :=
  if s.devState = stOFF then s.modPwr fun p => { p with rail := 0 }
  else
    let s1 := s.wipe true true
    (s1.setDevState stOFF).modPwr fun p => { p with lastEnd := if orderly then 1 else 2 }

/-! Draining (R654 to R656) -/

/-- READY as the module enters it: DRAIN set at once begins draining. -/
def startDrain (s : State) : State :=
  if s.devState = stREADY ∨ s.devState = stRUNNING then (s.modPwr fun p => { p with drainT := s.now }).enter stDRAINING else s

def stopDrain (s : State) : State :=
  if s.devState = stDRAINING then ((s.setRegBit rPWR_STATUS 24 false).enter stREADY).activity else s

/-- DRAIN_S as it acts, in ns. -/
def drainNs (s : State) : Nat := (let v := s.regBits rPWR_CTL 16 8; if v = 0 then 60 else v) * 1000000000

/-- Launches accepted and not ended. -/
def openLaunches (s : State) : List (Nat × Nat) :=
  (List.range 16).flatMap fun c => ((List.range 64).filter fun sl => (s.launch c sl).isSome).map fun sl => (c, sl)

end State

/-! Temperatures (Table 20.5) -/

namespace Sensors

def warning (m : Sensors) : Bool := m.room ≥ 95 || m.hbm ≥ 85 || m.plate ≥ 55
def throttle (m : Sensors) : Bool := m.room ≥ 100 || m.hbm ≥ 90 || m.plate ≥ 60
def critical (m : Sensors) : Bool := m.room ≥ 105 || m.hbm ≥ 95 || m.plate ≥ 65
def trip (m : Sensors) : Bool := m.room ≥ 110 || m.hbm ≥ 100

end Sensors

namespace State

/-- WARNING and CRITICAL as the sensors stand; admission resumes once no sensor is critical (R672). -/
def readSensors (s : State) (m : Sensors) : State :=
  let s1 := (s.setRegBit rPWR_STATUS 16 (Sensors.warning m)).setRegBit rPWR_STATUS 17 (Sensors.critical m)
  if Sensors.critical m then s1 else s1.modPwr fun p => { p with crit := false }

end State

/-! Effects -/

/-- The input has held 40 V for 10 ms: the conversion starts (R647). -/
def effInputValid (s : State) : State :=
  if s.devState = stOFF ∧ s.pwr.rail = 0 ∧ !s.pwr.locked then s.modPwr fun p => { p with rail := 1, under := false } else s

/-- A rail reports good; the last one is power-good (R648). -/
def effRailGood (s : State) : State :=
  if s.devState ≠ stOFF ∨ s.pwr.rail = 0 then s
  else if s.pwr.rail < 4 then s.modPwr fun p => { p with rail := p.rail + 1 }
  else s.begin true true (if s.pwr.tripped then lrTRIP else lrPOWER_UP)

/-- A rail misses its limit (R648). -/
def effRailTimeout (s : State) : State :=
  if s.pwr.rail = 0 then s else s.modPwr fun p => { p with rail := 0, locked := true }

/-- The input lies between 38 V and 40 V (R647; 14 Table 14.4). -/
def effInputUndervolt (s : State) : State :=
  if s.devState = stOFF then s
  else ((s.setRegBit rPWR_STATUS 18 true).modPwr fun p => { p with under := true }).immediate

def effUndervoltClear (s : State) : State :=
  if s.devState = stOFF then s else (s.setRegBit rPWR_STATUS 18 false).modPwr fun p => { p with under := false }

/-- The input has fallen below 38 V (R647, R656, R674). -/
def effInputLoss (s : State) : State :=
  (s.railsStop (s.regBit rPWR_STATUS 24)).modPwr fun p => { p with locked := false, under := false, rail := 0 }

def effInputOvervolt (s : State) : State := s.railsStop (s.regBit rPWR_STATUS 24)

/-- A sensor at trip: OFF until the input has fallen and risen (R673). -/
def effThermalTrip (m : Sensors) (s : State) : State :=
  if s.devState = stOFF ∨ !Sensors.trip m then s
  else (s.railsStop false).modPwr fun p => { p with locked := true, tripped := true }

def effPerstFall (s : State) : State :=
  let s1 := s.modPwr fun p => { p with perst := true }
  if s1.regBit rPWR_CTL 28 then s1.coldReset lrPERST_COLD else s1.warmReset lrPERST_WARM

def effPerstDeassert (s : State) : State := s.modPwr fun p => { p with perst := false }

/-- DRAIN set and cleared (R654). -/
def effDrainSet (s : State) : State := (s.setRegBit rPWR_CTL 29 true).startDrain
def effDrainClear (s : State) : State := (s.setRegBit rPWR_CTL 29 false).stopDrain

/-- Draining completes: launches still running end with STATUS 3, the lifetime store is written, DRAINED sets (R655). -/
def effDrainComplete (ok : Bool) (s : State) : State :=
  let ls := s.openLaunches
  if s.devState ≠ stDRAINING ∨ s.regBit rPWR_STATUS 24 ∨ (ls ≠ [] ∧ s.now < s.pwr.drainT + s.drainNs) then s
  else ((ls.foldl (fun t x => t.finishLaunch x.1 x.2 csRESET) s).lifeWrite ok).setRegBit rPWR_STATUS 24 true

/-- The measurement of every 10 µs (R666, R668); energies are in mJ since the last one (17 Table 17.2). -/
def effPowerMeasure (watts : Nat) (energy : List Nat) (s : State) : State :=
  let was := s.regBits rPWR_DRAW 0 16
  let s1 := s.setReg rPWR_DRAW (BitVec.ofNat 32 (min 65535 watts * 65537))
  let s2 := (s1.setRegBit rPWR_STATUS 19 false).modPwr fun p => { p with extra := 0, excess := p.excess && decide (watts > 3100) }
  let s3 := (List.range 3).foldl (fun t i => t.bump fmPOWER 0 i (energy.getD i 0)) s2
  if was ≤ 3100 ∧ 3100 < watts then s3.bump fmPOWER 0 5 1 else s3

/-- The draw has stayed above 3,100 W for 15 ms: no tile until it falls (R668). -/
def effExcursionLimit (s : State) : State :=
  if s.regBits rPWR_DRAW 0 16 ≤ 3100 then s
  else (s.regCount rPWR_STATUS 0 8 1).modPwr fun p => { p with excess := true }

/-- A droop held at STRETCH_MAX for more than 1 µs: the wing's new tiles wait 10 µs (R668). -/
def effDroopHold (r : Nat) (s : State) : State :=
  let top := min 8 (s.regBits (rRM_STRETCH_CTL r) 8 4)
  if r ≥ 72 ∨ top = 0 ∨ (s.room r).stretch < top then s
  else (s.regCount rPWR_STATUS 8 8 1).modPwr fun p => { p with wingHold := p.wingHold.set (r / 36) (s.now + 10000) }

/-- The throttle step of each ms (R671). -/
def effThrottleTick (m : Sensors) (s : State) : State :=
  let k := s.regBits rPWR_STATUS 20 4
  let k' := if Sensors.throttle m then min 8 (k + 1) else if m.cool10 then k - 1 else k
  (s.readSensors m).setRegBits rPWR_STATUS 20 4 k'

/-- A sensor reaches critical: THROTTLE 8 and no new tile (R672). -/
def effThermalCritical (m : Sensors) (s : State) : State :=
  if !Sensors.critical m then s
  else ((s.readSensors m).setRegBits rPWR_STATUS 20 4 8).modPwr fun p => { p with crit := true }

/-- Every 10 minutes: the time-driven items measured since the last write are added, and all are written (17 R588). -/
def effLifetimeTimer (ok : Bool) (m : List LifeSample) (s : State) : State :=
  let timed (k : Nat) : Bool := k = lfMinutes || k = lfStateMin || k = lfJunction || k = lfVolt || k = lfPower
  (m.foldl (fun t x => if timed x.item then t.lifeAdd x.item x.idx x.n else t) s).lifeWrite ok

/-! Meanings. The power conversion stands outside the PWR block: its events go on whatever that block's RSV bits hold. -/

def execInputValid (s : State) := run [] s (effInputValid s)
def execRailGood (s : State) := run [] s (effRailGood s)
def execRailTimeout (s : State) := run [] s (effRailTimeout s)
def execInputUndervolt (s : State) := run [] s (effInputUndervolt s)
def execUndervoltClear (s : State) := run [] s (effUndervoltClear s)
def execInputLoss (s : State) := run [] s (effInputLoss s)
def execInputOvervolt (s : State) := run [] s (effInputOvervolt s)
def execThermalTrip (m : Sensors) (s : State) := run [] s (effThermalTrip m s)
def execPerstFall (s : State) := run [bPWR] s (effPerstFall s)
def execPerstDeassert (s : State) := run [bPWR] s (effPerstDeassert s)
def execPwrResetWarm (s : State) := run [bPWR] s (s.warmReset lrWARM)
def execPwrResetCold (s : State) := run [bPWR] s (s.coldReset lrCOLD)
def execWatchdogExpiry (s : State) := run [bPWR] s (s.warmReset lrWATCHDOG)
def execDrainSet (s : State) := run [bPWR] s (s.powered (effDrainSet s))
def execDrainClear (s : State) := run [bPWR] s (s.powered (effDrainClear s))
def execDrainComplete (programOk : Bool) (s : State) := run [bPWR] s (effDrainComplete programOk s)
def execPowerMeasure (watts : Nat) (energy : List Nat) (s : State) := run [bPWR] s (s.powered (effPowerMeasure watts energy s))
def execExcursionLimit (s : State) := run [bPWR] s (s.powered (effExcursionLimit s))
def execDroopHold (r : Nat) (s : State) := run [bPWR] s (s.powered (effDroopHold r s))
def execThrottleTick (m : Sensors) (s : State) := run [bPWR] s (s.powered (effThrottleTick m s))
def execThermalCritical (m : Sensors) (s : State) := run [bPWR] s (s.powered (effThermalCritical m s))
def execLifetimeTimer (programOk : Bool) (m : List LifeSample) (s : State) :=
  run [] s (s.powered (effLifetimeTimer programOk m s))

end Sys2Proof.Machine
end

