-- ==== Sys2Proof/Machine/Sign.lean ====
section
/-! DEFINITION. Signature records in CBOR (15 R544, Table 15.9). -/

namespace Sys2Proof.Machine

/-- A CBOR value of the kinds a signature record holds. -/
inductive Cb where
  | uint (n : Nat)
  | bstr (bs : List Byte)
  | nums (ns : List Nat)
  | map (kv : List (Nat × Nat))
  | diff (off : Nat) (want got : List Byte)
  deriving DecidableEq, Repr

/-- A head in its shortest form (RFC 8949 section 4.2.1). -/
def cborHead (major n : Nat) : List Byte :=
  let be (k : Nat) : List Byte := (leBytes k n).reverse
  let h (x : Nat) : List Byte := leBytes 1 (major * 32 + x)
  if n < 24 then h n else if n < 2 ^ 8 then h 24 ++ be 1 else if n < 2 ^ 16 then h 25 ++ be 2
  else if n < 2 ^ 32 then h 26 ++ be 4 else h 27 ++ be 8

def cborUint (n : Nat) : List Byte := cborHead 0 n
def cborBytes (bs : List Byte) : List Byte := cborHead 2 bs.length ++ bs

def Cb.enc : Cb → List Byte
  | .uint n => cborUint n
  | .bstr bs => cborBytes bs
  | .nums ns => cborHead 4 ns.length ++ ns.flatMap cborUint
  | .map kv => cborHead 5 kv.length ++ kv.flatMap fun x => cborUint x.1 ++ cborUint x.2
  | .diff off want got =>
    cborHead 5 3 ++ cborUint 1 ++ cborUint off ++ cborUint 2 ++ cborBytes want ++ cborUint 3 ++ cborBytes got

/-- A record: keys ascend. -/
def cborRecord (kv : List (Nat × Cb)) : List Byte := cborHead 5 kv.length ++ kv.flatMap fun x => cborUint x.1 ++ x.2.enc

/-- Little-endian field of a manifest. -/
def FwImage.field (i : FwImage) (off n : Nat) : Nat := fieldLe i.manifest off n

namespace State

def modTst (s : State) (f : Tst → Tst) : State := { s with tst := f s.tst }

def powerMinutes (s : State) : Nat := natGet s.life.work (lfMinutes * 2 ^ 16)
def serial (s : State) : Nat := (s.reg rSTW_SERIAL).toNat + (s.reg (rSTW_SERIAL + 4)).toNat * 2 ^ 32

/-- What a signature record says beside what every record holds: origin, unit (kind, index, and sub-index and row where they
apply), the keys 8 to 14 that apply, the room whose environment it tells, action, and step. -/
structure SigInfo where
  origin : Nat
  kind : Nat
  index : Nat
  sub : List (Nat × Nat) := []
  keys : List (Nat × Cb) := []
  env : Option Nat := none
  action : Nat := 0
  step : Option Nat := none

/-- Add a signature record to the ring of 1,024. -/
def addSig (s : State) (i : SigInfo) : State :=
  let env (r : Nat) : List (Nat × Cb) :=
    [(15, .map [(1, Config.environment 1 r s.free), (2, Config.environment 2 r s.free), (3, Config.environment 3 r s.free),
      (4, s.regBits (rRM_LATCLASS r) 0 1), (5, s.regBits rSTW_RISK 29 3)])]
  let rec' := cborRecord ([(1, .uint s.serial), (2, .uint 0x21), (3, .uint (s.sec.active.field 8 4)), (4, .uint (s.powerMinutes / 60)),
    (5, .uint s.now), (6, .uint i.origin), (7, .map ([(1, i.kind), (2, i.index)] ++ i.sub))] ++ i.keys
    ++ (i.env.map env).getD [] ++ [(16, .uint i.action)] ++ (i.step.map fun x => [(17, Cb.uint x)]).getD [])
  let s1 := { s with free := s.free + 1 }
  s1.modTst fun t =>
    let l := t.sigs ++ [rec'.take 1024]
    { t with sigs := l.drop (l.length - 1024), newSigs := t.newSigs + 1 }

end State

end Sys2Proof.Machine
end

