-- ==== Sys2Proof/Machine/Security.lean ====
section
/-! DEFINITION. Security: critical commands, the audit ring, firmware and pattern transfer, the start of the firmware, and
attestation (chapter 19; 15 R541, R542; 17 R586, R587). -/

namespace Sys2Proof.Machine

namespace State

def modSec (s : State) (f : Sec → Sec) : State := { s with sec := f s.sec }

/-- The floor in force (R643): history entry k with k fuses blown; 0 with none. -/
def floor (s : State) : Nat := if s.sec.fuses = 0 then 0 else s.sec.floors.getD (s.sec.fuses - 1) 0

/-- Extend a measurement register (R625). -/
def extend (s : State) (i : Nat) (d : List Byte) : State :=
  s.modSec fun x => { x with meas := x.meas.set i (sha256 (x.meas.getD i [] ++ d)) }

/-! The audit ring (R633) -/

/-- Path code, and source as an audit entry names it. -/
def auditPath (q : Req) : Nat × Nat :=
  match q.path with
  | .pf1 _ => (0, 0)
  | .nsp src _ => (1, src)
  | .fab k => (2, k.src)

/-- Write an audit entry. -/
def auditPut (s : State) (op path source status counter : Nat) (args : List Byte) : State :=
  let e := leBytes 8 s.sec.auditSeq ++ leBytes 8 s.now ++ leBytes 4 s.powerMinutes ++ leBytes 2 op ++ leBytes 1 path ++ leBytes 1 status
    ++ leBytes 8 counter ++ leBytes 16 source ++ leBytes 4 1 ++ List.replicate 12 0#8 ++ sha256 args ++ List.replicate 32 0#8
  s.modSec fun x => { x with audit := (x.audit ++ [e]).drop ((x.audit.length + 1) - 4096), auditSeq := x.auditSeq + 1 }

/-- An AUTH refusal: counted; those of one source within a second share one entry. -/
def auditAuth (s : State) (op : Nat) (q : Req) (counter : Nat) (args : List Byte) : State :=
  let (path, src) := auditPath q
  let key := path + 4 * src
  let s1 := s.regCount rSEC_STATUS 8 8 1
  match s1.sec.auths.find? fun x => x.1 = key && decide (s1.now < x.2.1 + 1000000000) with
  | some (_, _, n) =>
    let up (e : List Byte) : List Byte := if fieldLe e 0 8 = n then patchLe e 0x30 4 (fieldLe e 0x30 4 + 1) else e
    s1.modSec fun x => { x with audit := x.audit.map up }
  | none =>
    let n := s1.sec.auditSeq
    (s1.auditPut op path src cAUTH counter args).modSec fun x =>
      { x with auths := (key, s1.now, n) :: x.auths.filter fun y => y.1 ≠ key }

/-- A critical command that the device state refuses writes its entry too (R631, R633). -/
def auditState (s : State) (q : Req) (op : Nat) : State :=
  if q.opcode = op ∧ s.devState ≠ stOFF ∧ (s.takeReq q).isSome ∧ q.flags < 2 ∧ q.len ≤ 1984 ∧ !(q.args.any (· ≠ 0)) ∧ !(s.cmdAllowed q) then
    let (path, src) := auditPath q
    s.auditPut op path src cSTATE (q.bodyLe 0 8) (q.bodyAt 0x30 (min 1936 (q.bodyLe 0x10 4)))
  else s

/-- A critical command's arguments, and its code over opcode, header and arguments (R629). -/
def critArgs (q : Req) : List Byte := q.bodyAt 0x30 (q.bodyLe 0x10 4)
def critTag (s : State) (q : Req) (op : Nat) : List Byte :=
  (hmac s.sec.cmdKey (leBytes 2 op ++ q.bodyAt 0 0x20 ++ critArgs q)).take 16

/-- The body's checks of R629: serial, reserved bytes, length, code, and a counter above the last one. -/
def critSound (s : State) (q : Req) (op : Nat) : Bool :=
  let alen := q.bodyLe 0x10 4
  q.bodyLe 8 8 = s.serial && !anyByte q.body 0x14 12 && alen ≤ 1936 && 0x30 + alen ≤ q.body.length
    && q.bodyAt 0x20 16 = critTag s q op && s.sec.counter < q.bodyLe 0 8

/-- A sound critical command takes its counter. -/
def critTaken (s : State) (q : Req) : State := s.modSec fun x => { x with counter := q.bodyLe 0 8 }

/-- What follows a critical command's effect: its audit entry and its lifetime count (R633; 17 Table 17.11). -/
def critDone (s : State) (q : Req) (op : Nat) (a : Ans) : State :=
  (s.auditPut op (auditPath q).1 (auditPath q).2 a.status (q.bodyLe 0 8) (critArgs q)).lifeAdd lfCrit op 1

/-- A critical command: the body's checks of R629, its counter and audit entry, then its own effect (R628 to R631). -/
def critical (s : State) (q : Req) (op : Nat) (nsp : Bool) (f : State → List Byte → State × Ans) : State :=
  (s.auditState q op).cmd q op 0 nsp fun t =>
    if t.critSound q op then
      let (u, a) := f (t.critTaken q) (critArgs q)
      (u.critDone q op a, a)
    else
      (t.auditAuth op q (q.bodyLe 0 8) (if q.bodyLe 0x10 4 ≤ 1936 then critArgs q else []), { status := cAUTH })

/-- A critical command reaches its own effect. RSV bits stop that effect alone, never the checks before it (00 R704). -/
def critReaches (s : State) (q : Req) (op : Nat) (nsp : Bool) : Bool :=
  q.opcode = op && s.devState ≠ stOFF && q.flags < 2 && decide (q.len ≤ 1984) && !(q.args.any (· ≠ 0)) && (!q.isNsp || nsp)
    && (match (s.auditState q op).takeReq q with
      | some t => t.cmdAllowed q && t.critSound q op
      | none => false)
def critBlocks (s : State) (q : Req) (op : Nat) (nsp : Bool) (blocks : List Nat) : List Nat :=
  if s.critReaches q op nsp then blocks else []

/-! Images (R624, R634, R639) -/

/-- Length of a manifest with its signature. -/
def manifestLen (m : List Byte) : Nat := 128 + 32 * fieldLe m 6 2 + 16224
/-- Bytes of chunk i of an image. -/
def chunkLen (m : List Byte) (i : Nat) : Nat := min 65536 (fieldLe m 0x10 4 - 65536 * i)
/-- Digest of chunk i in a manifest. -/
def chunkDigest (m : List Byte) (i : Nat) : List Byte := (m.drop (0x80 + 32 * i)).take 32

/-- A key is one of the signers' and its slot is not revoked. -/
def signerOk (s : State) (pk : List Byte) : Bool :=
  (List.range 2).any fun i => !s.sec.revoked.getD i true && decide (s.sec.signers.getD i [] = sha256 pk)

/-- A manifest's layout, signer, signature, stepping and reserved bytes. -/
def manifestOk (s : State) (m : List Byte) : Bool :=
  let n := fieldLe m 6 2
  let bytes := fieldLe m 0x10 4
  let pk := (m.drop 0x18).take 48
  decide (m.length = manifestLen m ∧ fieldLe m 0 4 = 0x5746594E ∧ fieldLe m 4 2 = 1 ∧ 1 ≤ n ∧ n ≤ 512
    ∧ 65536 * (n - 1) < bytes ∧ bytes ≤ 65536 * n ∧ fieldLe m 0x14 1 = 0x21 ∧ fieldLe m 0x15 1 ≤ 2)
    && !anyByte m 0x16 2 && !anyByte m 0x48 56 && s.signerOk pk
    && Config.slhVerify pk (m.take (m.length - 16224)) (m.drop (m.length - 16224))

/-- Every chunk is there with its digest. -/
def chunksOk (i : FwImage) : Bool :=
  (List.range (i.field 6 2)).all fun n => match mapGet i.chunks n with
    | some c => decide (c.length = chunkLen i.manifest n ∧ sha256 c = chunkDigest i.manifest n)
    | none => false

/-- An image may start (R626, R640). -/
def imageOk (s : State) (i : FwImage) : Bool := s.manifestOk i.manifest && chunksOk i && decide (s.floor ≤ i.field 0xC 4)

/-! Pattern packs (15 R541, R542) -/

def packAddrOk (a : Nat) : Bool := a = 0 || (decide (ownBase ≤ a) && decide (a < ownBase + 0xF00000))

/-- One kernel's program and descriptors (15 R542). -/
def kernelOk (body : List Byte) (e : List Byte) : Bool :=
  let po := fieldLe e 0x10 4
  let pn := fieldLe e 0x14 4
  let d0 := fieldLe e 0x18 4
  let dn := fieldLe e 0x1C 4
  let op (i : Nat) : Nat := fieldLe body (po + 16 * i + 15) 1
  decide (fieldLe e 0 4 ≠ 0 ∧ fieldLe e 4 1 ≤ 5 ∧ fieldLe e 5 1 < 4) && !anyByte e 0x28 24
    && (List.range (pn / 16)).all (fun i => !(decide (0x60 ≤ op i) && decide (op i ≤ 0x62)) && !(decide (0x70 ≤ op i) && decide (op i ≤ 0x73))
      && !(decide (0x80 ≤ op i) && decide (op i ≤ 0x83)))
    && (List.range dn).all fun i =>
      let d := Desc.parse (fun o => fieldLe body o 1) (d0 + 128 * i)
      [d.base, d.sc8, d.ts32, d.zp8, d.status, d.hdr, d.sb, d.chan].all packAddrOk

/-- A pack's layout, hash, signature, geometry and kernels. -/
def packSound (s : State) (p : List Byte) : Bool :=
  let bb := fieldLe p 0x1C 4
  let body := (p.drop 0x80).take bb
  let n := fieldLe p 6 2
  let pk := Config.packKey p
  decide (p.length ≤ 524288 ∧ p.length = 0x80 + bb + 16224 ∧ fieldLe p 0 4 = 0x314B504E ∧ fieldLe p 4 2 = 1 ∧ 1 ≤ n ∧ n ≤ 256
    ∧ fieldLe p 0x14 2 = 1 ∧ fieldLe p 0x16 1 = 8 ∧ fieldLe p 0x17 1 = 8 ∧ fieldLe p 0x18 2 = 64
    ∧ (p.drop 0x20).take 32 = sha256 body)
    && !anyByte p 0x1A 2 && !anyByte p 0x40 64 && s.signerOk pk
    && Config.slhVerify pk (p.take (p.length - 16224)) (p.drop (p.length - 16224))
    && (List.range n).all (fun i => kernelOk body ((body.drop (96 * i)).take 96))

/-- A sound pack of which no equal or later SEQ is installed. -/
def packOk (s : State) (p : List Byte) : Bool :=
  s.packSound p && !s.tst.packs.any fun x => x.1 = fieldLe p 8 8 && decide (fieldLe p 0x10 4 ≤ x.2.1)

/-- Install a pack: it replaces one of its PACK_ID, whose suspended kernels are suspended no longer (R543). -/
def installPack (s : State) (p : List Byte) : Option State :=
  let id := fieldLe p 8 8
  let rest := s.tst.packs.filter fun x => x.1 ≠ id
  if !s.packOk p ∨ rest.length ≥ 8 then none
  else some (s.modTst fun t => { t with packs := rest ++ [(id, fieldLe p 0x10 4, p)], suspended := t.suspended.filter fun k => k / 2 ^ 32 ≠ id })

/-! Transfers (R635 to R639) -/

def packCount (s : State) : Nat := s.sec.packDigests.length
def packChunkLen (s : State) (i : Nat) : Nat := min 65536 (s.sec.packBytes - 65536 * i)
def packId (s : State) : List Byte := sha256 (s.sec.packDigests.flatMap id)

def dropImg (s : State) : State :=
  s.modSec fun x => { x with img := {}, imgState := 0, imgId := [], imgBytes := 0, parts := x.parts.filter fun p => p.kind ≠ 0 }
def dropPack (s : State) : State :=
  s.modSec fun x => { x with packState := 0, packDigests := [], packBytes := 0, packChunks := [], parts := x.parts.filter fun p => p.kind ≠ 1 }

/-- Expected length and digest of a chunk of a kind; the digest of the manifest is the identity. -/
def chunkWant (s : State) (kind chunk : Nat) : Option (Nat × List Byte) :=
  if kind = 1 then
    if s.sec.packState = 2 ∧ chunk < s.packCount then some (s.packChunkLen chunk, s.sec.packDigests.getD chunk []) else none
  else if s.sec.imgState = 2 ∧ chunk < s.sec.img.field 6 2 then
    some (chunkLen s.sec.img.manifest chunk, chunkDigest s.sec.img.manifest chunk)
  else none

/-- A chunk is whole: checked, programmed, its bit set (R637, R639). -/
def storeChunk (s : State) (kind chunk : Nat) (digest data : List Byte) : State × Ans :=
  let s0 := s.modSec fun x => { x with parts := x.parts.filter fun p => !(p.kind = kind && p.chunk = chunk) }
  let bad : State × Ans := (s0.regCount rSEC_STATUS 0 8 1, { status := cREFUSED })
  if sha256 data ≠ digest then bad
  else if kind = 0 ∧ chunk = 0xFFFF then
    if digest = s0.sec.imgId ∧ s0.manifestOk data then
      (s0.modSec fun x => { x with img := { manifest := data }, imgState := 2 }, { status := cOK })
    else (s0.dropImg, { status := cREFUSED })
  else match s0.chunkWant kind chunk with
  | none => bad
  | some (n, d) =>
    if data.length ≠ n ∨ digest ≠ d then bad
    else if kind = 0 then
      let s1 := s0.modSec fun x => { x with img := { x.img with chunks := mapSet x.img.chunks chunk (some data) } }
      (if (List.range (s1.sec.img.field 6 2)).all fun i => (mapGet s1.sec.img.chunks i).isSome then
        s1.modSec fun x => { x with imgState := 3 } else s1, { status := cOK })
    else
      let s1 := s0.modSec fun x => { x with packChunks := mapSet x.packChunks chunk (some data) }
      if !(List.range s1.packCount).all fun i => (mapGet s1.sec.packChunks i).isSome then (s1, { status := cOK })
      else
        let p := (List.range s1.packCount).flatMap fun i => (mapGet s1.sec.packChunks i).getD []
        match s1.installPack p with
        | some s2 => (s2.modSec fun x => { x with packState := 3 }, { status := cOK })
        | none => ((s1.dropPack).addSig { origin := 6, kind := 12, index := 0, keys := [(9, .uint (fieldLe p 8 8)), (10, .uint 5)] },
            { status := cREFUSED })

/-- Length of the chunk that parts build up, once known. -/
def partTotal (s : State) (kind chunk : Nat) (p : FwPart) : Option Nat :=
  if kind = 0 ∧ chunk = 0xFFFF then (mapGet p.parts 0).bind fun b => if b.length < 8 then none else some (manifestLen b)
  else (s.chunkWant kind chunk).map (·.1)

/-- Bytes of a chunk's parts in order, when they fill it. -/
def partBytes (p : FwPart) (n : Nat) : Option (List Byte) :=
  let bs := (List.range (cdiv n 1024)).flatMap fun i => (mapGet p.parts (1024 * i)).getD []
  if bs.length = n ∧ (List.range (cdiv n 1024)).all (fun i => (mapGet p.parts (1024 * i)).isSome) then some bs else none

end State

/-! Transfer commands -/

def effFwBegin (q : Req) (s : State) : State :=
  s.cmd q 0x201 3 true fun t =>
    let kind := q.arg 0
    let bytes := q.arg 1
    let repl := q.arg 2 = 1
    if kind > 1 ∨ q.arg 2 > 1 then (t, { status := cINVALID })
    else if kind = 0 then
      let id := q.bodyAt 0 32
      let opened (u : State) : State := (u.dropImg).modSec fun x => { x with imgState := 1, imgId := id, imgBytes := bytes }
      if q.body.length ≠ 32 ∨ bytes = 0 ∨ bytes > 512 * 65536 then (t, { status := cINVALID })
      else if t.sec.imgState = 0 then (opened t, { status := cOK })
      else if t.sec.imgId = id then (t, { status := cOK })
      else if !repl then (t, { status := cBUSY })
      else if t.sec.imgState = 4 ∨ t.sec.imgState = 5 then (t, { status := cSTATE })
      else (opened t, { status := cOK })
    else
      let ds := (List.range (q.body.length / 32)).map fun i => q.bodyAt (32 * i) 32
      let opened (u : State) : State := (u.dropPack).modSec fun x => { x with packState := 2, packDigests := ds, packBytes := bytes }
      if q.body.length % 32 ≠ 0 ∨ ds.length ≠ cdiv bytes 65536 ∨ ds.length = 0 ∨ ds.length > 8 then (t, { status := cINVALID })
      else if t.sec.packState = 0 then (opened t, { status := cOK })
      else if t.sec.packDigests = ds then (t, { status := cOK })
      else if !repl then (t, { status := cBUSY })
      else (opened t, { status := cOK })

def effFwPart (q : Req) (s : State) : State :=
  s.cmd q 0x202 4 true fun t =>
    let kind := q.arg 0
    let chunk := q.arg 1
    let off := q.arg 2
    let digest := q.bodyAt 0 32
    let data := q.body.drop 32
    let ident := if kind = 0 then t.sec.imgId else t.packId
    let st := if kind = 0 then t.sec.imgState else t.sec.packState
    let held := mapGet (if kind = 0 then t.sec.img.chunks else t.sec.packChunks) chunk
    if kind > 1 ∨ off % 1024 ≠ 0 ∨ data.length = 0 ∨ data.length > 1024 then (t, { status := cINVALID })
    else if st = 0 ∨ st = 4 ∨ st = 5 ∨ q.arg 3 ≠ fieldLe ident 0 8 then (t, { status := cSTATE })
    else match held with
    | some c => (t, { status := if (c.drop off).take data.length = data then cOK else cREFUSED })
    | none =>
      let whole : Bool := kind = 0 && chunk = 0xFFFF
      if whole ∧ st ≠ 1 then
        (t, { status := if (t.sec.img.manifest.drop off).take data.length = data then cOK else cREFUSED })
      else if !whole ∧ (kind = 0 ∧ st ≠ 2 ∨ (t.chunkWant kind chunk).isNone) then (t, { status := if kind = 0 ∧ st = 1 then cSTATE else cINVALID })
      else if !whole ∧ off + data.length > ((t.chunkWant kind chunk).map (·.1)).getD 0 then (t, { status := cINVALID })
      else
        let old := (t.sec.parts.find? fun p => p.kind = kind && p.chunk = chunk).getD { kind := kind, chunk := chunk, digest := digest }
        let clash := old.digest ≠ digest ∨ (match mapGet old.parts off with
          | some b => decide (b ≠ data)
          | none => false) = true
        let gone (u : State) : State := u.modSec fun x => { x with parts := x.parts.filter fun p => !(p.kind = kind && p.chunk = chunk) }
        if clash then ((gone t).regCount rSEC_STATUS 0 8 1, { status := cREFUSED })
        else
          let p := { old with parts := mapSet old.parts off (some data) }
          let t1 := (gone t).modSec fun x => { x with parts := p :: x.parts }
          match (t1.partTotal kind chunk p).bind fun n => State.partBytes p n with
          | some bs => t1.storeChunk kind chunk digest bs
          | none => (t1, { status := cOK })

/-- PF1 only: a whole chunk from host memory, its digest that of the list. -/
def effFwFetch (q : Req) (s : State) : State :=
  s.cmd q 0x203 4 false fun t =>
    let kind := q.arg 0
    let chunk := q.arg 1
    if kind > 1 ∨ !q.isPf1 then (t, { status := cINVALID })
    else if (mapGet (if kind = 0 then t.sec.img.chunks else t.sec.packChunks) chunk).isSome then (t, { status := cOK })
    else match t.chunkWant kind chunk with
    | none => (t, { status := cSTATE })
    | some (n, d) =>
      if q.arg 3 ≠ n then (t, { status := cINVALID })
      else t.storeChunk kind chunk d (t.hostMem.read (q.arg 2) n)

def effFwStatus (q : Req) (s : State) : State :=
  s.cmd q 0x204 1 true fun t =>
    let kind := q.arg 0
    if kind > 1 then (t, { status := cINVALID })
    else
      let st := if kind = 0 then t.sec.imgState else t.sec.packState
      let id := if kind = 0 then (t.sec.imgId ++ List.replicate 32 0#8).take 32 else t.packId
      let n := if kind = 0 then t.sec.img.field 6 2 else t.packCount
      let held := if kind = 0 then t.sec.img.chunks else t.sec.packChunks
      let bits := (List.range 512).foldl (fun a i => if (mapGet held i).isSome then a else a + 2 ^ i) 0
      (t, { status := cOK, body := leBytes 8 st ++ id ++ leBytes 8 n ++ leBytes 64 bits })

def effFwAbort (q : Req) (s : State) : State :=
  s.cmd q 0x205 1 true fun t =>
    let kind := q.arg 0
    if kind > 1 then (t, { status := cINVALID })
    else if kind = 1 then (t.dropPack, { status := cOK })
    else if t.sec.imgState = 4 ∨ t.sec.imgState = 5 then (t, { status := cSTATE })
    else (t.dropImg, { status := cOK })

/-! Attestation (R645) -/

/-- The quote's 400 bytes and its signature under the identity key. -/
def quoteBytes (s : State) (nonce : List Byte) : List Byte :=
  let fl := (if s.dbg.unlocked then 1 else 0) + (if s.regBit rSTW_RISK_CTL 0 then 2 else 0) + (if s.tst.override ≠ [] then 4 else 0)
  let b := leBytes 4 0x5451594E ++ leBytes 1 0x21 ++ leBytes 1 s.devState ++ leBytes 2 fl ++ leBytes 8 s.serial ++ nonce
    ++ s.sec.meas.flatMap id ++ leBytes 4 (s.sec.active.field 8 4) ++ leBytes 4 (s.sec.active.field 0xC 4) ++ leBytes 4 s.floor
    ++ leBytes 4 s.sec.fuses ++ leBytes 8 s.sec.counter ++ leBytes 8 s.now ++ List.replicate 64 0#8
  b ++ (Config.slhSign s.sec.idSeed b ++ List.replicate 35664 0#8).take 35664

/-- A piece of a long answer: DETAIL 1 while bytes follow. -/
def pieceAns (bs : List Byte) (off : Nat) : Ans :=
  { status := cOK, detail := if off + 1968 < bs.length then 1 else 0, body := (bs.drop off).take 1968 }

def effAttestQuote (q : Req) (s : State) : State :=
  s.cmd q 0x210 1 true fun t =>
    if q.arg 0 = 0 then
      if q.body.length ≠ 32 then (t, { status := cINVALID })
      else
        let b := quoteBytes t (q.bodyAt 0 32)
        (t.modSec fun x => { x with quote := b }, pieceAns b 0)
    else if q.arg 0 ≥ t.sec.quote.length then (t, { status := cINVALID })
    else (t, pieceAns t.sec.quote (q.arg 0))

def effAttestKey (q : Req) (s : State) : State :=
  s.cmd q 0x211 1 true fun t =>
    let b := Config.slhPublic t.sec.idSeed ++ t.sec.endorsement
    if q.arg 0 ≥ b.length then (t, { status := cINVALID }) else (t, pieceAns b (q.arg 0))

/-! Critical commands (Table 19.5) -/

def refuse (s : State) (detail : Nat := 0) : State × Ans := (s, { status := cREFUSED, detail := detail })
def accept (s : State) : State × Ans := (s, { status := cOK })

def effFwCommit (q : Req) (s : State) : State :=
  s.critical q 0x101 true fun t args =>
    if t.sec.imgState = 3 ∧ sha256 t.sec.img.manifest = args ∧ t.floor ≤ t.sec.img.field 0xC 4 then
      accept (t.modSec fun x => { x with imgState := 4 })
    else refuse t

def effFloorRaise (q : Req) (s : State) : State :=
  s.critical q 0x102 true fun t args =>
    let v := fieldLe args 0 4
    if t.sec.fuses ≥ 64 then refuse t 2
    else if args.length ≠ 4 ∨ v ≤ t.floor ∨ t.sec.active.field 0xC 4 < v then refuse t
    else
      let t1 := t.modSec fun x => { x with floors := x.floors.take x.fuses ++ [v], fuses := x.fuses + 1 }
      accept (t1.extend 3 (Config.m3Event 2 v t1.sec.fuses))

def effKeyRotate (q : Req) (s : State) : State :=
  s.critical q 0x103 true fun t args =>
    if args.length ≠ 32 then refuse t
    else accept (t.modSec fun x => { x with cmdKey := (hmac x.cmdKey (1#8 :: args)).take 32, keyGen := x.keyGen + 1 })

def effTestOverride (q : Req) (s : State) : State :=
  s.critical q 0x104 true fun t args =>
    let m := fieldLe args 0 1
    if args.length ≠ 1 ∨ m &&& 0x51 ≠ 0 then refuse t
    else accept (t.modTst fun x => { x with nextOver := [1, 2, 3, 5, 7].filter fun i => m.testBit i })

/-- RAS_OFF is set or cleared (14 R498); M3 takes each change. -/
def effRasDisable (q : Req) (s : State) : State :=
  s.critical q 0x106 true fun t args =>
    let v := fieldLe args 0 1
    if args.length ≠ 1 ∨ v > 1 then refuse t
    else if t.regBits rSTW_RISK_CTL 0 1 = v then accept t
    else accept ((t.setRegBits rSTW_RISK_CTL 0 1 v).extend 3 (Config.m3Event 1 v 0))

/-- A scan record (17 R587). -/
def scanRecord (island idx stop : Nat) (data : List Byte) : List Byte :=
  leBytes 2 island ++ leBytes 2 idx ++ leBytes 4 (8 * data.length) ++ leBytes 8 stop ++ (sha256 data).take 8 ++ leBytes 8 0
    ++ data ++ List.replicate ((4 - data.length % 4) % 4) 0#8

/-- The scan-out of a mask of islands and a list of memory ranges. -/
def scanBytes (s : State) (mask : Nat) (ranges : List (Nat × Nat)) : List Byte :=
  let stop := s.dbg.stopT.getD 0
  let chains := ((List.range 137).filter fun i => mask.testBit i).flatMap fun i =>
    (List.range (Config.chainCount i)).flatMap fun k => scanRecord i k stop (Config.chainBits i k stop)
  chains ++ ranges.zipIdx.flatMap fun ((a, n), k) =>
    let (sp, r, off) := Config.scanSpace a
    let bs := if sp = 0 then s.hbm.read off n else if sp = 1 then s.buttery.read off n else (s.room r).pantry.read off n
    scanRecord (if sp = 2 then r else isHub) k stop bs

/-- Scan-out (17 R586, R587; R632): 24 bytes of mask, the count of ranges in 64 bits, 16 ranges, START_OFFSET, and on PF1 the
host address and bytes (log 30). -/
def effScanOut (q : Req) (s : State) : State :=
  s.critical q 0x107 true fun t args =>
    let mask := fieldLe args 0 24
    let n := fieldLe args 24 8
    let ranges := (List.range n).map fun i => (fieldLe args (32 + 16 * i) 8, fieldLe args (40 + 16 * i) 8)
    let start := fieldLe args 288 8
    if t.devState ≠ stSTOPPED ∨ n > 16 ∨ mask ≥ 2 ^ 137 ∨ args.length ≠ (if q.isPf1 then 312 else 296) ∨ !(q.isPf1 || q.isNsp) then refuse t
    else
      let out := (scanBytes t mask ranges).drop start
      if q.isPf1 then
        let bs := out.take (fieldLe args 304 8)
        ({ t with hostMem := t.hostMem.write (fieldLe args 296 8) bs },
          { status := cOK, detail := if bs.length < out.length then 1 else 0, body := leBytes 8 bs.length ++ leBytes 8 (start + bs.length) })
      else (t, { status := cOK, body := out })

def effDebugUnlock (q : Req) (s : State) : State :=
  s.critical q 0x108 true fun t args =>
    if args ≠ [] then refuse t
    else accept ((t.modDbg fun d => { d with unlocked := true }).extend 3 (Config.m3Event 0 0 0))

/-- Every lifetime item but powered minutes and starts goes, and the erase count rises (17 R590). -/
def effLifeErase (q : Req) (s : State) : State :=
  s.critical q 0x109 true fun t args =>
    if args ≠ [] then refuse t
    else
      let keep := t.life.work.filter fun x => x.1 / 2 ^ 16 = lfMinutes || x.1 / 2 ^ 16 = lfStarts || x.1 / 2 ^ 16 = lfErase
      accept ((({ t with life := { t.life with work := keep } }).lifeAdd lfErase 0 1).lifeWrite true)

/-! The start of the firmware (R625, R626, R640 to R642) -/

/-- A step of the journaled copy: the staged image is checked again, then a chunk is copied, then the manifest. -/
def effFwCopy (s : State) : State :=
  let x := s.sec
  if s.devState ≠ stBOOT then s
  else if x.imgState = 4 then
    if s.imageOk x.img then s.modSec fun y => { y with imgState := 5, journal := 0 }
    else (s.dropImg).auditPut 0x101 0 0 cREFUSED x.counter []
  else if x.imgState ≠ 5 then s
  else if x.journal < x.img.field 6 2 then
    s.modSec fun y =>
      { y with
        active := { y.active with chunks := mapSet y.active.chunks y.journal (mapGet y.img.chunks y.journal) }
        journal := y.journal + 1 }
  else
    (s.modSec fun y => { y with
      active := { manifest := y.img.manifest, chunks := y.active.chunks.filter fun c => c.1 < y.img.field 6 2 }, factory := false }).dropImg

/-- The active image may start (R626); the one from manufacture is the boot ROM's own outcome (log 29). -/
def State.activeOk (s : State) : Bool := s.sec.factory || s.imageOk s.sec.active

/-- The slot that signed the active image. -/
def State.signSlot (s : State) : Option Nat :=
  let pk := (s.sec.active.manifest.drop 0x18).take 48
  (List.range 2).find? fun i => decide (s.sec.signers.getD i [] = sha256 pk)

/-- The boot ROM revokes the slot that the image it starts names, measures what it starts, and hands control to S0. -/
def effBootComplete (s : State) : State :=
  if s.devState ≠ stBOOT ∨ s.sec.imgState = 4 ∨ s.sec.imgState = 5 then s
  else
    let v := s.sec.active.field 0x15 1
    let s1 := if s.activeOk ∧ 1 ≤ v ∧ v ≤ 2 ∧ s.signSlot ≠ some (v - 1) then
        s.modSec fun x => { x with revoked := x.revoked.set (v - 1) true } else s
    let rv := (if s1.sec.revoked.getD 0 false then 1 else 0) + if s1.sec.revoked.getD 1 false then 2 else 0
    let s2 := (s1.extend 0 (sha256 Config.bootRom)).extend 1 (sha256 s1.sec.active.manifest)
    let s3 := s2.extend 2 (sha256 (Config.stewardImage (s1.sec.active.chunks.flatMap (·.2))))
    let s4 := s3.extend 3 (Config.securityState s3.floor s3.sec.fuses rv (s3.tst.override ≠ []))
    let s5 := s4.tst.packs.foldl (fun t p => t.extend 4 (sha256 p.2.2)) s4
    (s5.modTst fun t => { t with stage := 0, fail := none, bad := [], newSigs := 0 }).enter stTEST

/-! Meanings -/

def execFwBegin (q : Req) (s : State) := run [] s (effFwBegin q s)
def execFwPart (q : Req) (s : State) := run [] s (effFwPart q s)
def execFwFetch (q : Req) (s : State) := run [] s (effFwFetch q s)
def execFwStatus (q : Req) (s : State) := run [] s (effFwStatus q s)
def execFwAbort (q : Req) (s : State) := run [] s (effFwAbort q s)
def execAttestQuote (q : Req) (s : State) := run [] s (effAttestQuote q s)
def execAttestKey (q : Req) (s : State) := run [] s (effAttestKey q s)
def execFwCommit (q : Req) (s : State) := run [] s (effFwCommit q s)
def execFloorRaise (q : Req) (s : State) := run [] s (effFloorRaise q s)
def execKeyRotate (q : Req) (s : State) := run [] s (effKeyRotate q s)
def execTestOverride (q : Req) (s : State) := run [] s (effTestOverride q s)
def execRasDisable (q : Req) (s : State) := run (s.critBlocks q 0x106 true [bSTW]) s (effRasDisable q s)
def execScanOut (q : Req) (s : State) := run (s.critBlocks q 0x107 true [bDBG]) s (effScanOut q s)
def execDebugUnlock (q : Req) (s : State) := run (s.critBlocks q 0x108 true [bDBG]) s (effDebugUnlock q s)
def execLifeErase (q : Req) (s : State) := run [] s (effLifeErase q s)
def execFwCopy (s : State) := run [] s (effFwCopy s)
def execBootComplete (s : State) := run [bPWR] s (effBootComplete s)

end Sys2Proof.Machine
end

