-- ==== Sys2Proof/Machine/RegIo.lean ====
section
/-! DEFINITION. Reads and writes of the register space: live fields, counters, aliases, the actions of written bits, and the
latch of 64-bit registers (18 R603, R615 to R621; 21 R676 to R689). -/

namespace Sys2Proof.Machine

/-- Put a field into a word. -/
def putBits (v : W32) (lo w n : Nat) : W32 :=
  let x := v.toNat
  BitVec.ofNat 32 (x - x / 2 ^ lo % 2 ^ w * 2 ^ lo + n % 2 ^ w * 2 ^ lo)
def putBit (v : W32) (lo : Nat) (b : Bool) : W32 := putBits v lo 1 (if b then 1 else 0)

/-- Fields of RM_LEASE (21 Table 21.16). -/
def leaseWord (x : Room) : Nat :=
  x.role * 2 ^ 30 + ((x.lease.filter fun l => l.1 < 16).map fun l => 2 ^ 29 + l.1 % 16 * 2 ^ 24 + l.2 % 128).getD 0

namespace State

/-- Registry entries of a context with LIVE set (21 Table 21.12). -/
def liveEntries (s : State) (c : Nat) : Nat :=
  if (s.ctx c).isNone then 0 else ((List.range regEntries).filter fun i => (s.regEntry c i).live).length

/-- Some room's instruction satisfies a test. -/
def anyInfl (s : State) (p : Infl → Bool) : Bool := s.rooms.any fun x => x.infl.any p

/-- A register's word with the fields that show the device as it stands (18 Table 18.11; 14 Table 14.7; 19 Tables 19.10, 19.11;
17 Table 17.12; 21 Tables 21.5, 21.11 to 21.13, 21.16; 10 Table 10.5; 12 Table 12.6; 05 Table 5.8). -/
def regLive (s : State) (o : Nat) : W32 :=
  let v := s.reg o
  if 0x1000000 ≤ o then
    if o % 0x40000 = 8 then
      let w := leaseWord (s.room ((o - 0x1000000) / 0x40000))
      putBits (putBits (putBits v 29 3 (w / 2 ^ 29)) 24 4 (w / 2 ^ 24)) 0 7 w
    else v
  else if o = rSTW_HOST_STATUS then
    let w := min 255 (s.mmu.waits.filter fun w => w.st = .queued).length
    putBit (putBit (putBits v 8 8 w) 2 s.host.ring.isSome) 0 s.host.bme
  else if o = rSTW_TEST_STATUS then
    let n (role : Nat) : Nat := if s.working || s.devState = stVESTIBULE || s.devState = stSTOPPED then
      (s.rooms.filter fun x => x.role = role).length else 0
    putBits (putBits v 21 3 (min 7 (n 1))) 16 5 (min 31 (n 2))
  else if o = rSTW_COLLATE then putBits v 19 13 s.res.suspects.length
  else if o = rSEC_STATUS then
    let rv := (if s.sec.revoked.getD 0 false then 1 else 0) + if s.sec.revoked.getD 1 false then 2 else 0
    putBits (putBits (putBit (putBits (putBits v 29 3 s.sec.imgState) 27 2 s.sec.packState) 26 s.dbg.unlocked) 24 2 rv) 17 7 s.sec.fuses
  else if o = rSEC_FLOOR then BitVec.ofNat 32 s.floor
  else if o = rLIF_STATUS then
    putBits (putBits v 4 12 (min 4095 ((s.now - s.life.lastT) / 60000000000))) 0 4 ((s.lifeNewest.map (·.1)).getD 0)
  else if o = rTB_NOW then BitVec.ofNat 32 (s.nowAt isMgmt)
  else if o = rTB_NOW + 4 then BitVec.ofNat 32 (s.nowAt isMgmt / 2 ^ 32)
  else if o = rDBG_STOP_CTL then putBit v 1 (s.devState = stSTOPPED)
  else if o = rCOL_STATUS then
    let b3 := s.col.reshDir.any fun x => s.journalState x.2 = 1
    let b2 := s.col.resh.any fun x => x.inst.isNone
    let b1 := (s.anyInfl fun i => (i.col.map fun c => !c.paused.isEmpty).getD false) || s.col.resh.any fun x => !x.paused.isEmpty
    let b0 := (s.anyInfl fun i => i.col.isSome) || !s.col.resh.isEmpty
    putBit (putBit (putBit (putBit v 3 b3) 2 b2) 1 b1) 0 b0
  else if o = rRCK_STATUS then
    let hold := s.rackStopped && !(s.mmu.far.any fun y => match y.who with
      | .racking _ _ _ => true
      | _ => false)
    putBit (putBit (putBit (putBit v 3 hold) 2 s.rackAhead) 1 s.anyStarved) 0 (!s.rck.jobs.isEmpty)
  else if 0x280000 ≤ o ∧ o < 0x280040 then putBits v 0 13 (s.liveEntries ((o - 0x280000) / 4))
  else if o = rVNT_STATUS 0 ∨ o = rVNT_STATUS 1 then
    putBit v 0 (s.ctxs.any fun x => match x with
      | some c => c.vnt.published && !c.vnt.done
      | none => false)
  else v

/-- The counter at an offset of a frame's counter area: family, unit, index (21 Tables 21.1, 21.15, R679). -/
def counterAt (frame off : Nat) : Option (Nat × Nat × Nat) :=
  let one (fam : Nat) : Option (Nat × Nat × Nat) :=
    let n := famCounters fam
    let k := off / 8
    if k < n * famUnits fam then some (fam, k / n, k % n) else none
  if 64 ≤ frame then
    let r := frame - 64
    if r ≥ 72 then none
    else if off < 0x300 then some (0, 12 * r + off / 64, off / 8 % 8)
    else if off < 0x330 then some (1, r, (off - 0x300) / 8)
    else if off < 0x350 then some (2, r, (off - 0x330) / 8)
    else if off < 0x370 then some (3, r, (off - 0x350) / 8)
    else if off < 0x398 then some (4, r, (off - 0x370) / 8)
    else if off < 0x3D0 then some (5, r, (off - 0x398) / 8)
    else none
  else match frame with
    | 0 => one 12 | 1 => one 11 | 6 => one 6 | 7 => one 9 | 8 => one 10 | 9 => one 8 | 11 => one 7
    | _ => none

/-- The 64-bit register whose low word lies at an offset, as it reads now: counters, and Table 21.3's 64-bit registers. -/
def wide (s : State) (o : Nat) : Option (BitVec 64) :=
  let f := o / 0x40000
  let fo := o % 0x40000
  if o % 8 = 0 ∧ 0x10000 ≤ fo ∧ fo < 0x20000 then
    (counterAt f (fo % 0x8000)).map fun (fam, u, k) => BitVec.ofNat 64 (if fo < 0x18000 then s.count fam u k else s.shadowCount fam u k)
  else if [rSTW_SERIAL, rTB_NOW, rTB_PTM_HOST, rTB_PTM_LOCAL, rDBG_SAMPLE_BASE, rDBG_TRIG_TIME, rDBG_SPILL_BASE, rPRS_FENCED].contains o then
    some (BitVec.ofNat 64 ((s.regLive o).toNat + (s.regLive (o + 4)).toNat * 2 ^ 32))
  else none

/-- A room frame that does not answer: a retired room, or one under room reset (21 R682). -/
def deaf (s : State) (o : Nat) : Bool := 0x1000000 ≤ o && o < 0x2200000 && (s.room ((o - 0x1000000) / 0x40000)).role = 2

/-- An access to the frame of a spare in deep idle wakes it (21 R682). -/
def wakeFrame (s : State) (o : Nat) : State :=
  if 0x1000000 ≤ o ∧ o < 0x2200000 then
    let r := (o - 0x1000000) / 0x40000
    if (s.room r).gated ∧ (s.room r).role ≠ 2 then s.wake r else s
  else s

/-- The word at an offset, without a latch: control words, aliases, counters (18 R615, R618). -/
def regWord (s : State) (o : Nat) : W32 :=
  let fo := o % 0x40000
  if o % 4 ≠ 0 ∨ o ≥ 0x4000000 ∨ s.deaf o then 0
  else if fo < 0x1000 then if (regFields o).isSome then s.regLive o else 0
  else if fo < 0x10000 then 0
  else if fo < 0x20000 then
    match s.wide (o / 8 * 8) with
    | some v => if o % 8 = 0 then v.setWidth 32 else (v >>> 32).setWidth 32
    | none => 0
  else
    let base := o / 0x40000 * 0x40000 + (fo - 0x20000) / 128 * 4
    if (regFields base).isSome then (s.regLive base >>> ((fo - 0x20000) / 4 % 32)) &&& 1 else 0

/-- Read a word: a latched high word is given once; a low word latches its high word, and TB_PTM_HOST's low word all of its
pair (18 R619; 21 R684). -/
def regRead (s : State) (iface o : Nat) : State × W32 :=
  let s := s.wakeFrame o
  match s.host.latch.find? fun x => x.1 = iface && x.2.1 = o with
  | some x => ({ s with host := { s.host with latch := s.host.latch.erase x } }, x.2.2)
  | none =>
    let v := s.regWord o
    match if s.deaf o then none else s.wide o with
    | none => (s, v)
    | some w =>
      let hi : List (Nat × Nat × W32) := [(iface, o + 4, (w >>> 32).setWidth 32)]
      let pair : List (Nat × Nat × W32) := if o = rTB_PTM_HOST then
        [(iface, rTB_PTM_LOCAL, s.regLive rTB_PTM_LOCAL), (iface, rTB_PTM_LOCAL + 4, s.regLive (rTB_PTM_LOCAL + 4))] else []
      let new := hi ++ pair
      let old := s.host.latch.filter fun x => !(new.any fun y => y.1 = x.1 && y.2.1 = x.2.1)
      ({ s with host := { s.host with latch := old ++ new } }, v)

/-! Writes -/

/-- Spare rows of a room in service set its latency class (03 R99, R114). -/
def setLatClass (s : State) (r : Nat) : State :=
  let on := (List.range 12).any fun t => [rTR_ROWMAP_LO r t, rTR_ROWMAP_HI r t].any fun o => s.reg o &&& 0x80808080#32 ≠ 0
  s.setRegBit (rRM_LATCLASS r) 0 on

/-- The tiles in flight on a trellis are corrupted; with `held`, so is a queued tile whose held values have loaded. -/
def corruptTiles (held : Bool) (y : Trellis) : Trellis :=
  { y with
    flying := y.flying.map fun j => { j with corrupt := true }
    queue := y.queue.map fun j => { j with corrupt := j.corrupt || (held && decide (0 < j.loaded)) } }

/-- A row map has changed: the latency class follows; held values, short runs and waves of the trellis are corrupted, and where the
class changes also the waves in flight on the room's other trellises (03 Table 3.10, Caution). -/
def rowmapActs (s : State) (o : Nat) : State :=
  let r := (o - 0x1000000) / 0x40000
  let t := (o % 0x40000 - 0x100) / 0x20
  let u := s.setLatClass r
  let moved := u.reg (rRM_LATCLASS r) ≠ s.reg (rRM_LATCLASS r)
  u.modRoom r fun x => { x with
    trell := x.trell.zipIdx.map fun (y, k) => if k = t then corruptTiles true y else if moved then corruptTiles false y else y }

/-- Start an invalidation (08 R286, R288). -/
def startInval (s : State) (v : W32) : State := { s with mmu := { s.mmu with inval := some (v, (s.reg rMMU_INVAL_VA).toNat * 2 ^ 16) } }

/-- The actions of a written word: `old` and `new` are the stored words before and after, `w` the word written (20 R652, R654,
R657; 17 R571, R580, R581, R583; 11 R417; 16 Table 16.4). -/
def regActs (s : State) (o : Nat) (old new w : W32) : State :=
  let rose (n : Nat) : Bool := !old.getLsbD n && new.getLsbD n
  let fell (n : Nat) : Bool := old.getLsbD n && !new.getLsbD n
  if 0x1000000 ≤ o then
    let fo := o % 0x40000
    let r := (o - 0x1000000) / 0x40000
    if fo = 4 then s.modRoom r fun x => { x with stretch := min x.stretch (min 8 (new.toNat / 2 ^ 8 % 16)) }
    else if 0x100 ≤ fo ∧ fo < 0x280 ∧ fo % 0x20 ≠ 0 ∧ old ≠ new then s.rowmapActs o
    else s
  else if o = rPWR_CTL then
    if w.toNat / 2 ^ 30 = 2 then s.coldReset lrCOLD
    else if w.toNat / 2 ^ 30 = 1 then s.warmReset lrWARM
    else if rose 29 then s.startDrain else if fell 29 then s.stopDrain else s
  else if o = rDBG_CNT_CTL then
    let s1 := if new.toNat / 2 ^ 30 = 2 ∧ old.toNat / 2 ^ 30 ≠ 2 then s.latchSample else s
    if w.getLsbD 16 then s1.freezeTrigger else s1
  else if o = rDBG_TRACE_CTL then
    let s1 := if w.getLsbD 31 then s.traceArm else s
    let s2 := if w.getLsbD 25 then s1.trigger isMgmt 1 else s1
    if w.getLsbD 24 then s2.traceDisarm else s2
  else if o = rDBG_STOP_CTL then if w.getLsbD 0 then s.globalStop else s
  else if o = rMMU_INVAL_CTL then if w.getLsbD 31 then s.startInval new else s
  else if 0x1C0080 ≤ o ∧ o < 0x1C0100 then
    let p := (o - 0x1C0080) / 4
    if rose 0 then s.portDisable p else if fell 0 then s.portEnable p else s
  else s

/-- The word that an alias write of bit b stands for: the other RW and RSV bits as they are, every other bit 0 (18 R618). -/
def aliasWord (fs : List RField) (old : W32) (b : Nat) (d : Bool) : W32 :=
  let keep := fs.foldl (fun m f => match f.ty with
    | .rw | .rsv => m ||| f.mask
    | _ => m) (0 : W32)
  putBit (old &&& keep) b d

/-- The register that a write at an offset stores to, and the word it is written with; none where the write is discarded (18 R615,
R618; 21 R676 to R678, R682). -/
def regTarget (s : State) (o : Nat) (v : W32) : Option (Nat × List RField × W32) :=
  let fo := o % 0x40000
  if o % 4 ≠ 0 ∨ o ≥ 0x4000000 ∨ s.deaf o then none
  else if fo < 0x1000 then (regFields o).map fun fs => (o, fs, v)
  else if fo < 0x20000 then none
  else
    let base := o / 0x40000 * 0x40000 + (fo - 0x20000) / 128 * 4
    (regFields base).map fun fs => (base, fs, aliasWord fs (s.reg base) ((fo - 0x20000) / 4 % 32) (v.getLsbD 0))

/-- The word is stored. -/
def regStore (s : State) (o : Nat) (fs : List RField) (w : W32) : State := s.setReg o (regApply fs (s.reg o) w)

/-- Write a word of the register space: it is stored and its bits act. -/
def regWrite (s : State) (o : Nat) (v : W32) : State :=
  let s := s.wakeFrame o
  match s.regTarget o v with
  | some (b, fs, w) => (s.regStore b fs w).regActs b (s.reg b) (regApply fs (s.reg b) w) w
  | none => s

/-- A PF1 request that is no aligned word completes with Unsupported Request (18 R615). -/
def regAccess (s : State) (acc : RegAccess) (o : Nat) (t : State) : State :=
  if s.devState = stOFF then s
  else if acc.len ≠ 4 ∨ o % 4 ≠ 0 then if acc.iface = 0 then s.emit .pcieUr else s
  else t

/-- A write's own effect on a block whose RSV bits are off reset is unspecified, the store apart (00 R704, log 9). -/
def regOpen (s : State) (o : Nat) (v : W32) : Bool :=
  let u := s.wakeFrame o
  match u.regTarget o v with
  | some (b, fs, w) => (s.regWrite o v).rsvOpen (frameOf b) && decide (s.regWrite o v ≠ u.regStore b fs w)
  | none => false

end State

/-! Effects -/

def effRegisterWrite (acc : RegAccess) (off : Nat) (v : W32) (s : State) : State := s.regAccess acc off (s.regWrite off v)

def effRegisterLowWordRead (acc : RegAccess) (off : Nat) (s : State) : State :=
  s.regAccess acc off (let (t, v) := s.regRead acc.iface off; t.emit (.regData acc.iface v))

/-- A write to MMU_INVAL_CTL starts an invalidation (08 R286). -/
def effMmuInvalidate (acc : RegAccess) (v : W32) (s : State) : State := s.regAccess acc rMMU_INVAL_CTL (s.regWrite rMMU_INVAL_CTL v)

/-- The context of the room's lease, as a context number; 88, which none has, without one. -/
def State.leaseCtx (s : State) (r : Nat) : Nat := ((s.room r).lease.map (·.1)).getD 88

/-- An access made under an old translation still runs: a fabric request of a mover whose page lies in the range from `lo` to `hi` of a
context that `hit` names, or a piece read or written elsewhere for that context, or by `win` a window's (08 R287). -/
def State.invalOpen (s : State) (win : Bool) (hit : Nat → Bool) (lo hi : Nat) : Bool :=
  let inside (va n : Nat) : Bool := va < hi && lo < va + n
  let far (w : FarWho) : Bool := match w with
    | .fetch r => !win && hit (s.leaseCtx r) && inside (s.room r).seqr.pc 16
    | .resume r _ | .plan r _ | .ring r _ => !win && hit (s.leaseCtx r)
    | .load c _ | .resh c _ | .racking c _ _ | .job c | .stat c _ _ => !win && hit c
    | .clip c va => !win && hit c && inside va 64
    | .window _ _ => win
  s.fab.reqs.any (fun q => match q.who with
    | .moverRd r _ va n => !win && hit (s.leaseCtx r) && inside va n
    | .moverWr r uid _ => !win && hit (s.leaseCtx r) && (s.room r).infl.any fun i => i.uid = uid && (match i.mv with
        | some m => (m.units.getD m.done []).isEmpty || (m.units.getD m.done []).any fun (_, d, n) => inside d n
        | none => true)
    | .press c _ _ => !win && hit c
    | .far w _ => far w
    | _ => false) || s.mmu.far.any fun y => far y.who

/-- The invalidation has completed, once every access under an old translation has: BUSY reads 0 (08 R287). -/
def effMmuInvalDone (s : State) : State :=
  match s.mmu.inval with
  | none => s
  | some (v, va) =>
    let k := if 16 ≤ v.toNat % 64 ∧ v.toNat % 64 ≤ 48 then v.toNat % 64 else 48
    let lo := va / 2 ^ k * 2 ^ k
    if s.invalOpen (v.getLsbD 20) (fun c => v.getLsbD 19 || c = v.toNat / 2 ^ 12 % 16) lo (lo + 2 ^ k) then s
    else { (s.setRegBit rMMU_INVAL_CTL 31 false) with mmu := { s.mmu with inval := none } }

def effRowmapWrite (acc : RegAccess) (r t : Nat) (hi : Bool) (v : W32) (s : State) : State :=
  if r ≥ 72 ∨ t ≥ 12 then s
  else
    let o := if hi then rTR_ROWMAP_HI r t else rTR_ROWMAP_LO r t
    s.regAccess acc o (s.regWrite o v)

/-- A vector's mask bit: unmasking sends a pending message (18 R603). -/
def effMsixTableWrite (pf vec : Nat) (masked : Bool) (s : State) : State :=
  let h := s.host
  if s.devState = stOFF ∨ pf > 1 then s
  else if pf = 0 then
    let un := h.unmask0.filter (· ≠ vec)
    if masked then { s with host := { h with unmask0 := un } }
    else
      let s1 := { s with host := { h with unmask0 := vec :: un, pend0 := h.pend0.filter (· ≠ vec) } }
      if h.pend0.contains vec then s1.emit (.msix 0 vec) else s1
  else
    let un := h.unmask1.filter (· ≠ vec)
    if masked then { s with host := { h with unmask1 := un } }
    else
      let s1 := { s with host := { h with unmask1 := vec :: un, pend1 := h.pend1.filter (· ≠ vec) } }
      if h.pend1.contains vec then s1.emit (.msix 1 vec) else s1

/-! Meanings. A write is refused nothing (18 R620); what it does beyond its word in an open block is unspecified. -/

def execRegisterWrite (acc : RegAccess) (off : Nat) (v : W32) (s : State) : Host.Outcome State Fault Refusal :=
  if s.regOpen off v then .fault .rsvUnspecified else .next (s.after (effRegisterWrite acc off v s))
/-- A read is answered as the word stands, also while an RSV bit of its block is off reset, of which R704 says nothing: DESIGN CHOICE (log
9). -/
def execRegisterLowWordRead (acc : RegAccess) (off : Nat) (s : State) := run [] s (effRegisterLowWordRead acc off s)
def execMmuInvalidate (acc : RegAccess) (v : W32) (s : State) : Host.Outcome State Fault Refusal :=
  if s.regOpen rMMU_INVAL_CTL v then .fault .rsvUnspecified else .next (s.after (effMmuInvalidate acc v s))
def execMmuInvalDone (s : State) := run [bMMU] s (effMmuInvalDone s)
def execRowmapWrite (acc : RegAccess) (r t : Nat) (hi : Bool) (v : W32) (s : State) : Host.Outcome State Fault Refusal :=
  if s.regOpen (if hi then rTR_ROWMAP_HI r t else rTR_ROWMAP_LO r t) v then .fault .rsvUnspecified
  else .next (s.after (effRowmapWrite acc r t hi v s))
def execMsixTableWrite (pf vec : Nat) (masked : Bool) (s : State) := run [] s (effMsixTableWrite pf vec masked s)

end Sys2Proof.Machine
end

