-- ==== Sys2Proof/Machine/Ecc.lean ====
section
/-! DEFINITION. Uncorrectable memory errors and their outcomes (08 R305 to R308, Table 8.13). -/

namespace Sys2Proof.Machine

/-- Entries of a page table that are not 0, by index. -/
def liveEntriesOf (m : Mem) (base n : Nat) : List Nat :=
  ((m.filter fun c => decide (base ≤ c.1) && decide (c.1 < base + 8 * n)).map fun c => (c.1 - base) / 8).eraseDups

/-- Leaves under a table (address, size, TARGET), and the tables themselves (address, bytes); `level` 1 to 3. -/
def ptWalk (m : Mem) : Nat → Nat → List (Nat × Nat × Nat) × List (Nat × Nat)
  | 0, _ => ([], [])
  | fuel + 1, base =>
    let level := 3 - fuel
    let n := if level = 1 then 2 ^ 18 else if level = 2 then 512 else 32
    (liveEntriesOf m base n).foldl (fun (acc : List (Nat × Nat × Nat) × List (Nat × Nat)) i =>
      let pte := m.le (base + 8 * i) 8
      if pte % 2 = 0 then acc
      else if pte / 2 % 2 = 1 then (acc.1 ++ [(pte / 4096 * 4096, leafSize level, pte / 16 % 4)], acc.2)
      else
        let sub := ptWalk m fuel (pte / 4096 * 4096)
        (acc.1 ++ sub.1, acc.2 ++ sub.2)) ([], [(base, 8 * n)])

def inRange (a base n : Nat) : Bool := decide (base ≤ a) && decide (a < base + n)

/-- What the ECC makes of the bits in error of one HBM sector or one 64-bit SRAM word (R305). -/
inductive EccVerdict where
  | clean | corrected | bad
  deriving DecidableEq, Repr

end Sys2Proof.Machine

namespace Sys2Proof

open Sys2Proof.Machine

/-- HBM corrects what is confined to one 8-bit symbol of a 32-byte sector; an SRAM corrects one bit of 64; more is uncorrectable
(R305). What lies beyond two symbols or two bits, of which the spec says nothing, the model takes as detected: DESIGN CHOICE (log 31). -/
def ScrubFinding.verdict (f : ScrubFinding) : EccVerdict :=
  let wrong := match f.place with
    | .hbm _ => (f.flips.map (· / 8)).eraseDups
    | _ => f.flips.eraseDups
  if wrong.isEmpty then .clean else if wrong.length = 1 then .corrected else .bad

end Sys2Proof

namespace Sys2Proof.Machine

namespace State

/-- A context ends: its press and rack jobs are closed, its launches fault, and it accepts none until it is created again (R307; 09 Table
9.11; 10 Table 10.4). -/
def endContext (s : State) (c : Nat) : State :=
  if (s.ctx c).isNone then s
  else
    let s1 := (((s.modCtx c fun x => { x with ended := true }).pressEnd c).rackEnd c).activity
    (List.range 64).foldl (fun t sl => match t.launch c sl with
      | some l => t.launchFault c sl l.lr.first 0 FaultCode.uncorrectable.code
      | none => t) s1

/-- An evidence test of a room is due; one test serves a room (15 R529, R534, Table 15.9). -/
def testDue (s : State) (r origin : Nat) : State :=
  if s.tst.tests.any fun x => x.room = r && x.st ≠ 2 then
    if origin = 4 then { s with tst := { s.tst with tests := s.tst.tests.map fun x =>
      if x.room = r ∧ x.st = 0 ∧ x.origin = 2 then { x with origin := 4 } else x } } else s
  else { s with tst := { s.tst with tests := s.tst.tests ++ [{ room := r, origin := origin, t := s.now }] } }

/-- Contexts for which a test on their descriptor and page tables holds. -/
def ctxsWhere (s : State) (p : Ctx → List (Nat × Nat × Nat) → List (Nat × Nat) → Bool) : List Nat :=
  (List.range 16).filter fun c => match s.ctx c with
    | none => false
    | some x => let (ls, ts) := ptWalk s.hbm 3 x.d.ptroot; p x ls ts

/-- Bytes of a context's ledger area, up to the end of its headroom directory (04 R706), and of its save area (Table 8.12). -/
abbrev ledgerBytes : Nat := 0x135000
def saveBytes (x : Ctx) : Nat := x.size * imageStride x.d.pantryNeed

/-- The sample or the finished sample that an error of the press region or of the press and racking pool corrupts: reason FETCH; a finished
one is dropped under every policy (Table 8.13; 09 Table 9.11; log 31). -/
def unitCorrupt (s : State) (f : ScrubFinding) : State :=
  let s1 := match f.sample with
    | some (c, id) => s.pressProblem c id 9
    | none => s
  match f.staged with
  | some (c, g) =>
    match s1.rck.stage.find? fun x => x.ctx = c && x.g = g with
    | none => s1
    | some y =>
      let x : Sample := {
        id := s1.prs.nextId, ctx := c, g := g, idx := fieldLe y.bytes 0 6, epoch := fieldLe y.bytes 6 2, cluster := y.cluster
        clip := fieldLe y.bytes 8 4, entry := [], reasons := [9] }
      let t : State := {
        s1 with
        rck := { s1.rck with stage := s1.rck.stage.filter fun x => !(x.ctx = c && x.g = g) }
        prs := { s1.prs with samples := s1.prs.samples ++ [x], nextId := x.id + 1 } }
      let (u, listed) := if fieldLe (t.jobRec c) 0xD 1 % 4 = 2 then t.listClip c x.clip else (t, false)
      u.pressFinish x true listed
  | none => s1

/-- The outcome of an uncorrectable error (Table 8.13). -/
def eccOutcome (s : State) (f : ScrubFinding) : State :=
  match f.place with
  | .pantry r off =>
    if 0xF00000 ≤ off ∧ off < 0xF7FF00 then s.stewardReset
    else match (s.room r).lease with
    | some (c, _) => if 16 ≤ c then s.kernelFault c else (s.endContext c).testDue r 4
    | none => s
  | .buttery off =>
    if off < 2 ^ 26 then ({ s with buttery := s.buttery.erase (off / 32 * 32) 32 }).regCount rDBG_TRACE_LOST 0 32 1
    else if off < 3 * 2 ^ 25 then match f.coll with
      | some c => s.endContext c
      | none => s.stewardReset
    else if off < butMapBase then s.unitCorrupt f
    else (s.ctxsWhere fun _ ls _ => ls.any fun (a, n, t) => t = 3 && inRange off a n).foldl (fun t c => t.endContext c) s
  | .hbm pa =>
    if inRange pa launchBase 0x40000 then s.endContext ((pa - launchBase) / 0x4000)
    else if inControl pa then s.stewardReset
    else if inLedger pa ∨ inSave pa then
      (s.ctxsWhere fun x _ _ => inRange pa x.d.ledger ledgerBytes || inRange pa x.d.save (saveBytes x)).foldl (fun t c => t.endContext c) s
    else if inGeneral s.prs.size pa then
      let hit := s.ctxsWhere fun x ls ts =>
        (ls.any fun (a, n, t) => t = 0 && inRange pa a n) || (ts.any fun (a, n) => inRange pa a n)
          || inRange pa (x.d.ptroot + 0x200000) 0x10000
      if hit.isEmpty then
        let fr := pa / 65536 * 65536
        if s.mmu.retired.contains fr ∨ s.mmu.retired.length ≥ 4096 then s
        else ({ s with mmu := { s.mmu with retired := s.mmu.retired ++ [fr] } }).lifeAdd lfEcc (4 * hbmStack pa + 3) 1
      else hit.foldl (fun t c => t.endContext c) s
    else s.unitCorrupt f

/-- Lifetime index of a place: its stack, or the kind of its SRAM: buttery, pantry, descriptor table (R305; 17 Table 17.11). -/
def eccKind : EccPlace → Nat
  | .hbm pa => hbmStack pa
  | .buttery _ => 16
  | .pantry _ off => if descTab ≤ off then 18 else 17

/-- An uncorrectable error is found: counted, an immediate risk input, and its outcome (14 Table 14.4). -/
def uncorrectable (s : State) (f : ScrubFinding) : State :=
  let s1 := (s.lifeAdd lfEcc (4 * eccKind f.place + 1) 1).immediate
  let s2 := match f.place with
    | .hbm pa => s1.bump fmHBM (hbmStack pa) 9 1
    | _ => s1
  s2.eccOutcome f

/-- A corrected error is counted, and reaches the risk monitor (R306). -/
def corrected (s : State) (p : EccPlace) : State :=
  let s1 := (s.lifeAdd lfEcc (4 * eccKind p) 1).riskEvent 0 (eccKind p)
  match p with
  | .hbm pa => s1.bump fmHBM (hbmStack pa) 8 1
  | _ => s1

end State

/-! SCRUB_PASS -/

def effScrubPass (f : ScrubFinding) (s : State) : State :=
  match f.verdict with
  | .clean => s
  | .corrected => s.corrected f.place
  | .bad => s.uncorrectable f

def execScrubPass (f : ScrubFinding) (s : State) := run [bSTW] s (s.live (effScrubPass f s))

end Sys2Proof.Machine
end

