-- ==== Sys2Proof/Machine/Trans.lean ====
section
/-! DEFINITION. Transactions at their target, echoes, the request timer and the forwarding of VL0 (11 R393, R397, R399, R402 to
R407; 16 R556; 08 R289, R290). -/

namespace Sys2Proof.Machine

namespace State

/-- A request of an opcode for this module: the port it came on, and the state without it. -/
def takePacket (s : State) (k : Packet) (op : Nat) : Option (Nat × State) :=
  if k.op = op ∧ !k.rsp ∧ s.fab.num = some k.dst ∧ s.devState ≠ stOFF then some (s.fromInbox k) else none

/-- A window's refusal, or the wait for the resolution of the miss at a global address: the request is held (R290). -/
def winFault (s : State) (p : Nat) (k : Packet) (acs : Acs) (ga : Nat) (e : XErr) : State :=
  if finalCause e.cause then s.respond p k rsWINDOW []
  else
    let w := windowBase + 32 * (ga / 2 ^ 36 % 256)
    let f : WaitF := {
      wid := 0, ctx := s.hbm.le (w + 0x11) 1, who := .window, va := s.hbm.le w 8 + ga % 2 ^ 36, cause := e.cause, level := e.level
      pte := e.pte, access := acs.bits, unit := Config.hubUnit 0 }
    let id := s.mmu.nextWid
    let s1 := s.addWait f
    { s1 with mmu := { s1.mmu with winHeld := s1.mmu.winHeld ++ [(id, p, k)] } }

/-- A place's bytes for a write: the launch region takes none (18 R600). -/
def winStore (s : State) (l : Loc) (bs : List Byte) : State :=
  match l with
  | .hbm pa => if inRange pa launchBase 0x40000 then s.seqDiscard else s.locWrite l bs
  | _ => s.locWrite l bs

/-- Bytes of a request go to a window's places in turn. -/
def winSpread (s : State) (ls : List (Nat × Loc × Nat)) (bs : List Byte) : State :=
  (ls.foldl (fun (a : State × List Byte) x => (a.1.winStore x.2.1 (a.2.take x.2.2), a.2.drop x.2.2)) (s, bs)).1

/-- Where memory lies that an access finds bad. -/
def Loc.ecc : Loc → Option EccPlace
  | .hbm pa => some (.hbm pa)
  | .butt off => some (.buttery off)
  | .pantry r off => some (.pantry r off)
  | _ => none

/-- The result of an atomic (11 Table 11.9). -/
def atomicOp (op : Nat) (old x cmp : BitVec 64) : BitVec 64 :=
  match op with
  | 0 => old + x
  | 1 => x
  | 2 => if old = cmp then x else old
  | 3 => if old.slt x then x else old
  | 4 => if x.slt old then x else old
  | 5 => old &&& x
  | _ => old ||| x

/-- A request whose page leads to another module goes on there; its packet waits meanwhile (08 R284, R290). -/
def serveFar (s : State) (p : Nat) (k : Packet) (ls : List (Nat × Loc × Nat)) : State :=
  let who := FarWho.window k.src k.tag
  let t := s.arrive p k
  if k.op = opATOMIC then
    (farPieces ls).foldl (fun u (g, _) => if (u.mmu.far.any fun x => x.who = who && x.ga = g) then u else
      (u.modFar fun l => l ++ [{ who := who, ga := g }]).request (.far who g) {
        op := opATOMIC, dst := g / 2 ^ 44 % 2 ^ 18, addr := g, arg := k.arg, data := k.data }) t
  else t.farAsk who (farPieces ls) (if k.op = opWRITE then some (farData ls k.data) else none)

/-- READ, WRITE and ATOMIC in space 0b00, once held in the target (R402, R403). -/
def serveMem (s : State) (p : Nat) (k : Packet) (ecc : Bool) : State :=
  let n := if k.op = opATOMIC then 8 else k.arg % 8192
  let acs : Acs := if k.op = opREAD then .rd else if k.op = opWRITE then .wr else .atomic
  let who := FarWho.window k.src k.tag
  if !(s.devState = stREADY || s.devState = stRUNNING) then s.respond p k rsNOT_READY []
  else if n = 0 ∨ n > 4096 ∨ k.addr % 4096 + n > 4096 ∨ (k.op = opATOMIC ∧ k.addr % 8 ≠ 0)
      ∨ (k.op = opWRITE ∧ k.dataWords ≠ cdiv n 16) then s.respond p k rsALIGN []
  else if k.op = opATOMIC ∧ k.arg % 16 > 6 then s.respond p k rsSPACE []
  else if k.op = opREAD ∧ s.unserved k.addr n then s.respond p k rsNOT_READY []
  else match s.winSpan k.addr n acs with
  | .error (ga, e) => s.winFault p k acs ga e
  | .ok ls =>
    let bytes := s.farBytes who ls
    if ecc ∧ k.op ≠ opWRITE then
      let t := match ls with
        | (_, l, _) :: _ => match Loc.ecc l with
          | some pl => s.uncorrectable { place := pl, flips := [0, 8] }
          | none => s
        | [] => s
      t.respond p k rsECC []
    else if !s.farReady who ls then s.serveFar p k ls
    else if k.op = opREAD then (s.farDrop who).respond p k rsOK bytes
    else if k.op = opATOMIC ∧ (farOf ls).isSome then (s.farDrop who).respond p k rsOK bytes
    else
      let out := if k.op = opWRITE then k.data.take n
        else
          let w (i : Nat) : BitVec 64 := BitVec.ofNat 64 (leNum ((k.data.drop (8 * i)).take 8))
          leBytes 8 (atomicOp (k.arg % 16) (BitVec.ofNat 64 (leNum bytes)) (w 0) (w 1)).toNat
      ((s.farDrop who).winSpread ls out).respond p k rsOK (if k.op = opATOMIC then bytes ++ List.replicate 8 0#8 else [])

/-- READ and WRITE of a register word (R393). -/
def serveReg (s : State) (p : Nat) (k : Packet) : State :=
  let o := k.addr % 2 ^ 44
  if k.op = opATOMIC then s.respond p k rsSPACE []
  else if k.arg % 8192 ≠ 4 ∨ o % 4 ≠ 0 ∨ (k.op = opWRITE ∧ k.dataWords ≠ 1) then s.respond p k rsALIGN []
  else if k.op = opREAD then
    let (t, v) := s.regRead 1 o
    t.respond p k rsOK (leBytes 4 v.toNat)
  else (s.regWrite o (BitVec.ofNat 32 (leNum (k.data.take 4)))).respond p k rsOK []

/-- A READ, WRITE or ATOMIC at its target. -/
def serve (s : State) (k : Packet) (op : Nat) (ecc : Bool) : State :=
  match s.takePacket k op with
  | none => s
  | some (p, t) =>
    match k.addr / 2 ^ 62 % 4 with
    | 0 => t.serveMem p k ecc
    | 1 => t.serveReg p k
    | _ => t.respond p k rsSPACE []

/-- A request of a COLL or RESHARD to a peer that has paused has no running timer (12 R436). -/
def timerHeld (s : State) (q : FabReq) : Bool :=
  match q.who with
  | .col r uid => match (s.findInfl r uid).bind (·.col) with
    | some o => o.paused.any fun rk => (o.group.members[rk]?.map (·.1)) = some q.pkt.dst
    | none => s.col.resh.any fun x => x.inst = some (r, uid) && x.paused.any (·.2 = q.pkt.dst)
  | .arrivalResh c => s.col.resh.any fun x => x.ctx = c && x.paused.any (·.2 = q.pkt.dst)
  | .echo _ => true
  | .timing => true
  | _ => false

/-- A request's timer expires (R406): an ECHO goes out, or the request completes as unreachable. -/
def timerExpiry (s : State) (tag : Nat) : State :=
  match s.fab.reqs.find? fun q => q.tag = tag with
  | none => s
  | some q =>
    let n := q.expiries + 1
    if s.timerHeld q ∨ (s.fab.inbox.any fun x => x.2.rsp && x.2.tag = tag) then s
    else if (q.echoTag.isSome && !q.echoOk) || n > s.retryMax then
      s.arrive 32 { q.pkt with rsp := true, status := rsNO_ROUTE, dst := q.pkt.src, src := q.pkt.dst, data := [] }
    else
      let et := s.fab.nextTag
      let up (x : FabReq) : FabReq := if x.tag = tag then { x with expiries := n, echoTag := some et, echoOk := false } else x
      (s.modFab fun f => { f with reqs := f.reqs.map up }).request (.echo tag) { op := opECHO, dst := q.pkt.dst }

/-- A VL0 packet for another module goes on between near and far ports, one hop (R399). -/
def forward (s : State) (p : Nat) (k : Packet) : State :=
  if k.vl ≠ 0 ∨ k.isLocal ∨ some k.dst = s.fab.num ∨ !(s.fab.inbox.contains (p, k)) then s
  else
    let t := s.modFab fun f => { f with inbox := f.inbox.erase (p, k) }
    match if p < 16 then t.farPort k else t.nearPort k with
    | some q => t.sendRaw q k
    | none => t

end State

/-! Effects -/

def effEcho (k : Packet) (s : State) : State :=
  if k.arg % 2 = 1 then s
  else match s.takePacket k opECHO with
  | none => s
  | some (p, t) => t.respond p k rsOK []

/-- t2 is the arrival stamp of the flit; t3 is now (16 R556). -/
def effTimingEcho (k : Packet) (t2 : W64) (s : State) : State :=
  if k.arg % 2 = 0 then s
  else match s.takePacket k opECHO with
  | none => s
  | some (p, t) =>
    if t.aligned then t.respond p k rsOK [] (addr := t.now) (arg := t2.toNat) else t.respond p k rsNOT_READY []

/-! Meanings -/

/-- The block a fabric register access acts on, beside the fabric's own (00 R704). -/
def fabOpen (s : State) (k : Packet) : Bool :=
  k.op = opWRITE && k.addr / 2 ^ 62 % 4 = 1 && s.regOpen (k.addr % 2 ^ 44) (BitVec.ofNat 32 (leNum (k.data.take 4)))

def execRead (k : Packet) (ecc : Bool) (s : State) := run [bFAB] s (s.serve k opREAD ecc)
def execWrite (k : Packet) (s : State) : Host.Outcome State Fault Refusal :=
  if fabOpen s k then .fault .rsvUnspecified else run [bFAB] s (s.serve k opWRITE false)
def execAtomic (k : Packet) (s : State) := run [bFAB] s (s.serve k opATOMIC false)
def execEcho (k : Packet) (s : State) := run [bFAB] s (effEcho k s)
def execTimingEcho (k : Packet) (t2 : W64) (s : State) := run [bFAB, bTB] s (effTimingEcho k t2 s)
def execRequestTimerExpiry (tag : Nat) (s : State) := run [bFAB] s (s.powered (s.timerExpiry tag))
def execVl0Forward (p : Nat) (k : Packet) (s : State) := run [bFAB] s (s.powered (s.forward p k))

end Sys2Proof.Machine
end

