-- ==== Sys2Proof/Machine/Faults.lean ====
section
/-! DEFINITION. Resolution of translation faults by the steward and the host, and the commands of the fault ring (08 R291 to
R301, R308; 18 R608 to R610). -/

namespace Sys2Proof.Machine


/-- The host has been handed a fault, with an entry of the ring or behind a full one (18 R609). -/
def WaitF.handed (w : WaitF) : Bool :=
  match w.st with
  | .host _ => true
  | .queued => true
  | _ => false

namespace State

def findWait (s : State) (wid : Nat) : Option WaitF := s.mmu.waits.find? fun w => w.wid = wid
def dropWait (s : State) (wid : Nat) : State :=
  { s with mmu := { s.mmu with waits := s.mmu.waits.filter fun w => w.wid ≠ wid } }
def modWait (s : State) (wid : Nat) (f : WaitF → WaitF) : State :=
  { s with mmu := { s.mmu with waits := s.mmu.waits.map fun w => if w.wid = wid then f w else w } }

/-- The launch whose room waits: it runs in the room, or its image is saved. -/
def waitLaunch (s : State) (w : WaitF) : Option (Nat × Nat) :=
  let r := (((s.ctx w.ctx).map (·.rooms)).getD []).getD w.lease 72
  if r < 72 ∧ (s.room r).lease = some (w.ctx, w.lease) then (s.room r).seqr.launch
  else ((s.ctx w.ctx).bind fun x => x.saved.find? fun v => v.1 = w.lease).bind fun v => v.2.1.seqr.launch

/-- Take the packet held at a window. -/
def takeHeld (s : State) (wid : Nat) : Option (Nat × Packet × State) :=
  (s.mmu.winHeld.find? fun x => x.1 = wid).map fun x =>
    (x.2.1, x.2.2, { s with mmu := { s.mmu with winHeld := s.mmu.winHeld.filter fun y => y.1 ≠ wid } })

/-- A fault's resolution fails: its launch ends with TRANSLATION (R293), a window's request is refused (R290), a press or
racking write stays held and is tried again (log 26). -/
def failWait (s : State) (w : WaitF) : State :=
  let s1 := s.dropWait w.wid
  let endIt : State := match s.waitLaunch w with
    | some (c, sl) => s1.launchFault c sl w.lease w.pc FaultCode.translation.code
    | none => s1
  match w.who with
  | .mover _ _ => endIt
  | .fetch _ => endIt
  | .resh _ => s1
  | .load c sl => s1.launchFault c sl w.lease 0 FaultCode.translation.code
  | .press c => s1.pressRetry c
  | .racking c => s1.rackRetry c
  | .window => match s1.takeHeld w.wid with
    | some (p, k, t) => t.respond p k rsWINDOW []
    | none => s1

/-- A fault is resolved: the unit walks the page tables again (R292, R610). A mover restarts at MOVER_RESUME (R299). -/
def resumeWait (s : State) (w : WaitF) : State :=
  let s1 := s.dropWait w.wid
  let wake (m : Mover) : Mover := if m.wait = some w.wid then { m with wait := none, paused := true } else m
  match w.who with
  | .mover r uid => s1.modInfl r uid fun i => { i with mv := i.mv.map wake }
  | .fetch r => if (s1.room r).seqr.hold = .fetch w.wid then s1.setHold r .none else s1
  | .load _ _ => s1
  | .resh _ => s1
  | .press c => s1.pressRetry c
  | .racking c => s1.rackRetry c
  | .window => match s1.takeHeld w.wid with
    | some (p, k, t) => t.serveMem p k false
    | none => s1

/-! The host fault ring (18 R608, R609) -/

/-- Faults that wait unanswered in the ring. -/
def onRing (s : State) : Nat := (s.mmu.waits.filter fun w => match w.st with
  | .host _ => true
  | _ => false).length

/-- Hand a fault to the host: an entry of the ring, a place behind a full ring, or, with no ring, its failure. FAULT_TMO runs from the
first of these (R293; 18 R609). -/
def handToHost (s : State) (w : WaitF) : State :=
  match s.host.ring with
  | none => s.failWait w
  | some (base, n) =>
    let t0 (x : WaitF) : Nat := if x.handed then x.handT else s.now
    if s.onRing ≥ n then s.modWait w.wid fun x => { x with st := .queued, handT := t0 x }
    else
      let fid := s.host.nextFid
      let s1 := s.modWait w.wid fun x => { x with st := .host fid, handT := t0 x }
      let bs := w.record ++ leBytes 8 fid ++ List.replicate 56 0#8
      ({ s1 with
        hostMem := s1.hostMem.write (base + 128 * ((fid - 1) % n)) bs
        host := { s1.host with nextFid := fid + 1 } }.bump fmSTEWARD 0 1 1).msix 1 1

/-- The oldest fault without an entry takes the one that an answer has freed. -/
def promote (s : State) : State :=
  match s.host.ring, s.mmu.waits.find? fun w => w.st = .queued with
  | some (_, n), some w => if s.onRing < n then s.handToHost w else s
  | _, _ => s

/-! The steward's resolution (R292, R294) -/

/-- Page-table root and virtual address of the walk that missed: a global address of this module leads through its window to a
context, the steward's reshard through its journal's PTROOT (12 R451). -/
def missAt (s : State) (w : WaitF) : Option Nat × Nat :=
  let e := windowBase + 32 * (w.va / 2 ^ 36 % 256)
  let root (c : Nat) : Option Nat := (s.ctx c).map (·.d.ptroot)
  if w.glob then (root (s.hbm.le (e + 0x11) 1), s.hbm.le e 8 + w.va % 2 ^ 36)
  else match w.who with
    | .resh c => ((s.findResh c).map fun x => s.jget x.pa 0x40 8, w.va)
    | _ => (root w.ctx, w.va)

/-- The frame pool of a page-table root (R294). -/
def poolAt (s : State) (w : WaitF) : Nat := (s.missAt w).1.getD 0 + 0x200000

/-- Take a frame from the pool, when it is not empty. -/
def takeFrame (s : State) (pool : Nat) : Option (Nat × State) :=
  let head := s.hbmLe pool 4
  if head = s.hbmLe (pool + 4) 4 then none
  else some (s.hbmLe (pool + 0x40 + 8 * (head % 8184)) 8, s.hbmSet pool 4 ((head + 1) % 8184))

/-- Return a frame to the pool. -/
def putFrame (s : State) (pool frame : Nat) : State :=
  let head := (s.hbmLe pool 4 + 8183) % 8184
  (s.hbmSet (pool + 0x40 + 8 * head) 8 frame).hbmSet pool 4 head

/-- The steward takes a fault up: it fills a frame, hands the fault to the host, or finds the walk good (R292, R293). -/
def resolve1 (s : State) (w : WaitF) : State :=
  let va := (s.missAt w).2
  match (s.missAt w).1 with
  | none => s.failWait w
  | some root =>
    match walkPt s.hbm s.prs.size false va w.acs 3 root with
    | .ok _ => s.resumeWait w
    | .error e =>
      let w1 := { w with cause := e.cause, level := e.level, pte := e.pte }
      let s1 := s.modWait w.wid fun _ => w1
      let back := e.pte / 16 % 4
      if finalCause e.cause then s1.failWait w1
      else if e.cause ≠ cNOT_VALID ∨ e.level ≠ 3 ∨ back = 0 then s1.handToHost w1
      else match s1.takeFrame (s1.poolAt w), pteAddr s1.hbm root va with
      | some (frame, t), some slot =>
        let t1 := t.modWait w.wid fun y => { y with st := .filling frame slot e.pte }
        if back ≠ 3 then t1
        else
          let ga := e.pte / 4096 * 4096
          (List.range 16).foldl (fun u i => u.request (.fill w.wid (4096 * i)) {
            op := opREAD, dst := (ga + 4096 * i) / 2 ^ 44 % 2 ^ 18, addr := ga + 4096 * i, arg := 4096 }) t1
      | _, _ => s1.handToHost w1

/-- A frame's fill reads that are still open. -/
def fillOpen (s : State) (wid : Nat) : Bool := s.fab.reqs.any fun q => match q.who with
  | .fill v _ => v = wid
  | _ => false

/-- Copy 64 KiB of host memory into a frame. -/
def fillHost (s : State) (frame a : Nat) : State :=
  let cells := s.hostMem.filter fun c => decide (a ≤ c.1) && decide (c.1 < a + 65536)
  { s with hbm := cells.foldl (fun m c => m.set (frame + (c.1 - a)) c.2) (s.hbm.erase frame 65536) }

/-- The frame is filled: the entry is swapped against the value walked, and the unit resumes; a swap that fails returns the
frame and walks again (R292). -/
def fillDone (s : State) (w : WaitF) (frame slot pte : Nat) : State :=
  let back := pte / 16 % 4
  if back = 3 ∧ s.fillOpen w.wid then s
  else
    let s1 := if back = 1 then { s with hbm := s.hbm.erase frame 65536 }
      else if back = 2 then s.fillHost frame (pte / 4096 * 4096) else s
    if s1.hbmLe slot 8 = pte then
      let low := pte % 4096 - pte / 16 % 4 * 16 - pte % 4 + 3
      ((s1.hbmSet slot 8 (frame / 4096 * 4096 + low)).resumeWait w).bump fmSTEWARD 0 0 1
    else (s1.putFrame (s1.poolAt w) frame).modWait w.wid fun y => { y with st := .steward }

/-- A read of the backing address has failed: the frame returns and the host resolves the fault (log 31). -/
def fillFailed (s : State) (wid : Nat) : State :=
  match s.findWait wid with
  | some w => match w.st with
    | .filling frame _ _ =>
      let f : Fab := { s.fab with reqs := s.fab.reqs.filter fun q => match q.who with
        | .fill v _ => v ≠ wid
        | _ => true }
      (({ s with fab := f }).putFrame (s.poolAt w) frame).handToHost w
    | _ => s
  | none => s

/-- FAULT_TMO as it acts, in ns. -/
def faultTmoNs (s : State) : Nat := (let v := s.regBits rMMU_CTL 0 16; if v = 0 then 100 else v) * 1000000

end State

/-! Effects -/

def effStewardFaultResolve (wid : Nat) (s : State) : State :=
  match s.findWait wid with
  | some w => if w.st = .steward then s.resolve1 w else s
  | none => s

def effFaultFillDone (wid : Nat) (s : State) : State :=
  match s.findWait wid with
  | some w => match w.st with
    | .filling frame slot pte => s.fillDone w frame slot pte
    | _ => s
  | none => s

/-- No answer within FAULT_TMO; for a window, no resolution (R290, R293). -/
def effFaultTmoExpiry (wid : Nat) (s : State) : State :=
  match s.findWait wid with
  | some w =>
    let win : Bool := decide (w.who = .window)
    if (w.handed ∨ win) ∧ (if win then w.t else w.handT) + s.faultTmoNs ≤ s.now then
      let s1 := match w.st with
        | .filling frame _ _ => s.putFrame (s.poolAt w) frame
        | _ => s
      (s1.failWait w).promote
    else s
  | none => s

/-- A new fault ring takes the faults that wait unanswered, oldest first, from FID 1 on (18 R608, log 31). -/
def State.newRing (t : State) (a n : Nat) : State :=
  let open' := t.mmu.waits.filter (·.handed)
  let ids := open'.map (·.wid)
  let t1 := { t with
    host := { t.host with ring := some (a, n), nextFid := 1 }
    mmu := { t.mmu with waits := t.mmu.waits.map fun w => if ids.contains w.wid then { w with st := .queued } else w } }
  open'.foldl (fun u w => u.handToHost w) t1

/-- FAULT_RING: a new ring starts its FIDs at 1 and takes the faults that wait unanswered, oldest first (log 31). -/
def effFaultRing (q : Req) (s : State) : State :=
  s.cmd q 0xA 2 false fun t =>
    let a := q.arg 0
    let n := q.arg 1
    if a % 4096 ≠ 0 ∨ !(n = 0 ∨ [64, 128, 256, 512, 1024, 2048, 4096].contains n) then (t, { status := cINVALID })
    else if n = 0 then ({ t with host := { t.host with ring := none } }, { status := cOK })
    else (t.newRing a n, { status := cOK })

/-- FAULT_ANSWER (R610). -/
def effFaultAnswer (q : Req) (s : State) : State :=
  s.cmd q 0xB 2 false fun t =>
    if q.arg 1 > 1 then (t, { status := cINVALID })
    else match t.mmu.waits.find? fun w => w.st = .host (q.arg 0) with
    | none => (t, { status := cREFUSED })
    | some w => ((if q.arg 1 = 0 then t.resumeWait w else t.failWait w).promote, { status := cOK })

/-- RETIRED_READ (R308; 18 Table 18.5). -/
def effRetiredRead (q : Req) (s : State) : State :=
  s.cmd q 0xC 2 false fun t =>
    if q.arg 1 = 0 ∨ q.arg 1 > 246 then (t, { status := cINVALID })
    else
      let l := t.mmu.retired
      (t, { status := cOK, detail := l.length, body := ((l.drop (q.arg 0)).take (q.arg 1)).flatMap fun a => leBytes 8 a })

/-! Meanings -/

def execStewardFaultResolve (wid : Nat) (s : State) := run [bSTW, bMMU] s (s.live (effStewardFaultResolve wid s))
def execFaultFillDone (wid : Nat) (s : State) := run [bSTW, bMMU] s (s.live (effFaultFillDone wid s))
def execFaultTmoExpiry (wid : Nat) (s : State) := run [bSTW, bMMU] s (s.live (effFaultTmoExpiry wid s))
def execFaultRing (q : Req) (s : State) := run [bSTW] s (effFaultRing q s)
def execFaultAnswer (q : Req) (s : State) := run [bSTW, bMMU] s (effFaultAnswer q s)
def execRetiredRead (q : Req) (s : State) := run [bSTW] s (effRetiredRead q s)

end Sys2Proof.Machine
end

