-- ==== Sys2Proof/Machine/Hearth.lean ====
section
/-! DEFINITION. The hearth: VEC instructions and VADAM (04 R151 to R155; 07 R245 to R249; 13 R470 to R475; 02 R47). Where
only a bound constrains a result it is a free value within the bound (log 8). -/

namespace Sys2Proof.Machine

/-! Reference values of 2^x and log2 x, accurate to 2^−38, against which free values are held to their bounds -/

def fixOne : Nat := 2 ^ 80
/-- ln 2 in units of 2^−80. -/
def fixLn2 : Nat := 0xB17217F7D1CF79ABC9E3

/-- Σ z^k ÷ k! from k on, `t` the k-th term in units of 2^−80. -/
def expSum (z : Nat) : Nat → Nat → Nat → Nat
  | 0, _, _ => 0
  | fuel + 1, k, t => t + expSum z fuel (k + 1) (t * z / fixOne / (k + 1))

/-- 2^q, q clamped to ±400. -/
def exp2A (q : Rat) : Rat :=
  let n := max (-400) (min 400 q.floor)
  let f := ((q - (q.floor : Rat)) * (fixOne : Rat)).floor.toNat
  ((expSum (f * fixLn2 / fixOne) 30 0 fixOne : Nat) : Rat) * pow2 (n - 80)

/-- Binary digits of log2 of a mantissa in units of 2^−80. -/
def logBits : Nat → Nat → Nat
  | 0, _ => 0
  | fuel + 1, m =>
    let s := m * m / fixOne
    if s ≥ 2 * fixOne then 2 ^ fuel + logBits fuel (s / 2) else logBits fuel s

/-- log2 q of a positive q. -/
def log2A (q : Rat) : Rat :=
  let k := ratLog2 q
  let m := (q / pow2 k * (fixOne : Rat)).floor.toNat
  (k : Rat) + ((logBits 40 m : Nat) : Rat) / ((2 ^ 40 : Nat) : Rat)

/-- The reference value, or the free FP32 value when it is finite and within the bound. -/
def within (free : W32) (ref bound : Rat) : Rat :=
  match decFp32 free with
  | .fin n a =>
    let v := if n then -a else a
    if ratAbs (v - ref) ≤ bound then v else ref
  | _ => ref

/-- A hearth result before its last rounding, whether it equals the exact result, and the flags set on the way to it. -/
structure Hv where
  v : Fv
  exact : Bool := true
  fl : Flags := 0

/-- Exponential, relative error at most 2^−22 (04 Table 4.8); an integer operand has an exact result to compare with. -/
def hExp2 (x : Fv) : Hv :=
  match x with
  | .nan => { v := .nan }
  | .inf n => { v := if n then .fin false 0 else .inf false }
  | .fin _ _ =>
    let q := x.toRat
    let r := exp2A q
    let y := within (Config.exp2 (encFp32 x).1) r (r * (pow2 (-22) - pow2 (-30)))
    { v := .ofRat y, exact := decide (q.den = 1 ∧ y = pow2 q.num) }

/-- Logarithm, absolute error at most 2^−16 (04 Table 4.8; 07 R246). -/
def hLog2 (x : Fv) : Hv :=
  match x with
  | .nan => { v := .nan }
  | .inf n => { v := if n then .nan else .inf false }
  | .fin n a =>
    if a = 0 then { v := .inf true }
    else if n then { v := .nan }
    else
      let r := log2A a
      let y := within (Config.log2 (encFp32 x).1) r (pow2 (-16) - pow2 (-30))
      { v := .ofRat y, exact := decide (a = pow2 (ratLog2 a) ∧ y = (ratLog2 a : Rat)) }

/-- Reciprocal, relative error at most 2^−22 (07 R246). -/
def hRcp (x : Fv) : Hv :=
  match x with
  | .nan => { v := .nan }
  | .inf n => { v := .fin n 0 }
  | .fin n a =>
    if a = 0 then { v := .inf n }
    else
      let r := (if n then -1 else 1) / a
      let y := within (Config.rcp (encFp32 x).1) r (ratAbs r * (pow2 (-22) - pow2 (-30)))
      { v := .ofRat y, exact := decide (y = r) }

/-- Reciprocal square root, relative error at most 2^−22 (07 R246). -/
def hRsq (x : Fv) : Hv :=
  match x with
  | .nan => { v := .nan }
  | .inf n => { v := if n then .nan else .fin false 0 }
  | .fin n a =>
    if a = 0 then { v := .inf n }
    else if n then { v := .nan }
    else
      let e := ratLog2 a / 2
      let m := a / pow2 (2 * e)
      let root : Rat := ((Nat.sqrt (m * ((2 ^ 80 : Nat) : Rat)).floor.toNat : Nat) : Rat) / ((2 ^ 40 : Nat) : Rat)
      let r := pow2 (-e) / root
      let y := within (Config.rsq (encFp32 x).1) r (r * (pow2 (-22) - pow2 (-30)))
      { v := .ofRat y, exact := decide (y * y * a = 1) }

/-- Sum of at most 512 values as a lane tree: within 9 × 2^−24 of the sum of magnitudes (04 Table 4.8). -/
def laneTree (xs : List Fv) : Hv :=
  if xs.any fun x => !x.isFin then { v := xs.foldl fvAdd (.fin true 0) }
  else
    let s := (xs.map (·.toRat)).sum
    let b := (xs.map (·.mag)).sum * 8 * pow2 (-24)
    let y := within (Config.laneSum (xs.map fun x => (encFp32 x).1)) s b
    if s = 0 ∧ y = 0 then { v := xs.foldl fvAdd (.fin true 0) } else { v := .ofRat y, exact := decide (y = s) }

/-- Consecutive chunks of 512. -/
def chunks512 (xs : List Fv) : List (List Fv) := (List.range (cdiv xs.length 512)).map fun i => (xs.drop (512 * i)).take 512

/-- Sum of a row: lane trees of 512 values whose sums add in order with FP32 rounding (log 8). -/
def rowSum (xs : List Fv) : Hv :=
  match chunks512 xs with
  | [c] => laneTree c
  | cs => cs.foldl (fun acc c =>
      let t := laneTree c
      let e := fvAdd acc.v t.v
      let (c, f) := encFp32 e
      let r := decFp32 c
      { v := r, exact := acc.exact && t.exact && decide (r = e), fl := acc.fl ||| f }) { v := .fin true 0 }

/-- f(d) = log2(1 + 2^−d) of the log-sum-exp unit (04 R154). -/
def lseF (d : Fv) : Fv :=
  match d with
  | .nan => .nan
  | .inf _ => .fin false 0
  | .fin _ a =>
    if a ≤ 6 then
      let entry (i : Nat) : Rat := (rneInt (log2A (1 + exp2A (-(6 * i : Nat) / 63)) * 2 ^ 18) : Rat) / 2 ^ 18
      let i := min 62 (a * 63 / 6).floor.toNat
      let t := a * 63 / 6 - (i : Nat)
      .ofRat (entry i + (entry (i + 1) - entry i) * t)
    else fvMul (.ofRat (1 / ((fixLn2 : Rat) / (fixOne : Rat)))) (hExp2 (.fin true a)).v

/-- max(a, b); a NaN operand gives NaN. -/
def fvMax (a b : Fv) : Fv := if a.isNan || b.isNan then .nan else if fvLt a b then b else a
def fvMin (a b : Fv) : Fv := if a.isNan || b.isNan then .nan else if fvLt a b then a else b
def fvAbs : Fv → Fv
  | .nan => .nan
  | .inf _ => .inf false
  | .fin _ a => .fin false a

/-- max(a, b) + f(|a − b|) (04 R155). -/
def lseMerge (a b : Fv) : Hv := { v := fvAdd (fvMax a b) (lseF (fvAbs (fvAdd a (fvNeg b)))), exact := false }

/-- One softmax partial: m + log2 Σ exp2(x − m), within 2^−15 (04 R155, Table 4.8). -/
def lseChunk (xs : List Fv) : Hv :=
  let m := xs.foldl fvMax (.inf true)
  match m with
  | .fin _ _ =>
    let r := m.toRat + log2A ((xs.map fun x => match x with
      | .fin _ _ => exp2A (x.toRat - m.toRat)
      | _ => 0).sum)
    { v := .ofRat (within (Config.lse (xs.map fun x => (encFp32 x).1)) r (pow2 (-15) - pow2 (-30))), exact := false }
  | _ => { v := .nan }

/-! Elementwise instructions -/

/-- FP32 or unscaled G16. -/
def hearthFmt (d : Desc) : Bool := d.fmt = fmtFP32 || (d.fmt = fmtG16 && !d.scaled)
/-- BASE in the room's own pantry. -/
def basePantry (d : Desc) : Bool := !d.global && Desc.ownPantry d.base

/-- Flat row of an operand with broadcasting, for destination coordinates. -/
def bcRow (d c : Desc) (row : Nat) : Nat :=
  let i1 := row % c.dim1
  let i2 := row / c.dim1 % c.dim2
  let i3 := row / (c.dim1 * c.dim2)
  (if d.dim1 = 1 then 0 else i1) + d.dim1 * ((if d.dim2 = 1 then 0 else i2) + d.dim2 * (if d.dim3 = 1 then 0 else i3))

/-- An extent matches the destination's, or is 1: of the outer dimensions, and of all four (07 R247). -/
def bcOuter (d c : Desc) : Bool := [(d.dim1, c.dim1), (d.dim2, c.dim2), (d.dim3, c.dim3)].all fun (x, y) => x = y || x = 1
def bcOk (d c : Desc) : Bool := (d.dim0 = c.dim0 || d.dim0 = 1) && bcOuter d c

/-- Flags of a result known not to be exact: INX, and UNF where its code is zero or subnormal (02 Table 2.4). -/
def inexFlags (mb c : Nat) (h : Hv) : Flags :=
  if h.exact || !h.v.isFin then 0 else if c / 2 ^ mb % 256 = 0 then fINX ||| fUNF else fINX

/-- Round a result into the destination and store its code: memory and flags. -/
def putHv (d : Desc) (m : Mem × Flags) (row i : Nat) (h : Hv) : Mem × Flags :=
  let mb := if d.fmt = fmtG16 then 7 else 23
  let w := d.bits / 8
  let (c, f) := encIeee mb .rne h.v
  (m.1.setLe (pantOff d.base + d.rowOff row + i * w) w c,
    m.2 ||| f ||| h.fl ||| inexFlags mb c h)

/-- Operands of a hearth instruction. -/
inductive VecForm where
  | binary | unary | fma | sum | lse | scl
  deriving DecidableEq, Repr

def vecForm (op : Nat) : VecForm :=
  match op with
  | 0x33 => .fma
  | 0x36 => .unary | 0x37 => .unary | 0x38 => .unary | 0x39 => .unary
  | 0x3A => .sum | 0x3B => .lse | 0x3D => .scl
  | _ => .binary

/-- Result of one element (07 Table 7.8). A NaN read gives NaN, and its encoding sets INV. -/
def vecElem (op : Nat) (a b c : Fv) : Hv :=
  match op with
  | 0x30 => { v := fvAdd a b }
  | 0x31 => { v := fvAdd a (fvNeg b) }
  | 0x32 => { v := fvMul a b }
  | 0x33 => { v := fvAdd (fvMul a b) c }
  | 0x34 => { v := fvMax a b }
  | 0x35 => { v := fvMin a b }
  | 0x36 => hExp2 a
  | 0x37 => hLog2 a
  | 0x38 => hRcp a
  | 0x39 => hRsq a
  | 0x3C => lseMerge a b
  | _ => { v := fvMul a b }

/-- The hearth reads an infinity: INV by 13 R469, which cites 02 Table 2.4 although the table names NaN only. DEDUCED (log 8). -/
def readsInf (v : View) : Bool :=
  (List.range v.d.rows).any fun row => (List.range v.d.dim0).any fun i => match v.exact row i with
    | .inf _ => true
    | _ => false

/-- The destination as a VEC instruction leaves it: pantry and flags. -/
def vecResult (op : Nat) (a b c : View) (x : Fv) (mem : Mem) : Mem × Flags :=
  let d := c.d
  let inf := readsInf a || ((vecForm op = .binary || vecForm op = .fma) && readsInf b) || (vecForm op = .fma && readsInf c)
  let av (row i : Nat) : Fv := a.exact (bcRow a.d d row) (if a.d.dim0 = 1 then 0 else i)
  let bv (row i : Nat) : Fv := if op = 0x3D then x else if vecForm op = .unary then .fin false 0
    else b.exact (bcRow b.d d row) (if b.d.dim0 = 1 then 0 else i)
  (List.range d.rows).foldl (fun m row =>
    match vecForm op with
    | .sum => putHv d m row 0 (rowSum ((List.range a.d.dim0).map fun i => a.exact (bcRow a.d d row) i))
    | .lse => (chunks512 ((List.range a.d.dim0).map fun i => a.exact (bcRow a.d d row) i)).zipIdx.foldl
        (fun m (c, i) => putHv d m row i (lseChunk c)) m
    | f => (List.range d.dim0).foldl (fun m i =>
        putHv d m row i (vecElem op (av row i) (bv row i) (if f = .fma then c.exact row i else .fin false 0))) m) (mem, flagIf inf fINV)

/-- Operand B names a descriptor. -/
def vecTwo (op : Byte) : Bool := vecForm op.toNat = .binary || vecForm op.toNat = .fma

/-- The checks of a VEC instruction but VADAM, in order. A residual destination is FP32, since the hearth never narrows one (04 R152;
that the narrowing raises FORMAT is DEDUCED from 07 R248, log 8) (07 R245 to R248; 12 R452). -/
def vecChecks (op : Byte) (t : State) (a : At) (w : TWord) : List (Bool × FaultCode) :=
  let form := vecForm op.toNat
  let x := t.latch a w.a.toNat
  let y := if vecTwo op then t.latch a w.b.toNat else x
  let d := t.latch a w.c.toNat
  let sel := w.sel.toNat
  let narrow (d : Desc) : Bool := d.fmt = fmtG16
  [(!okTok w || !zeroMod w || (form = .scl && !okS w.b) || ((form = .unary || form = .sum || form = .lse) && w.b ≠ 0), .operand),
    (!okD w.a || (vecTwo op && !okD w.b) || !okD w.c, .descriptor),
    (t.reshardOn a.c, .reshardPending), descCheck x, descCheck y, descCheck d,
    (sel ≠ 0x12 && sel ≠ 0x13, .format),
    (!hearthFmt x || !hearthFmt y || !hearthFmt d, .format),
    (sel = 0x12 && !(narrow x && narrow y && narrow d), .format),
    (!basePantry x || !basePantry y || !basePantry d, .descriptor),
    (d.residual && (d.fmt ≠ fmtFP32 || ((op.toNat = 0x30 || op.toNat = 0x31) && sel ≠ 0x13)), .format),
    ((match form with
      | .sum => d.dim0 ≠ 1 || !bcOuter x d
      | .lse => d.dim0 ≠ cdiv x.dim0 512 || !bcOuter x d
      | _ => !bcOk x d || !bcOk y d : Bool), .descriptor)]

/-- Issue of a VEC instruction but VADAM. -/
def effVec (op : Byte) (r : Nat) (w : TWord) (s : State) : State :=
  s.issue r op w fun a t =>
    checked (vecChecks op t a w) fun _ =>
      let x := t.latch a w.a.toNat
      let y := if vecTwo op then t.latch a w.b.toNat else x
      let d := t.latch a w.c.toNat
      let o := vecResult op.toNat (t.view r a.uid x) (t.view r a.uid y) (t.view r a.uid d)
        (decFp32 ((t.sreg r w.b).setWidth 32)) (t.room r).pantry
      .ok (((t.putPantry r a.uid d.ranges o.1).hrtFlags r o.2).pending1 a op.toNat w
        { Infl.mk0 with descs := [x, y, d], ready := true, writes := d.ranges })

/-! VADAM (13 R470 to R475) -/

/-- FP32 steps with their flags gathered. -/
structure F32 where
  v : W32
  f : Flags := 0

def F32.ofFv (x : Fv) (f : Flags := 0) : F32 := let (c, g) := encFp32 x; { v := c, f := f ||| g }
def F32.fv (x : F32) : Fv := decFp32 x.v
def F32.add (x y : F32) : F32 := .ofFv (fvAdd x.fv y.fv) (x.f ||| y.f)
def F32.mul (x y : F32) : F32 := .ofFv (fvMul x.fv y.fv) (x.f ||| y.f)
def F32.fma (x y z : F32) : F32 := .ofFv (fvAdd (fvMul x.fv y.fv) z.fv) (x.f ||| y.f ||| z.f)
def F32.hv (h : Hv) (f : Flags) : F32 := let r := F32.ofFv h.v f; { r with f := r.f ||| inexFlags 23 r.v.toNat h }

/-- The hyperparameter record (13 Table 13.5). -/
structure Hyper where
  lr : W32
  b1 : W32
  b2 : W32
  eps : W32
  wd : W32
  clip : W32
  bc1 : W32
  lbc2 : W32
  flags : Nat
  resv : Bool

def State.hyper (s : State) (r uid off : Nat) : Hyper :=
  let f (o : Nat) : W32 := BitVec.ofNat 32 (s.pantLe r uid (off + o) 4)
  let fl := s.pantLe r uid (off + 0x20) 2
  { lr := f 0, b1 := f 4, b2 := f 8, eps := f 0xC, wd := f 0x10, clip := f 0x14, bc1 := f 0x18, lbc2 := f 0x1C, flags := fl,
    resv := fl ≥ 2 || s.pantLe r uid (off + 0x22) 30 ≠ 0 }

/-- The V16 update in the log2 domain: code and flags (02 R47). A NaN has no V16 code: the code is a free function of the operands (13
R475; log 8). -/
def v16Update (lb2 lomb2 : F32) (code : Nat) (g : F32) : Nat × Flags :=
  let x : Fv := if code = 0 then .inf true else (F32.add lb2 (.ofFv (.ofRat ((code : Nat) / 256 - 128)))).fv
  let lg := F32.hv (hLog2 (fvAbs g.fv)) 0
  let y : Fv := (F32.add lomb2 (.ofFv (fvMul (.fin false 2) lg.fv))).fv
  match x, y with
  | .nan, _ => ((Config.nanV16 code g.v).toNat, fINV)
  | _, .nan => ((Config.nanV16 code g.v).toNat, fINV)
  | .inf true, .inf true => (0, 0)
  | .inf false, _ => (0xFFFF, fOVF)
  | _, .inf false => (0xFFFF, fOVF)
  | _, _ =>
    match fvAdd (fvMax x y) (lseF (fvAbs (fvAdd x (fvNeg y)))) with
    | .fin n a => encV16Log (if n then -a else a)
    | _ => (0, 0)

/-- One row of VADAM: pantry and flags after it. -/
def adamRow (hp : Hyper) (n : Nat) (gv hi lo mv vv : View) (row : Nat) (st : Mem × Flags) : Mem × Flags :=
  let k := gv.d.dim0
  let clip : F32 := { v := hp.clip }
  let s : F32 := if n = 0 then { v := Config.divZero hp.clip } else .ofFv (fvMul clip.fv (.ofRat (1 / (n : Rat))))
  let b1 : F32 := { v := hp.b1 }
  let one : F32 := { v := 0x3F800000#32 }
  let neg (x : W32) : F32 := { v := x ^^^ 0x80000000#32 }
  let omb1 := F32.add one (neg hp.b1)
  let omb2 := F32.add one (neg hp.b2)
  let lomb2 := F32.hv (hLog2 omb2.fv) omb2.f
  let lb2 := F32.hv (hLog2 (decFp32 hp.b2)) 0
  let g (i : Nat) : F32 := F32.mul (.ofFv (gv.exact row i)) s
  let m1 (i : Nat) : F32 := F32.fma b1 (.ofFv (mv.exact row i)) (F32.mul omb1 (g i))
  let els := (List.range k).map fun i => ({ v := (m1 i).fv } : El)
  let fl0 := (List.range k).foldl (fun f i => f ||| (m1 i).f) (s.f ||| omb1.f ||| lomb2.f ||| lb2.f)
  let mo := convSeg { mv.d with attr := 0 } { gap := 3, hx := 0, mseLog2 := 0, r16 := fun _ => 0 } row 0 els st.1
  let mw : View := { d := mv.d, rd := fun a => mo.mem.nat a }
  (List.range k).foldl (fun (acc : Mem × Flags) i =>
    let mq : F32 := .ofFv (mw.exact row i)
    let (vc, vf) := v16Update lb2 lomb2 (vv.code row i) (g i)
    let eps : F32 := { v := hp.eps }
    let d : F32 :=
      if vc = 0 then eps
      else
        let lv : F32 := .ofFv (.ofRat ((vc : Nat) / 256 - 128))
        let h := F32.mul (F32.add lv { v := hp.lbc2 }) { v := 0x3F000000#32 }
        F32.add (F32.hv (hExp2 h.fv) h.f) eps
    let u := F32.mul (F32.mul mq { v := hp.bc1 }) (F32.hv (hRcp d.fv) d.f)
    let w : F32 := { v := BitVec.ofNat 32 (hi.code row i * 65536 + lo.code row i) }
    let u := if hp.flags % 2 = 1 then F32.fma { v := hp.wd } w u else u
    let w1 := F32.fma (neg hp.lr) u w
    let (c, wf) : Nat × Flags := match w1.fv with
      | .fin _ _ => (w1.v.toNat, w1.f)
      | _ => (0x7FC00000, w1.f ||| fINV)
    let m1 := acc.1.setLe (pantOff hi.d.base + hi.d.rowOff row + 2 * i) 2 (c / 65536)
    let m2 := m1.setLe (pantOff lo.d.base + lo.d.rowOff row + 2 * i) 2 (c % 65536)
    (m2.setLe (pantOff vv.d.base + vv.d.rowOff row + 2 * i) 2 vc, acc.2 ||| vf ||| wf)) (mo.mem, st.2 ||| fl0 ||| mo.flags)

/-- The five tensors of a VADAM: gradient, high and low weight halves, first and second moments (07 R249). -/
def adamDescs (t : State) (a : At) (w : TWord) : List Desc :=
  t.latch a w.a.toNat :: (List.range 4).map fun n => t.latch a (w.b.toNat + n)

/-- The checks of VADAM in order (07 R249; 13 R470, R471; 12 R452). -/
def adamChecks (r : Nat) (t : State) (a : At) (w : TWord) : List (Bool × FaultCode) :=
  let gd := t.latch a w.a.toNat
  let hd := t.latch a w.b.toNat
  let ld := t.latch a (w.b.toNat + 1)
  let md := t.latch a (w.b.toNat + 2)
  let vd := t.latch a (w.b.toNat + 3)
  let all := adamDescs t a w
  let h := t.stepHdr a.c
  [(!okTok w || !zeroMod w || !okP w.c 64 64, .operand), (!okD w.a || !okD w.b || w.b.toNat + 3 ≥ 4096, .descriptor),
    (t.reshardOn a.c, .reshardPending), (!h.valid || h.phase ≠ phCOMMITTING, .phase),
    descCheck gd, descCheck hd, descCheck ld, descCheck md, descCheck vd, (w.sel.toNat ≠ 0x13, .format),
    (gd.fmt ≠ fmtG16 || gd.scaled || hd.fmt ≠ fmtG16 || hd.scaled || !hd.weight || ld.fmt ≠ fmtLow || md.fmt ≠ fmtM16
      || vd.fmt ≠ fmtV16, .format),
    (all.any (fun d => !basePantry d) || !md.inPantry, .descriptor),
    (all.any (fun d => (d.dim0, d.dim1, d.dim2, d.dim3) ≠ (gd.dim0, gd.dim1, gd.dim2, gd.dim3)), .descriptor),
    (md.checkDest.isSome, .descriptor), ((t.hyper r a.uid w.c.toNat).resv, .operand)]

/-- The pantry and flags as a VADAM leaves them (13 R472 to R475). -/
def adamResult (r : Nat) (t : State) (a : At) (w : TWord) : Mem × Flags :=
  let v (n : Nat) := t.view r a.uid (t.latch a (w.b.toNat + n))
  let gd := t.latch a w.a.toNat
  (List.range gd.rows).foldl (fun st row => adamRow (t.hyper r a.uid w.c.toNat) (t.samplesUsed a.c) (t.view r a.uid gd)
    (v 0) (v 1) (v 2) (v 3) row st) ((t.room r).pantry, flagIf (readsInf (t.view r a.uid gd) || readsInf (v 2)) fINV)

def effVadam (r : Nat) (w : TWord) (s : State) : State :=
  s.issue r 0x3F#8 w fun a t =>
    checked (adamChecks r t a w) fun _ =>
      let all := adamDescs t a w
      let o := adamResult r t a w
      let rs := (all.drop 1).flatMap Desc.ranges
      let t1 := (t.putPantry r a.uid rs o.1).hrtFlags r o.2
      .ok (t1.pending1 a 0x3F w { Infl.mk0 with descs := all, ready := true, writes := rs })

/-! Meanings -/

def execTVadd (r : Nat) (w : TWord) (s : State) := run [bRoom r] s (effVec 0x30#8 r w s)
def execTVsub (r : Nat) (w : TWord) (s : State) := run [bRoom r] s (effVec 0x31#8 r w s)
def execTVmul (r : Nat) (w : TWord) (s : State) := run [bRoom r] s (effVec 0x32#8 r w s)
def execTVfma (r : Nat) (w : TWord) (s : State) := run [bRoom r] s (effVec 0x33#8 r w s)
def execTVmax (r : Nat) (w : TWord) (s : State) := run [bRoom r] s (effVec 0x34#8 r w s)
def execTVmin (r : Nat) (w : TWord) (s : State) := run [bRoom r] s (effVec 0x35#8 r w s)
def execTVexp2 (r : Nat) (w : TWord) (s : State) := run [bRoom r] s (effVec 0x36#8 r w s)
def execTVlog2 (r : Nat) (w : TWord) (s : State) := run [bRoom r] s (effVec 0x37#8 r w s)
def execTVrcp (r : Nat) (w : TWord) (s : State) := run [bRoom r] s (effVec 0x38#8 r w s)
def execTVrsq (r : Nat) (w : TWord) (s : State) := run [bRoom r] s (effVec 0x39#8 r w s)
def execTVsum (r : Nat) (w : TWord) (s : State) := run [bRoom r] s (effVec 0x3A#8 r w s)
def execTVlse (r : Nat) (w : TWord) (s : State) := run [bRoom r] s (effVec 0x3B#8 r w s)
def execTVlsem (r : Nat) (w : TWord) (s : State) := run [bRoom r] s (effVec 0x3C#8 r w s)
def execTVscl (r : Nat) (w : TWord) (s : State) := run [bRoom r] s (effVec 0x3D#8 r w s)
def execTVadam (r : Nat) (w : TWord) (s : State) := run [bRoom r] s (effVadam r w s)

end Sys2Proof.Machine
end

