-- ==== Sys2Proof/Machine/Mgmt.lean ====
section
/-! DEFINITION. Discovery, the partner table and the fabric manager's messages, and position takeover (11 R394 to R398, R411 to
R416; 14 R500 to R502; 15 R527). Messages hold their fields in the order the manual names them, little-endian (log 32). -/

namespace Sys2Proof.Machine

/-- HEALTH of a partner that is LOST (11 Table 11.13). -/
abbrev hLOST : Nat := 8

/-- A partner entry's image (11 Table 11.13). -/
def Partner.bytes (x : Partner) : List Byte :=
  leBytes 8 x.serial ++ leBytes 4 ((x.num.map fun n => n + 2 ^ 31).getD 0) ++ leBytes 1 x.role ++ leBytes 1 x.feed ++ leBytes 1 x.health
    ++ leBytes 1 ((if x.nearHello then 1 else 0) + if x.announced then 2 else 0) ++ leBytes 8 x.lastSeen ++ leBytes 4 x.ports
    ++ leBytes 1 x.pos ++ List.replicate 3 0#8

def Partner.parse (bs : List Byte) : Partner :=
  let m := fieldLe bs 8 4
  { serial := fieldLe bs 0 8, num := if m.testBit 31 then some (m % 2 ^ 18) else none, role := fieldLe bs 0xC 1, feed := fieldLe bs 0xD 1
    health := fieldLe bs 0xE 1, pos := fieldLe bs 0x1C 1 }

namespace State

/-- The 32 bytes of the failure summary (15 R527). -/
def failureSummary (s : State) : List Byte :=
  leBytes 8 s.serial ++ leBytes 1 (s.regBits rSTW_TEST_STATUS 24 4) ++ leBytes 1 (s.regBits rSTW_TEST_STATUS 28 4)
    ++ leBytes 2 (min 65535 s.tst.newSigs) ++ leBytes 4 0 ++ leBytes 8 s.tst.vestT ++ leBytes 8 0

/-- Refuse an MGMT message: STATUS 3; in VESTIBULE with the failure summary (11 R412; 15 R527). -/
def mgmtRefuse (s : State) (p : Nat) (k : Packet) : State :=
  s.respond p k 3 (if s.devState = stVESTIBULE then s.failureSummary else [])

/-- An MGMT request for this module, of a type: the port it came on. -/
def takeMgmt (s : State) (k : Packet) (types : List Nat) : Option (Nat × State) :=
  if k.op = opMGMT ∧ !k.rsp ∧ types.contains (k.arg % 65536) ∧ s.devState ≠ stOFF
      ∧ (k.isLocal ∨ s.fab.num.isNone ∨ s.fab.num = some k.dst) then some (s.fromInbox k) else none

/-- An MGMT request served by `f`, which answers none for a refusal; VESTIBULE refuses it (R527). -/
def mgmt (s : State) (k : Packet) (ty : Nat) (f : State → Option (State × List Byte)) (vest : Bool := false) : State :=
  match s.takeMgmt k [ty] with
  | none => s
  | some (p, t) =>
    if t.devState = stVESTIBULE ∧ !vest then t.mgmtRefuse p k
    else match f t with
    | some (u, data) => u.respond p k rsOK data
    | none => t.mgmtRefuse p k

/-! Losses (R437) -/

/-- A collective of a room waits on a module: a piece of its rank is missing, or a READY of it with the stream it asks for, or a request
to it is open. -/
def colWaits (s : State) (r : Nat) (i : Infl) (m : Nat) : Bool :=
  match i.col, i.descs with
  | some o, sd :: _ =>
    let me := o.group.rank
    o.group.members.zipIdx.any fun (x, rk) => x.1 = m && rk ≠ me
      && ((!o.formed && (Sys2Proof.Machine.pieces o rk me).any (fun p => (rxPiece o sd rk p).isNone))
        || (!(Sys2Proof.Machine.pieces o me rk).isEmpty && (!o.ready.contains rk || s.fab.reqs.any fun q => q.who = .col r i.uid && q.pkt.dst = m)))
  | _, _ => false

/-- A RACK waits on a producer: a slot it has not copied holds a position of that module. -/
def rackWaits (s : State) (r : Nat) (i : Infl) (m : Nat) : Bool :=
  match (s.room r).lease, i.rack with
  | some (c, _), some k => match s.rackJob c with
    | some j => ((List.range k.count).map (k.first + ·)).any fun a =>
        let g := s.rackPos j a
        !k.copied.contains a && j.producers[g % j.producers.length]? = some m && (rackWord j k g a).isNone
    | none => false
  | _, _ => false

/-- Operations that wait on a module end with REMOTE_UNREACHABLE (R437). -/
def endWaiting (s : State) (m : Nat) : State :=
  let s1 := (List.range 72).foldl (fun t r => (t.room r).infl.foldl (fun u i =>
    if u.colWaits r i m || u.rackWaits r i m then (u.report m sxUNREACHABLE 1).roomFault r i.pc .remoteUnreachable else u) t) s
  (s1.col.resh.filter fun x => x.inst.isSome).foldl (fun t x =>
    let p := s.jplan x.pa
    if (List.range (s.jget x.pa 0x18 4)).any fun rk => s.reshMod x.pa p rk = m then (t.report m sxUNREACHABLE 1).reshEnd x (some .remoteUnreachable) else t) s1

/-- A module's partner entry has reached LOST: reports, and what waited on it ends (R414, R437; 14 R514). -/
def moduleLost (s : State) (num : Option Nat) (serial : Nat) : State :=
  let s1 := s.reportMgr 1 serial hLOST
  match num with
  | some m => (s1.report m sxLOST 1).endWaiting m
  | none => s1

/-! The partner table (R413 to R415) -/

def modPartner (s : State) (serial : Nat) (f : Partner → Partner) : State :=
  s.modFab fun x => { x with partners := x.partners.map fun p => if p.serial = serial then f p else p }
def findPartner (s : State) (serial : Nat) : Option Partner := s.fab.partners.find? fun p => p.serial = serial

/-- The entry of the oldest LAST_SEEN among those that a test selects. -/
def oldest (s : State) (sel : Partner → Bool) : Option Partner :=
  (s.fab.partners.filter sel).foldl (fun acc p => match acc with
    | none => some p
    | some q => if p.lastSeen < q.lastSeen then some p else some q) none

/-- Make room for a new partner: a free entry, or the one that may be taken. -/
def partnerRoom (s : State) (sel : Partner → Bool) : Option State :=
  if s.fab.partners.length < 4096 then some s
  else (s.oldest sel).map fun o => s.modFab fun f => { f with partners := f.partners.filter fun p => p.serial ≠ o.serial }

/-- Put a changed or new entry; a change of its HEALTH is reported, one to LOST acts. -/
def putPartner (s : State) (x : Partner) : State :=
  let old := s.findPartner x.serial
  let s1 := match old with
    | some _ => s.modPartner x.serial fun _ => x
    | none => s.modFab fun f => { f with partners := f.partners ++ [x] }
  if (old.map (·.health)).getD 0 = x.health then s1
  else if x.health = hLOST then s1.moduleLost x.num x.serial
  else s1.reportMgr 1 x.serial x.health

/-! HELLO (R396, R411) -/

/-- House position that near port p of position a leads to (R396). -/
def wiredTo (a p : Nat) : Nat := (a + 1 + p / 2) % 9

/-- The hello this module sends on a port. -/
def myHello (s : State) (p : Nat) : Hello := {
  serial := s.serial, num := s.fab.num, pos := s.housePos.getD 0xFF, feed := s.fab.feedId
  role := if s.fab.slotId = 8 ∧ s.fab.taken.isNone then 1 else 0, health := s.devState, t := s.nowAt (96 + p), port := p
  stepping := 0x21, taken := s.fab.taken.isSome, aligned := s.aligned }

/-- A hello's 32 bytes (Table 11.11). -/
def helloBytes (h : Hello) : List Byte :=
  leBytes 8 h.serial ++ leBytes 4 ((h.num.map fun n => n + 2 ^ 31).getD 0) ++ leBytes 1 h.pos ++ leBytes 1 h.feed ++ leBytes 1 h.role
    ++ leBytes 1 h.health ++ leBytes 8 h.t ++ leBytes 1 h.port ++ leBytes 1 h.stepping
    ++ leBytes 1 ((if h.taken then 1 else 0) + if h.aligned then 2 else 0) ++ List.replicate 5 0#8

/-- A hello sets the fields it carries in its sender's entry (R413); the port no longer hears another partner. -/
def helloPartner (s : State) (p : Nat) (h : Hello) : State :=
  let bit := 2 ^ p
  let s0 := s.modFab fun f => { f with partners := f.partners.map fun x =>
    if x.serial ≠ h.serial ∧ x.ports.testBit p then { x with ports := x.ports - bit } else x }
  let room := if (s0.findPartner h.serial).isSome then some s0 else s0.partnerRoom fun x => x.announced && !x.nearHello
  match room with
  | none => s0
  | some t =>
    let old := (t.findPartner h.serial).getD { serial := h.serial }
    t.putPartner { old with
      num := h.num, pos := h.pos, feed := h.feed, role := h.role, health := h.health, nearHello := true
      lastSeen := max old.lastSeen t.now, ports := old.ports ||| bit }

/-- Another module answers to this one's number: its contexts end with STATUS 3, and it gives its number up (14 Table 14.8). -/
def displaced (s : State) : State :=
  let s1 := s.openLaunches.foldl (fun t x => t.finishLaunch x.1 x.2 csRESET) s
  let s2 := (List.range 16).foldl (fun t c => t.modCtx c fun x => { x with ended := true }) s1
  (s2.reportMgr 3 s.serial 0).modFab fun f => { f with num := none }

end State

def effHello (p : Nat) (h : Hello) (s : State) : State :=
  if !s.portUp p then s
  else
    let was := s.parentAligned
    let s1 := s.modPort p fun q => { q with hello := some (h, s.now) }
    let mis := p < 16 && s.fab.slotId ≤ 8 && !h.taken && h.pos ≠ State.wiredTo s.fab.slotId p
    let s2 := (s1.setRegBits (rFAB_PORT p) 23 4 (if h.pos ≤ 8 then h.pos else 15)).setRegBit (rFAB_PORT p) 22 mis
    let s3 := s2.helloPartner p h
    let s4 := if s3.aligned && was && !s3.parentAligned then s3.holdover else s3
    if h.num.isSome ∧ h.num = s4.fab.num ∧ h.serial ≠ s4.serial ∧ s4.fab.taken.isNone then s4.displaced else s4

/-- Every port in UP sends a hello, link-local (R411). -/
def effHelloSend (p : Nat) (s : State) : State :=
  if s.portUp p then
    s.sendOn p { op := opMGMT, isLocal := true, src := s.fab.num.getD 0, arg := 1, data := State.helloBytes (s.myHello p) }
  else s

/-- No hello for 5 × HELLO_US, or the port has left UP (R411, R414). -/
def effNeighbourLost (p : Nat) (s : State) : State :=
  match (s.port p).hello with
  | none => s
  | some (h, t) =>
    if s.portUp p ∧ s.now < t + 5 * s.helloNs then s
    else
      let was := s.parentAligned
      let s1 := (s.modPort p fun q => { q with hello := none }).modPartner h.serial fun x =>
        { x with ports := if x.ports.testBit p then x.ports - 2 ^ p else x.ports }
      let s2 := (s1.setRegBits (rFAB_PORT p) 23 4 15).setRegBit (rFAB_PORT p) 22 false
      if s2.aligned && was && !s2.parentAligned then s2.holdover else s2

/-- No port hears the partner, and no announcement has updated it within 5 × HELLO_US (R414). -/
def effPartnerLost (i : Nat) (s : State) : State :=
  match s.fab.partners[i]? with
  | none => s
  | some x =>
    if !x.nearHello ∨ x.ports ≠ 0 ∨ x.health = hLOST ∨ (x.announced ∧ s.now < x.annT + 5 * s.helloNs) then s
    else s.putPartner { x with health := hLOST }

/-! JOIN and the manager's messages (R412, R398) -/

/-- JOIN: once on entry to READY and every second until ASSIGN is accepted; on every far port while the manager is unknown. -/
def effJoinSend (s : State) : State :=
  if s.fab.assigned ∨ !s.working then s
  else
    let ups := (List.range 32).filter fun p => s.portState p = psUP
    let mask := leBytes 4 ((ups.map fun p => 2 ^ p).sum)
    match s.fab.manager with
    | some (_, m) =>
      let k : Packet := { op := opMGMT, dst := m, arg := 2 }
      s.request .mgmt { k with data := State.helloBytes (s.myHello ((s.routePort k).getD 0)) ++ mask }
    | none => (ups.filter (16 ≤ ·)).foldl (fun t p =>
        let tag := t.fab.nextTag
        let k : Packet := {
          op := opMGMT, isLocal := true, tag := tag, src := t.fab.num.getD 0, arg := 2
          data := State.helloBytes (t.myHello p) ++ mask }
        (t.modFab fun f => { f with nextTag := (tag + 1) % 65536, reqs := f.reqs ++ [{ tag := tag, who := .mgmt, pkt := k }] }).sendOn p k) s

/-- The serial of a module number, when the partner table holds it. -/
def State.serialOf (s : State) (m : Nat) : Nat := ((s.fab.partners.find? fun x => x.num = some m).map (·.serial)).getD 0

/-- A module number suits this module's position; a hot spare takes none (R394). -/
def State.fitsHouse (t : State) (d : Nat) : Bool :=
  match t.housePos with
  | some 8 => false
  | some a => decide (d % 8 = a)
  | none => true

/-- ASSIGN: in READY with no context, in the position the number asks for, and not for a hot spare (R394, R412). Module 0's time
is the scale itself (16 R555, R557). -/
def effAssign (k : Packet) (s : State) : State :=
  s.mgmt k 3 fun t =>
    let d := fieldLe k.data 0 4 % 2 ^ 18
    if t.devState ≠ stREADY || t.ctxs.any Option.isSome || !t.fitsHouse d then none
    else
      let t1 := t.modFab fun f => { f with num := some d, assigned := true, manager := some (t.serialOf k.src, k.src) }
      some (if d = 0 ∧ !t1.aligned then t1.setAligned else t1, [])

/-- ROUTE: first entry index, the number of masks, and the masks. -/
def effRoute (k : Packet) (s : State) : State :=
  s.mgmt k 4 fun t =>
    let i := fieldLe k.data 0 2
    let n := fieldLe k.data 2 2
    if n = 0 ∨ n > 120 ∨ i + n > 4096 ∨ k.data.length < 4 + 2 * n then none
    else some (t.modFab fun f => { f with
      route := (List.range n).foldl (fun m j => natPut m (i + j) (fieldLe k.data (4 + 2 * j) 2)) f.route }, [])

/-- One announced entry; none when the table has no place for it (R413, R415). Whoever sends one of ROLE 3 is the fabric manager (R412). -/
def State.announce1 (s : State) (src : Nat) (x : Partner) : Option State :=
  let room := if (s.findPartner x.serial).isSome then some s else s.partnerRoom fun y => y.health = hLOST
  room.map fun t =>
    let old := (t.findPartner x.serial).getD { serial := x.serial }
    let t1 := t.putPartner { x with
      nearHello := old.nearHello, ports := old.ports, announced := true, annT := t.now, lastSeen := max old.lastSeen t.now }
    if x.role = 3 then t1.modFab fun f => { f with manager := some (t1.serialOf src, src) } else t1

def effAnnounce (k : Packet) (s : State) : State :=
  let n := k.data.length / 32
  let xs := (List.range n).map fun i => Partner.parse (k.data.drop (32 * i))
  match s.takeMgmt k [5] with
  | none => s
  | some (p, t) =>
    if t.devState = stVESTIBULE ∨ n = 0 ∨ n > 8 ∨ k.data.length % 32 ≠ 0 then t.mgmtRefuse p k
    else match xs.foldl (fun acc x => acc.bind fun u => u.announce1 k.src x) (some t) with
    | some u => u.respond p k rsOK []
    | none => (t.modFab fun f => { f with noRoom := f.noRoom + 1 }).mgmtRefuse p k

/-- WITHDRAW: announced entries go, or lose SOURCE[1] only while a hello has set SOURCE[0] (R414). -/
def effWithdraw (k : Packet) (s : State) : State :=
  s.mgmt k 6 fun t =>
    let n := k.data.length / 8
    let ser := ((List.range n).map fun i => fieldLe k.data (8 * i) 8).filter (· ≠ 0)
    if ser.isEmpty ∨ ser.length > 30 then none
    else some (t.modFab fun f => { f with
      partners := (f.partners.filter fun x => !(ser.contains x.serial && x.announced && !x.nearHello)).map fun x =>
        if ser.contains x.serial then { x with announced := false } else x }, [])

/-- QUERY: first partner index and count (R412); VESTIBULE answers it (15 R527). -/
def effQuery (k : Packet) (s : State) : State :=
  s.mgmt k 8 (vest := true) fun t =>
    let i := fieldLe k.data 0 2
    let n := fieldLe k.data 2 2
    if n = 0 ∨ n > 127 then none
    else some (t, ((t.fab.partners.drop i).take n).flatMap Partner.bytes)

/-- Types that a command of this model serves (Tables 11.12, 14.7; 19 R628, R635). -/
def mgmtTypes : List Nat := [1, 3, 4, 5, 6, 8, 0x10, 0x11, 0x20, 0x21, 0x22, 0x23, 0x24, 0x25, 0x26]

/-- A message of any other type is refused (R412). -/
def effUnknownMgmt (k : Packet) (s : State) : State :=
  if mgmtTypes.contains (k.arg % 65536) then s
  else match s.takeMgmt k [k.arg % 65536] with
  | none => s
  | some (p, t) => t.mgmtRefuse p k

/-! TAKEOVER (14 R500, R501) -/

def State.mayTakeOver (s : State) (d p : Nat) : Bool :=
  s.fab.slotId = 8 && s.fab.taken.isNone && s.devState = stREADY && !(s.ctxs.any Option.isSome) && d < 2 ^ 18 && d % 8 = p
    && (s.fab.partners.any fun x => x.num = some d && x.health = hLOST)
    && (List.range 16).all fun q => match (s.port q).hello with
      | some (h, _) => h.num.map (· / 8) = some (d / 8)
      | none => true

def effTakeover (q : Req) (s : State) : State :=
  s.critical q 0x105 true fun t args =>
    let d := fieldLe args 0 4
    let p := fieldLe args 4 1
    if args.length ≠ 5 ∨ !t.mayTakeOver d p then refuse t
    else accept (t.modFab fun f => { f with num := some d, taken := some p, assigned := true })

/-! Meanings -/

def execHello (p : Nat) (h : Hello) (_ : W64) (s : State) := run [bFAB] s (s.portOn p (effHello p h s))
def execHelloSend (p : Nat) (s : State) := run [bFAB] s (s.portOn p (effHelloSend p s))
def execNeighbourLost (p : Nat) (s : State) := run [bFAB] s (s.portOn p (effNeighbourLost p s))
def execPartnerLost (i : Nat) (s : State) := run [bFAB] s (s.powered (effPartnerLost i s))
def execJoinSend (s : State) := run [bFAB] s (effJoinSend s)
def execAssign (k : Packet) (s : State) := run [bFAB] s (effAssign k s)
def execRoute (k : Packet) (s : State) := run [bFAB] s (effRoute k s)
def execAnnounce (k : Packet) (s : State) := run [bFAB] s (effAnnounce k s)
def execWithdraw (k : Packet) (s : State) := run [bFAB] s (effWithdraw k s)
def execQuery (k : Packet) (s : State) := run [bFAB] s (effQuery k s)
def execUnknownMgmtMessage (k : Packet) (s : State) := run [bFAB] s (effUnknownMgmt k s)
def execTakeover (q : Req) (s : State) := run (s.critBlocks q 0x105 true [bFAB]) s (effTakeover q s)

end Sys2Proof.Machine
end

