-- ==== Sys2Proof/Machine/Snap.lean ====
section
/-! DEFINITION. Buddy snapshots: the image and its erasure code, the source's placement, and the holder's side (14 R486 to
R495, R499). Messages hold their fields in the order Table 14.7 names them (log 32); readings in log 34. -/

namespace Sys2Proof.Machine

/-! GF(2^8) with polynomial 0x11D and g = 2 (R489) -/

def gfDouble (x : Nat) : Nat := if x < 128 then 2 * x else (2 * x - 256) ^^^ 0x1D
def gfMul : Nat → Nat → Nat → Nat
  | 0, _, _ => 0
  | n + 1, a, b => (if b % 2 = 1 then a else 0) ^^^ gfMul n (gfDouble a) (b / 2)
/-- Product of two bytes. -/
def gf (a b : Nat) : Nat := gfMul 8 a b
def gfPow (a : Nat) : Nat → Nat
  | 0 => 1
  | n + 1 => gf a (gfPow a n)
/-- Inverse of a byte that is not 0: its 254th power. -/
def gfInv (a : Nat) : Nat := gfPow a 254
/-- A block times a byte, and the sum of two blocks. -/
def gfScale (a : Nat) (bs : List Byte) : List Byte := bs.map fun b => BitVec.ofNat 8 (gf a b.toNat)
def xorBytes (a b : List Byte) : List Byte := List.zipWith (fun x y => x ^^^ y) a b

/-- Parity pieces of data pieces of equal length: P, then Q. -/
def parityP (n : Nat) (ds : List (List Byte)) : List Byte := ds.foldl xorBytes (List.replicate n 0#8)
def parityQ (n : Nat) (ds : List (List Byte)) : List Byte := ds.foldr (fun d acc => xorBytes d (gfScale 2 acc)) (List.replicate n 0#8)

/-- Data piece j of an image cut into stripes of k × 4 KiB. -/
def dataPiece (k j : Nat) (img : List Byte) : List Byte :=
  (List.range (img.length / (4096 * k))).flatMap fun i => (img.drop (4096 * (k * i + j))).take 4096

/-- The k + m pieces of an image, padded to whole stripes (R489). -/
def snapPieces (k m : Nat) (img : List Byte) : List (List Byte) :=
  let n := cdiv img.length (4096 * k)
  let full := img ++ List.replicate (4096 * k * n - img.length) 0#8
  let ds := (List.range k).map fun j => dataPiece k j full
  ds ++ [parityP (4096 * n) ds, parityQ (4096 * n) ds].take m

/-- The data pieces from at least k pieces by index; none when they do not suffice. -/
def snapDecode (k : Nat) (ps : List (Nat × List Byte)) : Option (List (List Byte)) :=
  let piece (i : Nat) : Option (List Byte) := mapFind ps i
  let n := ((ps.head?.map fun p => p.2.length)).getD 0
  let have' : List (Nat × List Byte) := (List.range k).filterMap fun i => (piece i).map fun d => (i, d)
  let lost := (List.range k).filter fun i => (piece i).isNone
  let zero := List.replicate n 0#8
  let p' := (piece k).map fun p => have'.foldl (fun a x => xorBytes a x.2) p
  let q' := (piece (k + 1)).map fun q => have'.foldl (fun a x => xorBytes a (gfScale (gfPow 2 x.1) x.2)) q
  let fill (f : Nat → List Byte) : List (List Byte) := (List.range k).map fun i => (piece i).getD (f i)
  match lost, p', q' with
  | [], _, _ => some (fill fun _ => zero)
  | [_], some p, _ => some (fill fun _ => p)
  | [a], none, some q => some (fill fun _ => gfScale (gfInv (gfPow 2 a)) q)
  | [a, b], some p, some q =>
    let x := gfScale (gfInv (gfPow 2 a ^^^ gfPow 2 b)) (xorBytes q (gfScale (gfPow 2 b) p))
    some (fill fun i => if i = a then x else xorBytes p x)
  | _, _, _ => none
where
  mapFind (l : List (Nat × List Byte)) (i : Nat) : Option (List Byte) := (l.find? fun x => x.1 = i).map (·.2)

/-- The image from data pieces: stripe by stripe. -/
def unstripe (ds : List (List Byte)) : List Byte :=
  let n := ((ds.head?.map List.length).getD 0) / 4096
  (List.range n).flatMap fun i => ds.flatMap fun d => (d.drop (4096 * i)).take 4096

/-! The image (R487, R489) -/

/-- A part of the image: physical bytes, context bytes, a wing's ladder entries, LND_CTL of lease index 0. -/
inductive SnapItem where
  | hbm (a n : Nat)
  | va (a n : Nat)
  | ladder (w : Nat)
  | lnd
  deriving DecidableEq, Repr

namespace State

/-- K and M as they act: 1 to 8 and 0 to 2 (log 34). -/
def snapK (s : State) (c : Nat) : Nat := min 8 (max 1 (s.protLe c 0x16 1))
def snapM (s : State) (c : Nat) : Nat := min 2 (s.protLe c 0x17 1)

/-- The device set in the order of Table 14.3: ledger and registry and group table; the arrays that the table's valid
entries name; the rest. -/
def setHead (s : State) (c : Nat) : List SnapItem :=
  let l := s.ledgerOf c
  let x := (s.ctx c).map (·.d)
  [.hbm l 0x110000, .hbm (l + 0x110000) 256, .hbm (l + 0x134000) 4096, .va ((x.map (·.registry)).getD 0) (32 * regEntries),
    .va ((x.map (·.groups)).getD 0) 65536]
def setGroups (s : State) (c : Nat) : List SnapItem :=
  let base := ((s.ctx c).map (·.d.groups)).getD 0
  (List.range 1024).flatMap fun i =>
    let a := base + 64 * i
    let n := s.ctxLe c (a + 8) 4
    if s.ctxLe c (a + 0x12) 2 % 2 = 0 ∨ n > 262144 then []
    else .va (s.ctxLe c a 8) (8 * n) :: (if s.ctxLe c (a + 0x18) 8 = 0 then [] else [.va (s.ctxLe c (a + 0x18) 8) (4 * n)])
def setTail (s : State) (c : Nat) : List SnapItem := [.va (s.polAt c) 128, .ladder 0, .ladder 1, .lnd]
def classTwo (s : State) (c : Nat) : List SnapItem := (s.protRanges c 2 false).map fun x => .va x.1 x.2

def itemBytes (s : State) (c : Nat) : SnapItem → List Byte
  | .hbm a n => s.hbm.read a n
  | .va a n => s.ctxRead c a n
  | .ladder w => (s.rangeEnts c (s.wing w).cur).flatMap fun e => leBytes 16 e.toNat
  | .lnd => leBytes 4 (s.lndOf c).toNat

/-- The whole image before padding. -/
def snapImage (s : State) (c : Nat) : List Byte :=
  (s.setHead c ++ s.setGroups c ++ s.setTail c ++ s.classTwo c).flatMap (s.itemBytes c)

/-- RESOLVED of every entry (R486). -/
def writeResolved (s : State) (c : Nat) : State :=
  (s.protEntries c).foldl (fun t e => t.hbmSet (e + 0x13) 1 (s.resolveClass e)) s

/-! The source (R490 to R495) -/

/-- The context's latest generation. -/
def curSnap (s : State) (c : Nat) : Option Snap := (s.res.snaps.filter fun x => x.ctx = c).getLast?
def modSnap (s : State) (c : Nat) (f : Snap → Snap) : State :=
  match s.curSnap c with
  | none => s
  | some g => s.modRes fun r => { r with snaps := r.snaps.map fun x => if x = g then f x else x }

/-- Requests of a context's snapshot are given up; their late responses are discarded. -/
def dropSnapReqs (s : State) (c : Nat) : State :=
  let mine (w : ReqFor) : Bool := match w with
    | .snapOffer d _ _ => d = c
    | .snapWr d _ => d = c
    | .snapThird d _ => d = c
    | .snapSeal d _ => d = c
    | _ => false
  s.modFab fun f => { f with reqs := f.reqs.filter fun q => !mine q.who }

/-- A snapshot may start: protected, RAS in force, header OPEN or CHECKED, no reshard, and none of the context reading (R484,
R490, R491, R498). -/
def snapFree (s : State) (c : Nat) : Bool :=
  let h := s.stepHdr c
  s.prot c && !s.rasOff && h.valid && (h.phase = phOPEN || h.phase = phCHECKED) && !s.reshardOn c
    && !(s.res.snaps.any fun x => x.ctx = c && x.reading)

/-- A scheduled snapshot is due: the open step's COMMITS calls for one that has not been taken, be its start held (R490,
R491); or the guard's is (R507). -/
def snapDue (s : State) (c : Nat) : Bool :=
  let h := s.stepHdr c
  let every := s.protLe c 0x18 2
  (every ≠ 0 && h.commits % every = 0 && (s.ctx c).bind (·.schedAt) ≠ some h.commits)
    || ((s.ctx c).map (·.guardDue)).getD false

/-- Members of BUDDY_GROUP other than this module in rank order from RANK + 1 (R492). -/
def buddies (s : State) (c : Nat) : List Nat :=
  let ms := s.groupMods c (s.protLe c 0x10 2)
  let rank := (s.readGroup c (s.protLe c 0x10 2)).1.rank
  ((List.range ms.length).filterMap fun i => ms[(rank + 1 + i) % ms.length]?).filter fun m => some m ≠ s.fab.num

def feedOf (s : State) (m : Nat) : Nat := ((s.fab.partners.find? fun x => x.num = some m).map (·.feed)).getD 0xFF
def healthOf (s : State) (m : Nat) : Nat := ((s.fab.partners.find? fun x => x.num = some m).map (·.health)).getD 0

/-- A candidate qualifies: it has refused no offer of the generation (R492, R494); without the feed conditions under R493. -/
def qualifies (s : State) (c : Nat) (g : Snap) (m : Nat) : Bool :=
  let h := s.healthOf m
  let f := s.feedOf m
  (h = stREADY || h = stRUNNING) && !(g.parts.any fun p => p.holder = m) && !g.refused.contains m
    && (g.any || (f ≠ s.fab.feedId && f ≠ 0xFF
      && (g.parts.filter fun p => s.feedOf p.holder = f).length < max (s.snapM c) 1))

/-- The next candidate for the present piece, from a place in the walk. -/
def nextCand (s : State) (c : Nat) (g : Snap) : Option (Nat × Nat) :=
  let bs := s.buddies c
  ((List.range bs.length).filterMap fun i => bs[i]?.map fun m => (i, m)).find? fun x => g.cand ≤ x.1 && s.qualifies c g x.2

/-- Offer the present piece to the next candidate; with none left the feed conditions go and the walk begins again (R493). -/
def placeNext (s : State) (c : Nat) : State :=
  match s.curSnap c with
  | none => s
  | some g =>
    match g.pieces[g.parts.length]? with
    | none => s
    | some p =>
      let (g1, x) := match s.nextCand c g with
        | some x => (g, some x)
        | none => if g.any then (g, none) else
          let g1 := { g with any := true, cand := 0 }
          (g1, s.nextCand c g1)
      match x with
      | none => s.modSnap c fun _ => g1
      | some (i, m) =>
        (s.modSnap c fun _ => { g1 with cand := i + 1 }).request (.snapOffer c g.parts.length m) {
          op := opMGMT, dst := m, arg := 0x20
          data := leBytes 8 s.serial ++ leBytes 4 (s.fab.num.getD 0) ++ leBytes 1 s.fab.feedId ++ leBytes 4 g.gen
            ++ leBytes 1 g.parts.length ++ leBytes 8 p.length }

/-- Start a generation: the one after the newest whole one, or the same again (R486, R489, R494). -/
def startSnap (s : State) (c : Nat) (risk : Bool) : State :=
  let s1 := (s.dropSnapReqs c).writeResolved c
  let g : Snap := {
    ctx := c, gen := (s.protLe c 0x40 4 + 1) % 2 ^ 32, commits := (s.stepHdr c).commits, risk := risk
    guards := ((s.ctx c).map (·.guardDue)).getD false
    pieces := snapPieces (s.snapK c) (s.snapM c) (s1.snapImage c) }
  let s2 := s1.modRes fun r => { r with
    snaps := (r.snaps.filter fun x => x.ctx ≠ c || x.whole) ++ [g]
    due := if risk then r.due.filter (· ≠ c) else r.due }
  let s3 := if risk then s2 else s2.modCtx c fun x => { x with schedAt := some (s.stepHdr c).commits }
  (s3.bump fmSTEWARD 0 2 1).placeNext c

def modPart (s : State) (c idx : Nat) (f : SnapPart → SnapPart) : State :=
  s.modSnap c fun g => { g with parts := g.parts.map fun p => if p.idx = idx then f p else p }
def snapPart (s : State) (c idx : Nat) : Option SnapPart := (s.curSnap c).bind fun g => g.parts.find? fun p => p.idx = idx

/-- WRITEs of at most 4 KiB of a piece to a global address. -/
def sendPiece (s : State) (who : ReqFor) (ga : Nat) (p : List Byte) : State :=
  (List.range (cdiv p.length 4096)).foldl (fun t i =>
    let bs := (p.drop (4096 * i)).take 4096
    t.request who { op := opWRITE, dst := ga / 2 ^ 44 % 2 ^ 18, addr := ga + 4096 * i, arg := bs.length, data := bs }) s

/-- A holder has taken the present piece at an offset: the piece is written there; a co-fed one is marked, and copied to the
third location (R493). -/
def offered (s : State) (c m off : Nat) : State :=
  match s.curSnap c with
  | none => s
  | some g =>
    let idx := g.parts.length
    match g.pieces[idx]? with
    | none => s
    | some p =>
      let n := cdiv p.length 4096
      let third := s.protLe c 0x20 8
      let copy := g.any && third ≠ 0
      let part : SnapPart := { idx := idx, holder := m, off := off, cofed := g.any, left := n, thirdLeft := if copy then n else 0 }
      let s1 := s.modSnap c fun g => { g with parts := g.parts ++ [part], cand := if g.any then 0 else g.cand }
      let s2 := if g.any then (s1.postEvent c evCOFED).regCount rSTW_RISK 0 8 1 else s1
      let s3 := s2.sendPiece (.snapWr c idx) (s.winAddr c m (s.protLe c 0 8 + off)) p
      let s4 := if copy then s3.sendPiece (.snapThird c idx) (third + idx * p.length) p else s3
      s4.placeNext c

/-- At least K pieces are sealed and count: the generation is whole (R495, R497). -/
def snapWhole (s : State) (c : Nat) : State :=
  match s.curSnap c with
  | none => s
  | some g =>
    if g.whole ∨ (g.parts.filter fun p => p.sealed && (!p.cofed || p.third)).length < s.snapK c then s
    else
      let s1 := (s.hbmSet (s.protAt c + 0x40) 4 g.gen).hbmSet (s.protAt c + 0x38) 8 g.commits
      let s2 := (s1.modRes fun r => { r with snaps := (r.snaps.filter fun x => x.ctx ≠ c || x = g).map fun x =>
        if x = g then { x with whole := true } else x }).bump fmSTEWARD 0 3 1
      if g.risk then (s2.postEvent c evSECURED).regCount rSTW_RISK 8 8 1 else s2

/-- The piece's last byte has landed: it is sealed with its SHA-256 (R495). -/
def sendSeal (s : State) (c : Nat) (g : Snap) (p : SnapPart) : State :=
  s.request (.snapSeal c p.idx) {
    op := opMGMT, dst := p.holder, arg := 0x21
    data := leBytes 4 g.gen ++ leBytes 1 p.idx ++ leBytes 8 g.commits ++ leBytes 1 (if p.cofed then 1 else 0)
      ++ sha256 (g.pieces.getD p.idx []) }

/-- A write of a piece is acknowledged. -/
def pieceWritten (s : State) (c idx : Nat) : State :=
  match s.curSnap c, s.snapPart c idx with
  | some g, some p =>
    if p.left = 0 then s
    else
      let s1 := s.modPart c idx fun x => { x with left := x.left - 1 }
      if p.left = 1 then s1.sendSeal c g p else s1
  | _, _ => s

/-- A write of a piece's copy at the third location is acknowledged. -/
def thirdWritten (s : State) (c idx : Nat) : State :=
  match s.snapPart c idx with
  | some p =>
    if p.thirdLeft = 0 then s
    else (s.modPart c idx fun x => { x with thirdLeft := x.thirdLeft - 1, third := decide (x.thirdLeft = 1) }).snapWhole c
  | none => s

/-- The holder has accepted a piece's seal. -/
def pieceSealed (s : State) (c idx : Nat) : State := (s.modPart c idx fun x => { x with sealed := true }).snapWhole c

/-! The holder (R494, R495, R499) -/

/-- The protected context whose BUDDY_GROUP holds a source (log 34). -/
def buddyCtx (s : State) (src : Nat) : Option Nat :=
  (List.range 16).find? fun c => s.prot c && ((s.groupMods c (s.protLe c 0x10 2)).contains src)
def anyProt (s : State) : Bool := (List.range 16).any s.prot

/-- The lowest place, a multiple of 4 KiB, that a piece fits in beside others (log 34). -/
def firstFit (area n : Nat) (held : List HeldPiece) : Option Nat :=
  let ends := 0 :: (held.map fun h => (h.off + h.size + 4095) / 4096 * 4096)
  let ok (a : Nat) : Bool := decide (a + n ≤ area) && held.all fun h => decide (h.off + h.size ≤ a ∨ a + n ≤ h.off)
  ((ends.filter ok).foldl (fun m a => match m with
    | none => some a
    | some b => some (min a b)) none)

end State

/-! Effects -/

def effSnapshotStart (c : Nat) (risk : Bool) (s : State) : State :=
  if s.snapFree c && (if risk then s.res.due.contains c else s.snapDue c) then s.startSnap c risk else s

/-- The snapshot's reads have finished: COMMIT is no longer held by it, nor by the guard when it began after CHECK (R490, R507). -/
def effSnapReadsDone (c : Nat) (s : State) : State :=
  match s.curSnap c with
  | some g =>
    if !g.reading then s
    else
      let s1 := s.modSnap c fun g => { g with reading := false }
      if g.guards then s1.modCtx c fun x => { x with guardDue := false } else s1
  | none => s

def effSnapOffer (k : Packet) (s : State) : State :=
  s.mgmt k 0x20 fun t =>
    let m := fieldLe k.data 8 4 % 2 ^ 18
    let gen := fieldLe k.data 13 4
    let idx := fieldLe k.data 17 1
    let n := fieldLe k.data 18 8
    match t.buddyCtx m with
    | none => none
    | some c =>
      let keep (h : HeldPiece) : Bool := !(h.ctx = c && h.src = m && h.gen % 2 = gen % 2)
      let rest := t.res.held.filter keep
      match State.firstFit (t.protLe c 8 8) n (rest.filter fun h => h.ctx = c) with
      | none => none
      | some off =>
        some (t.modRes fun r => { r with held := rest ++ [{ ctx := c, src := m, gen := gen, idx := idx, size := n, off := off }] },
          leBytes 8 off)

def effSnapSeal (k : Packet) (s : State) : State :=
  s.mgmt k 0x21 fun t =>
    let gen := fieldLe k.data 0 4
    let idx := fieldLe k.data 4 1
    let hit (h : HeldPiece) : Bool := h.src = k.src && h.gen = gen && h.idx = idx
    let close (h : HeldPiece) : HeldPiece :=
      if hit h then { h with sealed := some (fieldLe k.data 5 8, fieldLe k.data 13 1 % 2 = 1, (k.data.drop 14).take 32) } else h
    if !t.anyProt ∨ !(t.res.held.any hit) then none
    else some (t.modRes fun r => { r with held := r.held.map close }, [])

/-- One sealed piece as SNAP_LOCATE lists it. -/
def HeldPiece.bytes (h : HeldPiece) : List Byte := match h.sealed with
  | some (cm, _, sha) => leBytes 4 h.gen ++ leBytes 1 h.idx ++ leBytes 8 cm ++ leBytes 8 h.off ++ sha
  | none => []

def effSnapLocate (k : Packet) (s : State) : State :=
  s.mgmt k 0x22 fun t =>
    if !t.anyProt then none
    else some (t, (t.res.held.filter fun h => h.src = fieldLe k.data 0 4 % 2 ^ 18).flatMap HeldPiece.bytes)

/-! Meanings -/

def execSnapshotStart (c : Nat) (risk : Bool) (s : State) := run [bSTW, bFAB] s (s.live (effSnapshotStart c risk s))
def execSnapshotReadsDone (c : Nat) (s : State) := run [bSTW] s (s.live (effSnapReadsDone c s))
def execSnapOffer (k : Packet) (s : State) := run [bFAB, bSTW] s (effSnapOffer k s)
def execSnapSeal (k : Packet) (s : State) := run [bFAB, bSTW] s (effSnapSeal k s)
def execSnapLocate (k : Packet) (s : State) := run [bFAB, bSTW] s (effSnapLocate k s)

end Sys2Proof.Machine
end

