-- ==== Sys2Proof/Machine/Resil.lean ====
section
/-! DEFINITION. Restore after a takeover, the dropped micro-batch, digests, the risk monitor, and the collator's timers (10 R377;
12 R453; 14 R496 to R516). Readings in log 34. -/

namespace Sys2Proof.Machine

/-- An entry as a restore ends with it (10 R377). -/
def RegEntry.settled (e : RegEntry) : RegEntry := { e with opened := false, closed := false, start := e.counter, startRefs := e.refs }

/-- A read piece's bytes in order. -/
def RestPiece.bytes (p : RestPiece) : List Byte := (p.got.mergeSort fun a b => a.1 ≤ b.1).flatMap (·.2)

namespace State

/-! Writing an image back (14 Table 14.8 steps 6 and 7) -/

def putItem (s : State) (c : Nat) (i : SnapItem) (bs : List Byte) : State :=
  match i with
  | .hbm a _ => s.hbmWrite a bs
  | .va a _ => s.ctxWrite c a bs
  | .ladder w =>
    let es := (List.range (s.ladSize c)).map fun k => BitVec.ofNat 128 (fieldLe bs (16 * k) 16)
    s.modWing w fun v => { cur := s.putEnts c v.cur es, pend := s.putEnts c v.pend es }
  | .lnd => s.setLnd c (BitVec.ofNat 32 (leNum bs))

def itemSize (s : State) (c : Nat) : SnapItem → Nat
  | .hbm _ n => n
  | .va _ n => n
  | .ladder _ => 16 * s.ladSize c
  | .lnd => 4

/-- Store the items in order from the bytes; what is left of them. -/
def putItems (s : State) (c : Nat) (is : List SnapItem) (bs : List Byte) : State × List Byte :=
  is.foldl (fun (acc : State × List Byte) i =>
    let n := acc.1.itemSize c i
    (acc.1.putItem c i (acc.2.take n), acc.2.drop n)) (s, bs)

/-- Store an image; what its group table and its protection header name is known once they are stored. -/
def putImage (s : State) (c : Nat) (bs : List Byte) : State :=
  let (s1, b1) := s.putItems c (s.setHead c) bs
  let (s2, b2) := s1.putItems c (s1.setGroups c) b1
  let (s3, b3) := s2.putItems c (s2.setTail c) b2
  (s3.putItems c (s3.classTwo c) b3).1

/-! Streams and the data position (10 R377) -/

/-- The draw-ledger copy that matches the data position. -/
def matchCopy (s : State) (c : Nat) : Option Nat :=
  let h := s.stepHdr c
  let pos := match s.openSample c with
    | some q => (s.hbmLe (q + 8) 8 + 2 ^ 64 - s.hbmLe (q + 0x10) 8 * s.hbmLe (q + 0x1E) 2 % 2 ^ 64) % 2 ^ 64
    | none => 0
  [0, 1].find? fun k => s.drawSeq c k ≠ 0 && s.hbmLe (s.drawCopy c k + 8) 8 + 1 = h.step && s.hbmLe (s.drawCopy c k + 0x10) 8 = pos

/-- Entries of a draw-ledger copy: stream ID, REFS, COUNTER. -/
def drawEntries (s : State) (c k : Nat) : List (Nat × Nat × Nat) :=
  let a := s.drawCopy c k
  (List.range (min regEntries (s.hbmLe (a + 0x18) 4))).map fun n =>
    let e := a + 0x40 + 16 * n
    (s.hbmLe e 4, s.hbmLe (e + 4) 2, s.hbmLe (e + 8) 8)

/-- Registry entries brought to a ledger copy, and how many live streams differed. -/
def rewindStreams (led : List (Nat × Nat × Nat)) (es : List RegEntry) : List RegEntry × Nat :=
  let twice (i : Nat) : Bool := (es.filter fun e => e.live && e.id = i).length ≥ 2
  let es1 := es.map fun e => if e.live && e.opened && twice e.id then e.freed else e
  let at' (i : Nat) : Option (Nat × Nat × Nat) := led.find? fun x => x.1 = i
  let skew := (es1.filter fun e => e.live && (match at' e.id with
    | some x => x.2.2 ≠ e.counter
    | none => false)).length
  let stand (e : RegEntry) (x : Nat × Nat × Nat) : RegEntry :=
    { e with id := x.1, live := true, refs := x.2.1, counter := x.2.2 }
  let es2 := es1.map fun e => if e.live then (match at' e.id with
    | some x => stand e x
    | none => e.freed) else e
  let missing := led.filter fun x => !(es2.any fun e => e.live && e.id = x.1)
  let es3 := missing.foldl (fun l x => match l.findIdx? fun e => !e.live with
    | some i => l.set i (stand (l.getD i (RegEntry.ofBytes [])) x)
    | none => l) es2
  (es3.map RegEntry.settled, skew)

/-- Write the whole registry. -/
def putRegistry (s : State) (c : Nat) (es : List RegEntry) : State :=
  es.zipIdx.foldl (fun t (e, i) => if t.regEntry c i = e then t else t.putEntry c i e) s

/-- Bring registry and ledgers to one position; none when no copy matches. -/
def reconcile (s : State) (c : Nat) : Option State :=
  let es := (List.range regEntries).map (s.regEntry c)
  match s.matchCopy c with
  | some k =>
    let (es1, skew) := rewindStreams (s.drawEntries c k) es
    let s1 := s.putRegistry c es1
    some (if skew = 0 then s1 else (s1.postEvent c evRESTORE_SKEW).modCtx c fun x => { x with skewed := x.skewed + skew })
  | none =>
    if (s.stepHdr c).commits = 0 ∧ s.drawSeq c 0 = 0 ∧ s.drawSeq c 1 = 0 then some (s.putRegistry c (es.map fun e => e.freed.settled)) else none

/-! RESTORE (14 R501 to R505, R513) -/

def modRest (s : State) (f : Restoring → Restoring) : State := s.modRes fun r => { r with restore := r.restore.map f }

/-- RESTORE is answered. -/
def restoreEnd (s : State) (x : Restoring) (a : Ans) : State := (s.modRes fun r => { r with restore := none }).answer x.q a

/-- RESTORE fails: its context accepts no launch (R503). -/
def restoreFail (s : State) (x : Restoring) (d : Nat) : State :=
  (s.modCtx x.ctx fun y => { y with noLaunch := true }).restoreEnd x { status := cREFUSED, detail := d }

/-- Bytes of every piece of the context's image, as its group table and entries stand (R489; log 34). -/
def pieceBytes (s : State) (c : Nat) : Nat :=
  let n := ((s.setHead c ++ s.setGroups c ++ s.setTail c ++ s.classTwo c).map (s.itemSize c)).sum
  4096 * cdiv n (4096 * s.snapK c)

/-- K pieces to read: of the newest generation that has K listed pieces of different index, those of the lowest indices. -/
def pickPieces (k : Nat) (found : List Located) : Option (List Located) :=
  let gens := ((found.map (·.gen)).eraseDups.mergeSort fun a b => a ≥ b)
  gens.findSome? fun g =>
    let ls := (List.range 10).filterMap fun i => found.find? fun l => l.gen = g && l.idx = i
    if k ≤ ls.length then some (ls.take k) else none

/-- An image restored from K pieces: its COMMITS are not below the ledger's, a commit in progress has its guard, and registry and ledgers are
reconciled (R377, R503, R507). A boundary that the lost module passed is not passed here. -/
def restoreGen (s : State) (c commits : Nat) (ps : List (Nat × List Byte)) : Option State :=
  match snapDecode (s.snapK c) ps with
  | none => none
  | some ds =>
    let t := (s.putImage c (unstripe ds)).modCtx c fun x => { x with crossed := none }
    let h := t.stepHdr c
    if !h.valid ∨ commits < h.commits ∨ (h.phase = phCOMMITTING ∧ t.protLe c 0x1A 1 % 2 = 0) then none else t.reconcile c

/-- Members to re-fetch from: those of REPLICA_GROUP above this one in rank that are READY or RUNNING. -/
def fetchSources (s : State) (c : Nat) : List Nat :=
  ((membersAbove (s.readGroup c (s.protLe c 0x12 2)).1).map (·.2)).filter fun m => s.healthOf m = stREADY || s.healthOf m = stRUNNING

/-- Modules of the step group but this one: it holds one member per module of the job, which are those that the group table's valid
entries name (13 R458; log 34). -/
def stepPeers (s : State) (c : Nat) : List Nat :=
  (((List.range 1024).flatMap fun i => s.groupMods c (i + 1)).eraseDups).filter fun m => some m ≠ s.fab.num

/-- SAMPLES_USED of the open sample record and of the step record fall by delivered slots (R505). -/
def lowerUsed (s : State) (c n : Nat) : State :=
  let a := s.stepRec c (s.stepHdr c).step
  let s1 := match s.openSample c with
    | some q => s.hbmSet (q + 0x18) 4 (s.hbmLe (q + 0x18) 4 - n)
    | none => s
  s1.hbmSet (a + 0x2C) 4 (s1.hbmLe (a + 0x2C) 4 - n)

/-- DROP_STEP of a context's own record. -/
def setDrop (s : State) (c n : Nat) : State := s.hbmSet (s.protAt c + 0x30) 8 n

/-- DROP_STEP of every module of the replica, then REPLICA_DROP (R505). A window of physical addresses carries the writes; one of the
context's addresses cannot reach the ledger region (08 R285), and REPLICA_DROP sets the word there (log 34). -/
def dropBatch (s : State) (c : Nat) : State :=
  let h := s.stepHdr c
  let own := (s.groupMods c (s.protLe c 0x14 2)).eraseDups
  let at' := s.protAt c + 0x30
  let w := windowBase + 32 * s.protLe c 0x1B 1
  let reach := s.hbmLe (w + 0x10) 1 / 2 % 2 = 0 && decide (s.hbmLe w 8 ≤ at' ∧ at' + 8 ≤ s.hbmLe w 8 + s.hbmLe (w + 8) 8)
  let s1 := s.setDrop c h.step
  let s2 := if h.phase = phCHECKED then s1.lowerUsed c (Config.replicaDelivered c h.step) else s1
  let s3 := if !reach then s2 else (own.filter fun m => some m ≠ s.fab.num).foldl (fun t m =>
    t.request .mgmt { op := opWRITE, dst := m, addr := s.winAddr c m at', arg := 8, data := leBytes 8 h.step }) s2
  (s.stepPeers c).foldl (fun t m => t.mgmtTo m 0x26 (leBytes 2 (s.protLe c 0x14 2) ++ leBytes 8 h.step)) s3

/-- TAKEOVER_DONE to the manager and the step group. -/
def takeoverDone (s : State) (c : Nat) : State :=
  let data := leBytes 4 (s.fab.num.getD 0) ++ leBytes 8 s.serial ++ leBytes 8 s.now
  let dsts := match s.fab.manager with
    | some (_, m) => m :: (s.stepPeers c).filter (· ≠ m)
    | none => s.stepPeers c
  dsts.foldl (fun t m => t.mgmtTo m 0x25 data) s

/-- Step 9, and the horizon's publication at restore (Table 14.8; 10 R356). -/
def restored (s : State) (x : Restoring) : State :=
  let ph := (s.stepHdr x.ctx).phase
  let s1 := if ph = phOPEN ∨ ph = phCHECKED then s.dropBatch x.ctx else s
  let s2 := (s1.takeoverDone x.ctx).modRack x.ctx fun j =>
    { j with cursor := ((s.openSample x.ctx).map fun a => s.hbmLe (a + 8) 8).getD j.cursor }
  (s2.rackPublish x.ctx).restoreEnd x { status := cOK }

/-- An attempt of the re-fetch: READs of every class-1 range from its source; after three, or with no further member, RESTORE fails (step 8;
R513). -/
def fetchRanges (s : State) (x : Restoring) : State :=
  let ps (m : Nat) := s.winPieces x.ctx m (s.protRanges x.ctx 1 false)
  if (ps 0).isEmpty then s.restored x
  else match (s.fetchSources x.ctx)[x.attempt]? with
  | some m =>
    if x.attempt ≥ 3 then s.restoreFail x 2
    else (ps m).foldl (fun t p => t.request (.refetch m p.1) { op := opREAD, dst := m, addr := p.2.1, arg := p.2.2 })
      (s.modRes fun r => { r with restore := some { x with src := some m, left := (ps m).length } })
  | none => s.restoreFail x 2

/-- READs of a located piece through WIN. -/
def readPiece (s : State) (c : Nat) (l : Located) : State × RestPiece :=
  let ps := s.winPieces c l.holder [(s.protLe c 0 8 + l.off, s.pieceBytes c)]
  (ps.foldl (fun t p => t.request (.pieceRd l (p.1 - (s.protLe c 0 8 + l.off))) { op := opREAD, dst := l.holder, addr := p.2.1, arg := p.2.2 }) s,
    { loc := l, left := ps.length })

/-- Read K pieces of the newest generation that has them; with none left RESTORE fails (step 6; R503). -/
def readGen (s : State) (x : Restoring) : State :=
  match pickPieces (s.snapK x.ctx) x.found with
  | none => s.restoreFail x 1
  | some ls =>
    let (t, ps) := ls.foldl (fun (a : State × List RestPiece) l => match x.pieces.find? fun p => p.loc = l with
      | some p => (a.1, a.2 ++ [p])
      | none => let (u, p) := a.1.readPiece x.ctx l; (u, a.2 ++ [p])) (s, [])
    t.modRes fun r => { r with restore := some { x with pieces := ps } }

/-- A member has answered SNAP_LOCATE with the pieces it holds; after the last answer the pieces are read. -/
def located (s : State) (m : Nat) (data : List Byte) : State :=
  match s.res.restore with
  | none => s
  | some x =>
    let ls := (List.range (data.length / 53)).map fun i =>
      let b := data.drop (53 * i)
      ({ holder := m, gen := fieldLe b 0 4, idx := fieldLe b 4 1, commits := fieldLe b 5 8, off := fieldLe b 13 8, sha := (b.drop 21).take 32 } : Located)
    if !x.asked.contains m then s
    else
      let y := { x with asked := x.asked.erase m, found := x.found ++ ls }
      if y.asked.isEmpty then s.readGen y else s.modRest fun _ => y

/-- The K pieces are there: their generation is restored, or the next older one is read; then the class-1 ranges are fetched. -/
def genDone (s : State) (x : Restoring) : State :=
  match x.pieces with
  | [] => s.restoreFail x 1
  | p :: _ => match s.restoreGen x.ctx p.loc.commits (x.pieces.map fun p => (p.loc.idx, p.bytes)) with
    | some t => t.fetchRanges { x with pieces := [] }
    | none => s.readGen { x with pieces := [], found := x.found.filter fun l => l.gen ≠ p.loc.gen }

/-- A located piece cannot be read, or its SHA-256 does not hold: another takes its place. -/
def pieceLost (s : State) (l : Located) : State :=
  match s.res.restore with
  | none => s
  | some x => if x.pieces.any fun p => p.loc = l then
      s.readGen { x with pieces := x.pieces.filter fun p => p.loc ≠ l, found := x.found.erase l } else s

/-- Bytes of a located piece have come; the last ones complete it. -/
def pieceCame (s : State) (l : Located) (off : Nat) (bs : List Byte) : State :=
  match s.res.restore with
  | none => s
  | some x => match x.pieces.find? fun p => p.loc = l with
    | none => s
    | some p =>
      let p' := { p with got := p.got ++ [(off, bs)], left := p.left - 1 }
      let y := { x with pieces := x.pieces.map fun q => if q.loc = l then p' else q }
      let t := s.modRest fun _ => y
      if p'.left ≠ 0 then t
      else if sha256 p'.bytes ≠ l.sha then t.pieceLost l
      else if y.pieces.all fun q => q.left = 0 then t.genDone y
      else t

/-- The re-fetch from a member has failed: the next one is tried (R513). -/
def rangeLost (s : State) (m : Nat) : State :=
  match s.res.restore with
  | none => s
  | some x => if x.src = some m then s.fetchRanges { x with attempt := x.attempt + 1, src := none } else s

/-- Bytes of a class-1 range have come; after the last ones the roots are compared (R513). -/
def rangeCame (s : State) (m va : Nat) (bs : List Byte) : State :=
  match s.res.restore with
  | none => s
  | some x =>
    if x.src ≠ some m then s
    else
      let t := (s.ctxWrite x.ctx va bs).modRest fun y => { y with left := y.left - 1 }
      if x.left > 1 then t
      else if (t.protRanges x.ctx 1 true).isEmpty ∨ t.rootNow x.ctx = Config.sourceRoot m x.ctx (t.stepHdr x.ctx).commits then t.restored x
      else t.rangeLost m

/-- RESTORE begins: SNAP_LOCATE to every other member of BUDDY_GROUP (step 6). -/
def restoreStart (s : State) (q : Req) : State :=
  let c := q.arg 0
  let ms := (s.groupMods c (s.protLe c 0x10 2)).eraseDups.filter fun m => some m ≠ s.fab.num
  let x : Restoring := { q := q, ctx := c, asked := ms }
  if ms.isEmpty then s.restoreFail x 1
  else ms.foldl (fun t m => t.request (.locate m) { op := opMGMT, dst := m, arg := 0x22, data := leBytes 4 (s.fab.num.getD 0) })
    (s.modRes fun r => { r with restore := some x })

/-! The risk monitor (14 R496, R497) -/

/-- Values at which an input reaches level 2, 4 and 6 (Table 14.4, codes 0 to 6). -/
def riskSteps : List (List Nat) :=
  [[10, 100, 1000], [100, 1000, 10000], [5, 10, 15], [2, 8, 32], [1, 4, 16], [10, 50, 100], [1, 8, 64]]

/-- Contribution of a measure. -/
def contribOf (code m : Nat) : Nat := 2 * ((riskSteps.getD code []).filter fun t => t ≤ m).length

/-- Holders of the newest whole generation of some context are LOST (R495). -/
def holderLoss (s : State) : Bool :=
  s.res.snaps.any fun g => g.whole && g.parts.any fun p => s.healthOf p.holder = hLOST

def decayNs (s : State) : Nat := (let v := s.regBits rSTW_RISK_CTL 12 8; if v = 0 then 10 else v) * 10 ^ 9
/-- SECURE_LEVEL as it acts: 0 as 4, 8 to 15 never. -/
def secureLevel (s : State) : Nat := let v := s.regBits rSTW_RISK_CTL 28 4; if v = 0 then 4 else v

/-- Events of an input over the last 60 s, by what they name. -/
def riskRecent (s : State) (code : Nat) : List Nat :=
  (s.res.risk.filter fun x => x.1 = code && decide (s.now < x.2.2 + 60 * 10 ^ 9)).map (·.2.1)

/-- Measures of codes 0 to 5: events a minute of the worst stack or SRAM; stretch events a second; the rise in °C; events a minute; the
mean share in per cent of rooms with INV-in-step over the last 16 steps (Table 14.4). -/
def riskMeasures (s : State) (rise : Nat) : List Nat :=
  let ecc := s.riskRecent 0
  let share := (s.res.storms.map fun x => if x.2 = 0 then (0 : Rat) else (x.1 : Rat) * 100 / x.2).sum / max 1 s.res.storms.length
  [(ecc.map fun k => ecc.count k).foldl max 0, (s.riskRecent 1).length / 60, rise, (s.riskRecent 3).length, (s.riskRecent 4).length,
    share.floor.toNat]

/-- Contributions of the inputs by code; `rise` is the measured rise of the hottest junction over 60 s, in °C. -/
def contribs (s : State) (rise : Nat) : List Nat :=
  let m := s.riskMeasures rise
  let recent := (s.res.complaints.filter fun x => s.now < x.2 + 60 * 10 ^ 9).map (·.1)
  (List.range 6).map (fun i => contribOf i (m.getD i 0))
    ++ [contribOf 6 recent.sum,
        (match s.res.immT with
          | some t => if s.now < t + s.decayNs then 7 else 0
          | none => 0),
        if s.holderLoss then 4 else 0]

/-- The level that contributions make (R496). -/
def levelOf (cs : List Nat) : Nat := min 7 (cs.foldl max 0 + if (cs.filter (2 ≤ ·)).length ≥ 2 then 1 else 0)
/-- Code of the largest contribution, 0 when there is none. -/
def topOf (cs : List Nat) : Nat := (cs.findIdx? fun x => x = cs.foldl max 0).getD 0

/-- A risk-driven snapshot of every protected context is due (R497). -/
def riskStart (s : State) (old new : Nat) : State :=
  let sl := s.secureLevel
  let held := match s.res.snapT with
    | some (t, _) => decide (t + s.regBits rSTW_RISK_CTL 20 8 * 10 ^ 9 ≤ s.now)
    | none => true
  if s.rasOff || decide (sl ≤ 7 ∧ sl ≤ new) = false || !(decide (old < sl) || decide (old < new) || held) then s
  else s.modRes fun r => { r with due := (List.range 16).filter s.prot, snapT := some (s.now, new) }

/-- One evaluation of the risk monitor. -/
def riskTick (s : State) (rise : Nat) : State :=
  let cs := s.contribs rise
  let old := s.regBits rSTW_RISK 29 3
  let rose := (cs.zipIdx).any fun (x, i) => decide (s.res.contrib.getD i 0 < x)
  let want := levelOf cs
  let fall := !rose && decide (want < old ∧ s.res.riseT + s.decayNs ≤ s.now)
  let new := if old ≤ want then want else if fall then old - 1 else old
  let s1 := s.modRes fun r => { r with
    contrib := cs, risk := r.risk.filter fun x => s.now < x.2.2 + 60 * 10 ^ 9, riseT := if rose || fall then s.now else r.riseT
    complaints := r.complaints.filter fun x => s.now < x.2 + 60 * 10 ^ 9 }
  let s2 := ((s1.setRegBits rSTW_RISK 29 3 new).setRegBits rSTW_RISK 26 3 (max new (s.regBits rSTW_RISK 26 3))).setRegBits rSTW_RISK 22 4
    (topOf cs)
  let s3 := if old < s.secureLevel ∧ s.secureLevel ≤ new ∧ s.secureLevel ≤ 7 then s2.msix 1 2 else s2
  let s4 := if new = 7 ∧ old ≠ 7 ∧ !s.rasOff then s3.suspectSelf Config.selfClass else s3
  s4.riskStart old new

/-! The collator's timers (14 R515, R516) -/

/-- SUSPECT messages of a class: one to the manager, one to the suspect unless the class is LOST. -/
def suspectMsgs (cls : Nat) : Nat := if cls = sxLOST then 1 else 2
def sentRecently (s : State) : List Nat := s.res.sentT.filter fun t => s.now < t + 10 ^ 9
/-- The rate limit lets a class's messages go. -/
def mayReport (s : State) (cls : Nat) : Bool := (s.sentRecently).length + suspectMsgs cls ≤ 64

def findSuspect (s : State) (m cls : Nat) : Option Suspect := s.res.suspects.find? fun x => x.mod = m && x.cls = cls
def modSuspect (s : State) (m cls : Nat) (f : Suspect → Suspect) : State :=
  s.modRes fun r => { r with suspects := r.suspects.map fun x => if x.mod = m ∧ x.cls = cls then f x else x }

/-- Send an entry's SUSPECTs; the window is closed. -/
def sendWindow (s : State) (x : Suspect) : State :=
  ((s.modSuspect x.mod x.cls fun y => { y with opened := false, deferred := false }).modRes fun r =>
    { r with sentT := s.sentRecently ++ List.replicate (suspectMsgs x.cls) s.now }).sendSuspect x

end State

/-! Effects -/

/-- RESTORE begins; it is answered when TAKEOVER_DONE is sent, or REFUSED (18 Table 18.5). -/
def effRestore (q : Req) (s : State) : State :=
  s.cmdWait q 8 1 false fun t =>
    if (t.ctx (q.arg 0)).isNone then (t, some { status := cNO_CONTEXT })
    else if !t.prot (q.arg 0) then (t, some { status := cREFUSED, detail := 3 })
    else (t.restoreStart q, none)

/-- A journal becomes abandoned, and its reshard ends (12 R453). -/
def State.abandonResh (t : State) (c pa : Nat) : State :=
  let t1 := t.putJournal pa fun b => patchLe b 8 1 3
  match t1.findResh c with
  | some x => t1.reshEnd x none
  | none => t1

/-- RESHARD_ABANDON (12 R453). -/
def effReshardAbandon (q : Req) (s : State) : State :=
  s.cmd q 9 1 false fun t => t.onCtx q fun _ =>
    match mapGet t.col.reshDir (q.arg 0) with
    | none => (t, { status := cSTATE })
    | some pa =>
      if t.journalState pa ≠ 1 then (t, { status := cSTATE })
      else ((t.abandonResh (q.arg 0) pa).activity, { status := cOK })

/-- SUSPECT is a report; about this module it is a complaint too (R514, R516). -/
def effSuspect (k : Packet) (s : State) : State :=
  s.mgmt k 0x23 fun t =>
    let m := fieldLe k.data 0 4
    let n := fieldLe k.data 8 4
    if !m.testBit 31 then none
    else
      let u := if some (m % 2 ^ 18) = t.fab.num then t.modRes fun r => { r with complaints := r.complaints ++ [(n, t.now)] } else t
      some (u.report (m % 2 ^ 18) (fieldLe k.data 4 1) n, [])

def effTakeoverDone (k : Packet) (s : State) : State := s.mgmt k 0x25 fun t => some (t, [])

/-- The replica of a sender drops its micro-batch of a step: DROP_STEP is set in that replica; when CHECK has acted, SAMPLES_USED falls by
the replica's delivered count (R505), until COMMIT has taken it (13 R463, Table 13.9). -/
def State.dropDelivered (s : State) (c src step : Nat) : State :=
  let h := s.stepHdr c
  let mine (x : List Nat × Nat) : Bool := x.1.contains src
  if !s.prot c ∨ !h.valid then s
  else
    let s0 := if (s.ownReplica c).contains src then s.setDrop c step else s
    if h.step ≠ step ∨ h.phase ≠ phCHECKED then s0
    else
      let del := ((s.ctx c).map (·.delivered)).getD []
      (s0.lowerUsed c ((del.filter mine).map (·.2)).sum).modCtx c fun x => { x with delivered := del.filter fun y => !mine y }

def effReplicaDrop (k : Packet) (s : State) : State :=
  s.mgmt k 0x26 fun t => some ((List.range 16).foldl (fun u c => u.dropDelivered c k.src (fieldLe k.data 2 8)) t, [])

/-- The security block has the root of the open step's digest set (R510); after R512 it takes it again. -/
def effDigestDone (c : Nat) (s : State) : State :=
  if s.digestDue c && ((s.stepHdr c).phase = phOPEN || (s.stepHdr c).phase = phCHECKED) && (((s.ctx c).bind (·.digest)).isNone) then
    s.modCtx c fun x => { x with digest := some (s.rootNow c) }
  else s

def effCollatorWindowClose (m cls : Nat) (s : State) : State :=
  match s.findSuspect m cls with
  | none => s
  | some x =>
    if !x.opened ∨ s.now < x.first + 10 ^ 7 then s
    else if s.mayReport cls then s.sendWindow x
    else (s.modSuspect m cls fun y => { y with opened := false, deferred := true }).regCount rSTW_COLLATE 0 8 1

def effCollatorDeferredSend (m cls : Nat) (s : State) : State :=
  match s.findSuspect m cls with
  | some x => if x.deferred && s.mayReport cls then s.sendWindow x else s
  | none => s

def effCollatorEntryExpiry (m cls : Nat) (s : State) : State :=
  match s.findSuspect m cls with
  | some x =>
    if x.opened || x.deferred || decide (s.now < x.last + 10 ^ 10) then s
    else s.modRes fun r => { r with suspects := r.suspects.filter fun y => !(y.mod = m && y.cls = cls) }
  | none => s

/-! Meanings -/

def execRestore (q : Req) (s : State) := run [bSTW, bFAB] s (effRestore q s)
def execReshardAbandon (q : Req) (s : State) := run [bSTW] s (effReshardAbandon q s)
def execSuspect (k : Packet) (s : State) := run [bFAB, bSTW] s (effSuspect k s)
def execTakeoverDone (k : Packet) (s : State) := run [bFAB] s (effTakeoverDone k s)
def execReplicaDrop (k : Packet) (s : State) := run [bFAB, bSTW] s (effReplicaDrop k s)
def execDigestDone (c : Nat) (s : State) := run [bSTW] s (s.live (effDigestDone c s))
def execRiskTick (rise : Nat) (s : State) := run [bSTW] s (s.live (s.riskTick rise))
def execCollatorWindowClose (m cls : Nat) (s : State) := run [bSTW] s (s.live (effCollatorWindowClose m cls s))
def execCollatorDeferredSend (m cls : Nat) (s : State) := run [bSTW] s (s.live (effCollatorDeferredSend m cls s))
def execCollatorEntryExpiry (m cls : Nat) (s : State) := run [bSTW] s (s.live (effCollatorEntryExpiry m cls s))

end Sys2Proof.Machine
end

