-- ==== Sys2Proof/Machine/Resp.lean ====
section
/-! DEFINITION. What a response does to the request it answers (11 R402, R405 to R407, Table 11.10). -/

namespace Sys2Proof.Machine

/-- The fault of a launch for a status other than OK (Table 11.10). -/
def statusFault (st : Nat) : FaultCode :=
  if st = rsWINDOW ∨ st = rsSPACE ∨ st = rsALIGN then .translation
  else if st = rsECC then .uncorrectable
  else .remoteUnreachable

namespace State

/-- A module that cannot be reached is reported (14 R514). -/
def reportStatus (s : State) (m st : Nat) : State :=
  if st = rsNO_ROUTE ∨ st = rsNOT_READY then s.report m sxUNREACHABLE 1
  else if st = rsLINK_LOST then s.report m sxLINK 1
  else s

/-- A request of an instruction for a global address has failed: its launch ends, and its mover record holds the address, ACCESS[3] and, for
a translation fault, cause REMOTE_WINDOW (R403, R407; 08 Tables 8.10, 8.11). -/
def instFailed (s : State) (r uid m st ga : Nat) (wr : Bool) : State :=
  match s.findInfl r uid with
  | none => s
  | some i =>
    let f : FaultCode := statusFault st
    let t := match i.mv with
      | some mv => s.moverRecord r i mv { mv.waitF s r i with
          va := ga, glob := true, access := if wr then 2 else 1, cause := if f = FaultCode.translation then cREMOTE else 0 }
      | none => s
    (t.reportStatus m st).roomFault r i.pc f

/-- Source bytes of a mover's unit have come. -/
def movRead (s : State) (r uid a n : Nat) (k : Packet) : State :=
  match (s.findInfl r uid).bind (·.mv) with
  | none => s
  | some m =>
    if !m.asked.contains a then s
    else
      let m' := { m with staged := m.staged.stage a (k.data.take n), asked := m.asked.erase a }
      let s1 := s.modInfl r uid fun i => { i with mv := some m' }
      if m.unit = 3 ∧ m'.asked.isEmpty then s1.colLoad r uid else s1

/-- A fabric write of a mover's unit is acknowledged; of a RACK's slot, the last one completes it. -/
def movWritten (s : State) (r uid g : Nat) : State :=
  (s.modInfl r uid fun i => { i with mv := i.mv.map fun m => { m with asked := m.asked.erase g } }).rackWritten r uid

/-- Bytes of a frame that the steward fills have come. -/
def fillRead (s : State) (wid off : Nat) (data : List Byte) : State :=
  match s.findWait wid with
  | some w => match w.st with
    | .filling frame _ _ => s.hbmWrite (frame + off) data
    | _ => s
  | none => s

/-- A rebuild begins again, from the next member when there is one; responses of its earlier reads come late. -/
def againRebuild (s : State) (c : Nat) : State :=
  match (s.ctx c).bind (·.rebuild) with
  | none => s
  | some b =>
    let old (w : ReqFor) : Bool := match w with
      | .rebuild d _ => d = c
      | _ => false
    let s1 := s.modFab fun f => { f with reqs := f.reqs.filter fun q => !old q.who }
    match b.more with
    | (m, root) :: more => s1.startRebuild c m root more
    | [] => s1.startRebuild c b.src b.want

/-- Bytes of a rebuild have come; with the last, the root is compared again (14 R511). -/
def rebuilt (s : State) (c va n : Nat) (data : List Byte) : State :=
  match (s.ctx c).bind (·.rebuild) with
  | none => s
  | some b =>
    let s1 := s.ctxWrite c va (data.take n)
    if b.left > 1 then s1.modCtx c fun x => { x with rebuild := some { b with left := b.left - 1 } }
    else
      let root := s1.rootNow c
      if root = b.want then s1.modCtx c fun x => { x with rebuild := none, digest := some root }
      else s1.againRebuild c

/-- A piece behind another module's address has come, or its write is acknowledged (08 R284); a racking write, an open command and a
sample held on its statistics go on at once, the others when their unit comes again. -/
def farAnswered (s : State) (who : FarWho) (ga : Nat) (data : List Byte) : State :=
  let s1 := s.modFar fun l => l.map fun x => if x.who = who ∧ x.ga = ga then { x with data := some data } else x
  match who with
  | .racking c _ _ => s1.rackRetry c
  | .job _ => s1.openAgain
  | .stat c _ _ => (s1.pressRetry c).pressRetry c
  | _ => s1

/-- Another answer to a piece: the launch of the instruction or image ends (11 R407), a reshard ends, a window's request gets that
answer, a racking write stays held to be asked again and a statistics write for good (log 26), an open command fails, and a clip table
does not read (09 R341). -/
def farFailed (s : State) (who : FarWho) (m st ga : Nat) : State :=
  let s1 := (s.farDrop who).reportStatus m st
  let endRoom (r : Nat) : State := s1.roomFault r (s.room r).seqr.pc (statusFault st)
  match who with
  | .fetch r => endRoom r
  | .plan r _ => endRoom r
  | .resume r uid => (s.farDrop who).instFailed r uid m st ga false
  | .ring r uid => (s.farDrop who).instFailed r uid m st ga false
  | .load c sl => s1.launchFault c sl 0 0 (statusFault st).code
  | .resh c _ => match s1.findResh c with
    | some x => s1.reshEnd x (some (statusFault st))
    | none => s1
  | .racking _ _ _ => s1
  | .job _ => s1.openFails
  | .clip _ _ => (s.modFar fun l => l.map fun x => if x.who = who then { x with data := some [] } else x).reportStatus m st
  | .stat _ _ _ => s.reportStatus m st
  | .window a t => match s1.fab.inbox.find? fun x => !x.2.rsp && x.2.src = a && x.2.tag = t with
    | some (p, k) => (s1.modFab fun f => { f with inbox := f.inbox.erase (p, k) }).respond p k st []
    | none => s1

/-- A lost arrival is sent again; another failure is reported and the arrival is not made: it ends a RESHARD (12 R428, R437), and one that
the steward runs arrives again at its next act (log 41). -/
def arrivalFailed (s : State) (w : ReqFor) (k : Packet) (st : Nat) : State :=
  if st = rsLINK_LOST then s.request w { k with dup := false }
  else
    let s1 := s.reportStatus k.dst st
    match w with
    | .arrivalResh c => match s1.findResh c with
      | some x => if x.inst.isNone then s1.modResh c fun y => { y with arrive := 0 } else s1.reshEnd x (some (statusFault st))
      | none => s1
    | _ => s1

/-- What an OK response does. -/
def answered (s : State) (w : ReqFor) (k : Packet) (n : Nat) : State :=
  match w with
  | .moverRd r uid a _ => s.movRead r uid a n k
  | .moverWr r uid g => s.movWritten r uid g
  | .col _ _ => s
  | .rack c g => s.rackAck c g
  | .press c id off => s.pressPiece c id off true (k.data.take n)
  | .far who ga => s.farAnswered who ga (k.data.take n)
  | .arrival c li => s.setArrival c li 2
  | .arrivalResh c => s.modResh c fun y => { y with arrive := 2 }
  | .fill wid off => s.fillRead wid off (k.data.take n)
  | .snapOffer c _ m => s.offered c m (fieldLe k.data 0 8)
  | .snapWr c i => s.pieceWritten c i
  | .snapThird c i => s.thirdWritten c i
  | .snapSeal c i => s.pieceSealed c i
  | .rebuild c va => s.rebuilt c va n k.data
  | .locate m => s.located m k.data
  | .pieceRd l off => s.pieceCame l off (k.data.take n)
  | .refetch m va => s.rangeCame m va (k.data.take n)
  | .mgmt => s
  | .echo t => s.modFab fun f => { f with reqs := f.reqs.map fun q => if q.tag = t then { q with echoOk := true } else q }
  | .timing => s

/-- What any other status does, from a module. A failed read of a rebuild is sent again from its source (log 34). -/
def failed (s : State) (w : ReqFor) (q : Packet) (st : Nat) : State :=
  let m := q.dst
  match w with
  | .far who ga => s.farFailed who m st ga
  | .arrival _ _ => s.arrivalFailed w q st
  | .arrivalResh _ => s.arrivalFailed w q st
  | .moverRd r uid _ _ => s.instFailed r uid m st q.addr false
  | .moverWr r uid _ => s.instFailed r uid m st q.addr true
  | .col r uid => s.instFailed r uid m st q.addr true
  | .rack c g => (s.reportStatus m st).rackAck c g
  | .press c id off => (s.reportStatus m st).pressPiece c id off false []
  | .fill wid _ => (s.reportStatus m st).fillFailed wid
  | .snapOffer c _ _ => ((s.reportStatus m st).modSnap c fun g => { g with refused := m :: g.refused }).placeNext c
  | .snapWr _ _ => s.reportStatus m st
  | .snapThird _ _ => s.reportStatus m st
  | .snapSeal _ _ => s.reportStatus m st
  | .rebuild c _ => (s.reportStatus m st).againRebuild c
  | .locate m => (s.reportStatus m st).located m []
  | .pieceRd l _ => (s.reportStatus m st).pieceLost l
  | .refetch m _ => (s.reportStatus m st).rangeLost m
  | .mgmt => s.reportStatus m st
  | .echo _ => s
  | .timing => s

/-- A response completes the request of its tag; one without a request is discarded and counted (R407). -/
def response (s : State) (k : Packet) : State :=
  if !(k.rsp && s.fab.inbox.any fun x => x.2 = k) then s
  else
    let (p, t) := s.fromInbox k
    match t.fab.reqs.find? fun q => q.tag = k.tag && q.pkt.op = k.op with
    | none => if p < 32 then t.bump fmPORT p 9 1 else t
    | some q =>
      let u := t.modFab fun f => { f with reqs := f.reqs.filter fun x => x.tag ≠ k.tag }
      if k.status = rsOK then u.answered q.who k (if q.pkt.op = opATOMIC then 16 else q.pkt.arg) else u.failed q.who q.pkt k.status

end State

/-! Meanings -/

def execResponse (k : Packet) (s : State) := run [bFAB] s (s.powered (s.response k))

end Sys2Proof.Machine
end

