-- ==== Sys2Proof/Machine/HostIo.lean ====
section
/-! DEFINITION. Commands that read the module's records, NSP, ICMPv6, the I3C sideband, and PCI Express requests (18 R591 to
R598, R606, R611 to R614; 15 R527, R544; 17 R570, R590; 20 R649, R650). -/

namespace Sys2Proof.Machine

namespace State

/-- A response body from an offset of a longer image, with DETAIL 1 when more follows (18 Table 18.5). -/
def bodyFrom (s : State) (img : List Byte) (off : Nat) : State × Ans :=
  (s, { status := cOK, detail := if off + 1968 < img.length then 1 else 0, body := (img.drop off).take 1968 })

/-- What LIFE_READ reads: the newest slot of the lifetime store, 256 KiB, then the audit ring (17 R589; 19 R633). -/
def lifeImage (s : State) : List Byte :=
  let body := match s.lifeNewest with
    | some (_, _, items) => Config.lifeBytes items
    | none => []
  (body ++ List.replicate 262144 0#8).take 262144 ++ s.sec.audit.flatten

/-- The service port and the sideband answer: from BOOT onward, but not while a firmware copy runs (20 R650; 19 R642). -/
def sideband (s : State) : Bool := s.devState ≠ stOFF && !(s.devState = stBOOT && s.sec.imgState = 5)

end State

/-! Commands -/

/-- GROUP_COUNTERS: the five family-10 counters of a group (17 R570). -/
def effGroupCounters (q : Req) (s : State) : State :=
  s.cmd q 0xD 2 true fun t => t.onCtx q fun _ =>
    let g := q.arg 1
    if g ≥ 1024 then (t, { status := cINVALID })
    else (t, { status := cOK, body := (List.range 5).flatMap fun i => leBytes 8 (t.count fmGROUP (q.arg 0 * 1024 + g) i) })

/-- STATE: device state, risk level, STW_TEST_STATUS and the failure summary. -/
def effState (q : Req) (s : State) : State :=
  s.cmd q 0xE 0 true fun t =>
    (t, { status := cOK
          body := leBytes 1 t.devState ++ leBytes 1 (t.regBits rSTW_RISK 29 3) ++ leBytes 6 0 ++ leBytes 4 (t.regLive rSTW_TEST_STATUS).toNat
            ++ leBytes 4 0 ++ t.failureSummary })

def effLifeRead (q : Req) (s : State) : State := s.cmd q 0xF 1 true fun t => t.bodyFrom t.lifeImage (q.arg 0)

/-- SIG_EXPORT: the array is formed at offset 0 and stays until then (15 R544). -/
def effSigExport (q : Req) (s : State) : State :=
  s.cmd q 0x10 1 true fun t =>
    let u := if q.arg 0 = 0 then t.modTst fun x => { x with sigArray := cborHead 4 x.sigs.length ++ x.sigs.flatten } else t
    u.bodyFrom u.tst.sigArray (q.arg 0)

/-- The opcodes of the command tables (18 Table 18.5; 19 Tables 19.4, 19.9). -/
def knownOps : List Nat :=
  (List.range 16).map (· + 1) ++ (List.range 9).map (· + 0x101) ++ [0x201, 0x202, 0x203, 0x204, 0x205, 0x210, 0x211]

/-- A command of any other opcode is answered INVALID (R606). -/
def effUnknownCommand (q : Req) (s : State) : State :=
  if s.devState = stOFF ∨ knownOps.contains q.opcode then s
  else match s.takeReq q with
  | none => s
  | some t => t.answer q { status := cINVALID }

/-! The service port (R611 to R613) -/

end Sys2Proof.Machine

/-- A datagram's header is a request part's: signature, version, type, reserved fields, and a part inside its request (R612). -/
def Sys2Proof.NspDatagram.sound (d : Sys2Proof.NspDatagram) : Bool :=
  let f := Sys2Proof.Machine.fieldLe d.bytes
  let n := f 0x14 2
  d.bytes.length = 24 + n && n ≤ 1428 && f 0 2 = 0x534E && f 2 1 = 1 && f 3 1 = 0 && f 0xA 2 = 0 && f 0x16 2 = 0
    && f 0xC 4 + n ≤ f 0x10 4

namespace Sys2Proof.Machine

/-- A request's parts cover its whole length: its bytes. -/
def NspPart.whole (x : NspPart) : Option (List Byte) :=
  let m := x.parts.foldl (fun (m : Mem) p => m.stage p.1 p.2) []
  if m.length = x.total then some (m.map (·.2)) else none

/-- A request of this source and number is whole and waits for its execution. -/
def State.nspWaits (s : State) (d : NspDatagram) : Bool :=
  s.host.ready.any fun q => match q.path with
    | .nsp src i => decide (src = d.src ∧ i = fieldLe d.bytes 4 4)
    | _ => false

/-- A request part: kept requests are answered again, the others collected; a whole request waits for its execution. -/
def effNspDatagram (d : NspDatagram) (s : State) : State :=
  let f := fieldLe d.bytes
  let id := f 4 4
  let off := f 0xC 4
  let total := f 0x10 4
  let h := s.host
  if !s.sideband || !d.sound || s.nspWaits d then s
  else match h.kept.find? fun x => x.1 = d.src ∧ x.2.1 = id with
  | some (_, _, op, bs) => s.emit (.nsp d.src id op bs)
  | none =>
    let old := h.parts.find? fun x => x.src = d.src ∧ x.reqId = id
    let rest := h.parts.filter fun x => !(x.src = d.src && x.reqId = id)
    let x := old.getD { src := d.src, reqId := id, opcode := f 8 2, total := total }
    let y : NspPart := { x with parts := x.parts ++ [(off, d.bytes.drop 24)] }
    if x.total ≠ total then s
    else match y.whole with
    | some bs => { s with host := { h with parts := rest, ready := h.ready ++ [Req.ofBytes (.nsp d.src id) bs 0] } }
    | none =>
      if old.isNone ∧ h.parts.length ≥ 8 then s else { s with host := { h with parts := rest ++ [y] } }

/-- A request that stays incomplete for 2 s is discarded. -/
def effNspTimeout (src id : Nat) (s : State) : State :=
  { s with host := { s.host with parts := s.host.parts.filter fun x => !(x.src = src && x.reqId = id) } }

/-- Echo and neighbour solicitations are answered (R611; types of RFC 4443 and RFC 4861). -/
def effIcmp (m : Icmp) (s : State) : State :=
  if !s.sideband ∨ !m.mine then s
  else if m.kind = 128 then s.emit (.icmp m.src 129 m.data)
  else if m.kind = 135 then s.emit (.icmp m.src 136 m.data)
  else s

/-! The I3C sideband (R614) -/

def effEntdaa (addr : Nat) (s : State) : State :=
  if s.sideband then { s with host := { s.host with i3cAddr := some addr } } else s

def effSetEid (eid : Nat) (s : State) : State :=
  if s.sideband && s.host.i3cAddr.isSome then { s with host := { s.host with eid := some eid } } else s

/-- Row of the device-state sensor in Table 18.9. -/
abbrev stateSensor : Nat := 6

/-- PLDM base messages and the sensors of Table 18.9; in VESTIBULE the device-state sensor reports VCAUSE. -/
def effPldm (p : Pldm) (s : State) : State :=
  if !s.sideband ∨ s.host.eid.isNone then s
  else if p.ty = 0 then s.emit (.pldm 0 p.cmd p.sensor (Config.pldmBase 0 p.cmd))
  else if p.ty ≠ 2 ∨ p.sensor > stateSensor then s
  else if p.sensor = stateSensor then
    s.emit (.pldm 2 p.cmd p.sensor (if s.devState = stVESTIBULE then s.regBits rSTW_TEST_STATUS 24 4 else s.devState))
  else s.emit (.pldm 2 p.cmd p.sensor p.reading)

/-! PF0 BAR2 (R596 to R600) -/

namespace State

/-- Device address of BAR2 offset 0 (R596). -/
def barOrigin (s : State) : Nat := if s.host.bar2Gib = 1024 then 0 else s.regBits rSTW_BAR2_ORIGIN 0 10 * 2 ^ 30
/-- A control-region byte that BAR2 reaches, or a byte of another region (R597). -/
def barOpen (a : Nat) : Bool :=
  !inControl a || inRange a launchBase 0x40000 || inRange a windowBase 0x2000

/-- The SEQ words that a write of bytes covers whole: context, slot, value (R600). -/
def seqWords (a : Nat) (bs : List Byte) : List (Nat × Nat × Nat) :=
  (List.range 1024).filterMap fun i =>
    let w := slotAddr (i / 64) (i % 64) + 0xF8
    if a ≤ w ∧ w + 8 ≤ a + bs.length then some (i / 64, i % 64, fieldLe bs (w - a) 8) else none

def barWrite (s : State) (a : Nat) (bs : List Byte) : State :=
  let s1 := { s with hbm := bs.zipIdx.foldl (fun m (b, i) => if barOpen (a + i) then m.set (a + i) b else m) s.hbm }
  (seqWords a bs).foldl (fun t x => t.seqWritten x.1 x.2.1 x.2.2) s1

def barRead (s : State) (a n : Nat) : List Byte := (List.range n).map fun i => if barOpen (a + i) then s.hbm.get (a + i) else 0#8

end State

def effBar2 (off len : Nat) (data : Option (List Byte)) (ecc : Bool) (s : State) : State :=
  let a := s.barOrigin + off
  let st := s.devState
  if st = stOFF then s
  else if st = stBOOT ∨ st = stTEST ∨ st = stVESTIBULE ∨ off + len > s.host.bar2Gib * 2 ^ 30 ∨ a + len > hbmEnd then s.emit .pcieUr
  else match data with
  | some bs => s.barWrite a (bs.take len)
  | none =>
    if ecc then (s.uncorrectable { place := .hbm a, flips := [0, 8] }).emit .pcieCa
    else s.emit (.pcieData (s.barRead a len))

/-! Configuration and function-level reset (R591, R592, R594; 20 R649) -/

/-- Retry until TEST begins; then words of configuration space. Bit 2 of word 0x04 of PF0 is Bus Master Enable, bits [13:8] of
the resizable-BAR control word the size as a power of two of MiB (PCIe base specification; log 21). -/
def effConfig (pf off : Nat) (data : Option W32) (s : State) : State :=
  if s.devState = stOFF ∨ s.pwr.perst then s
  else if s.devState = stBOOT then s.emit .pcieRrs
  else match data with
  | none =>
    let w := Config.cfgWord pf off
    s.emit (.regData 3 (if pf = 0 ∧ off = 4 then putBit w 2 s.host.bme else w))
  | some v =>
    if pf = 0 ∧ off = 4 then
      if v.getLsbD 2 then effBmeSet s else { s with host := { s.host with bme := false } }
    else if pf = 0 ∧ off = Config.rebarOff then
      let n := v.toNat / 2 ^ 8 % 64
      if 10 ≤ n ∧ n ≤ 20 then { s with host := { s.host with bar2Gib := 2 ^ (n - 10) } } else s
    else s

/-- PF0: a context reset of every context; the steward grants the rooms again (R592). -/
def effFlrPf0 (rooms : List (Nat × List Nat)) (s : State) : State :=
  if s.working then
    (List.range 16).foldl (fun t c => t.resetCtx c (((rooms.find? fun x => x.1 = c).map (·.2)).getD [])) s
  else s

/-- PF1: the fault-ring setting goes. Commands not yet executing would be discarded; in the one queue every earlier command has
executed (log 1). -/
def effFlrPf1 (s : State) : State :=
  if s.devState = stOFF then s else { s with host := { s.host with ring := none } }

/-! Meanings -/

def execGroupCounters (q : Req) (s : State) := run [bSTW, bCOL] s (effGroupCounters q s)
def execState (q : Req) (s : State) := run [bSTW] s (effState q s)
def execLifeRead (q : Req) (s : State) := run [bSTW] s (effLifeRead q s)
def execSigExport (q : Req) (s : State) := run [bSTW] s (effSigExport q s)
def execUnknownCommand (q : Req) (s : State) := run [bSTW] s (effUnknownCommand q s)
def execNspDatagram (d : NspDatagram) (s : State) := run [bSTW] s (effNspDatagram d s)
def execNspReassemblyTimeout (src reqId : Nat) (s : State) := run [bSTW] s (effNspTimeout src reqId s)
def execIcmpv6Message (m : Icmp) (s : State) := run [bSTW] s (effIcmp m s)
def execI3cEntdaa (addr : Nat) (s : State) := run [bSTW] s (effEntdaa addr s)
def execMctpSetEndpointId (eid : Nat) (s : State) := run [bSTW] s (effSetEid eid s)
def execPldmRequest (p : Pldm) (s : State) := run [bSTW] s (effPldm p s)
def execBar2Access (off len : Nat) (data : Option (List Byte)) (ecc : Bool) (s : State) := run [bSTW] s (effBar2 off len data ecc s)
def execPcieConfigRequest (pf off : Nat) (data : Option W32) (s : State) := run [bSTW] s (effConfig pf off data s)
def execFlrPf0 (rooms : List (Nat × List Nat)) (s : State) := run [bSTW] s (effFlrPf0 rooms s)
def execFlrPf1 (s : State) := run [bSTW] s (effFlrPf1 s)

end Sys2Proof.Machine
end

