-- ==== Sys2Proof/Machine/Land.lean ====
section
/-! DEFINITION. CVT, HRCLR and FLGRC (04 R122 to R141; 07 R250 to R252, R709). -/

namespace Sys2Proof.Machine

/-- One CVT over all destination rows: memory, flags, counts, errors. -/
def cvtResult (s : State) (r c : Nat) (sv : View) (d : Desc) (mem : Mem) : SegOut :=
  (List.range d.rows).foldl (fun acc row =>
    let o := if convKeeps sv.d d then keepRow sv d (s.convPar r c d row) row acc.mem
      else convSeg d (s.convPar r c d row) row 0 ((List.range d.dim0).map fun i => { v := sv.exact row i }) acc.mem
    { mem := o.mem, flags := acc.flags ||| o.flags, counts := acc.counts ++ o.counts, meas := acc.meas ++ o.meas })
    { mem := mem, flags := 0, counts := [], meas := [] }

/-- A NaN or an invalid block read sets INV (02 Table 2.4). -/
def readInv (v : View) : Bool :=
  (List.range v.d.rows).any fun row => (List.range v.d.dim0).any fun i => (v.exact row i).isNan

/-- The checks of CVT in order (04 R122, R123, Table 4.5; 05 R159; 12 R452). -/
def cvtChecks (t : State) (a : At) (w : TWord) : List (Bool × FaultCode) :=
  let x := t.latch a w.a.toNat
  let d := t.latch a w.b.toNat
  [(!okTok w || !zeroMod w || w.c ≠ 0, .operand), (!okD w.a || !okD w.b, .descriptor),
    (t.reshardOn a.c, .reshardPending), descCheck x, descCheck d, (!x.inPantry || !d.inPantry, .descriptor),
    ((x.dim0, x.dim1, x.dim2, x.dim3) ≠ (d.dim0, d.dim1, d.dim2, d.dim3), .descriptor),
    (d.checkDest.isSome, .descriptor), (w.sel.toNat ≠ d.fmt || !convAllowed x d, .format),
    (t.offRung1 a.c [] x || t.offRung1 a.c [] d, .format)]

/-- A CVT once its destination's hdir place is found: pantry, landing flags, counts and PEND (04 R122 to R141, 05 R165). -/
def cvtEffect (u : State) (r : Nat) (a : At) (w : TWord) (x d : Desc) : State :=
  let sv := u.view r a.uid x
  let o := cvtResult u r a.c sv d (u.room r).pantry
  let u1 := (u.putPantry r a.uid d.ranges o.mem).bump fmLANDING r 0 (d.rows * d.dim0)
  let u2 := ((u1.lndFlags r (o.flags ||| flagIf (readInv sv) fINV)).addCounts a.c d o.counts).addMeas a.c d o.meas
  u2.pending1 a 0x40 w { Infl.mk0 with descs := [x, d], epoch := u.epoch a.c, ready := true, writes := d.ranges }

def effCvt (r : Nat) (w : TWord) (s : State) : State :=
  s.issue r 0x40#8 w fun a t =>
    checked (cvtChecks t a w) fun _ =>
      let x := t.latch a w.a.toNat
      let d := t.latch a w.b.toNat
      match t.hdirPlace a.c d with
      | none => .fault .descriptor
      | some u => .ok (cvtEffect u r a w x d)

/-- The checks of HRCLR in order. Table 7.15 gives it no FORMAT, yet a descriptor that breaks 02 R45, 04 R136 or 06 R197 raises FORMAT at
whatever instruction names it: DEDUCED (log 14) (07 R250). -/
def hrclrChecks (t : State) (a : At) (w : TWord) : List (Bool × FaultCode) :=
  let x := t.latch a w.a.toNat
  let h := t.stepHdr a.c
  [(!okTok w || !zeroSel w || !zeroMod w || w.b ≠ 0 || w.c ≠ 0, .operand), (!okD w.a, .descriptor), descCheck x,
    (x.hdr = 0 || x.hrCount = 0, .descriptor), (h.valid && h.phase ≠ phOPEN, .phase)]

/-- HRCLR zeroes a region's entries; the headroom directory stays as it is (04 R706; 07 R250). -/
def effHrclr (r : Nat) (w : TWord) (s : State) : State :=
  s.issue r 0x41#8 w fun a t =>
    checked (hrclrChecks t a w) fun _ =>
      let x := t.latch a w.a.toNat
      .ok ((t.ctxWrite a.c x.hdr (List.replicate (2 * x.hrCount) 0#8)).pending1 a 0x41 w { Infl.mk0 with descs := [x], ready := true })

/-- The engines FLGRC's mask selects, ascending, and the check of its operands (07 R251). -/
def flgrcEngines (w : TWord) : List Nat := (List.range 15).filter fun n => w.a.getLsbD n
def flgrcOk (w : TWord) : Bool :=
  okTok w && zeroSel w && w.mod.toNat ≤ 1 && w.a.toNat < 2 ^ 15 && okP w.b 4 (4 * (flgrcEngines w).length) && w.c = 0

/-- FLGRC: one word per selected engine in ascending order, then the clear (02 R62; 07 R251). -/
def effFlgrc (r : Nat) (w : TWord) (s : State) : State :=
  s.issue r 0x42#8 w fun a t =>
    checked [(!flgrcOk w, .operand)] fun _ =>
      let es := flgrcEngines w
      let bs := es.flatMap fun n => leBytes 4 (t.reg (engineReg r n)).toNat
      let t1 := t.pantStore r a.uid w.b.toNat bs
      let t2 := if w.mod.toNat = 1 then es.foldl (fun u n => u.clearFlags (engineReg r n)) t1 else t1
      .ok (t2.pending1 a 0x42 w { Infl.mk0 with ready := true, writes := [(ownBase + w.b.toNat, bs.length)] })

/-! Meanings -/

def execTCvt (r : Nat) (w : TWord) (s : State) := run [bRoom r] s (effCvt r w s)
def execTHrclr (r : Nat) (w : TWord) (s : State) := run [bRoom r] s (effHrclr r w s)
def execTFlgrc (r : Nat) (w : TWord) (s : State) := run [bRoom r] s (effFlgrc r w s)

end Sys2Proof.Machine
end

