-- ==== Sys2Proof/Machine/Selftest.lean ====
section
/-! DEFINITION. Power-on self-test, repair, the vestibule state, in-field tests and tasting replays (chapter 15). -/

namespace Sys2Proof.Machine

/-- Verdicts and actions of a signature record (15 Table 15.9). -/
abbrev vdTRANSIENT : Nat := 1
abbrev vdPERMANENT : Nat := 2
abbrev vdSUSPECT : Nat := 3
abbrev vdUNRESOLVED : Nat := 4
abbrev vdSTAGE : Nat := 5

/-- Room roles (21 Table 21.16). -/
abbrev rlACTIVE : Nat := 0
abbrev rlSPARE : Nat := 1
abbrev rlRETIRED : Nat := 2
abbrev rlTEST : Nat := 3

namespace State

def modRec (s : State) (r : Nat) (f : RoomRec → RoomRec) : State :=
  s.modTst fun t => { t with repair := t.repair.set r (f (t.repair.getD r {})) }
def recOf (s : State) (r : Nat) : RoomRec := s.tst.repair.getD r {}
def setRole (s : State) (r v : Nat) : State := s.modRoom r fun x => { x with role := v }
/-- The role a room has, and the repair record holds. -/
def putRole (s : State) (r v : Nat) : State := (s.modRec r fun x => { x with role := v }).setRole r v

/-! Repair (R523; 03 R113) -/

/-- Row-map register of a band, and the bit where its byte begins. -/
def bandReg (r t band : Nat) : Nat × Nat := (if band < 4 then rTR_ROWMAP_LO r t else rTR_ROWMAP_HI r t, 8 * (band % 4))

/-- The row-map word of the repair record. -/
def recordedMap (s : State) (o : Nat) : W32 := (mapGet s.tst.rowmaps o).getD 0

/-- The band's spare is in service, by its register or by the record that S7 is still to load. -/
def spareOn (s : State) (r t band : Nat) : Bool :=
  let (o, b) := bandReg r t band
  s.regBit o (b + 7) || (s.recordedMap o).getLsbD (b + 7)

/-- Put a band's spare in service for a row, and journal it beside the record's other bands. -/
def mapSpare (s : State) (r t band row : Nat) : State :=
  let (o, b) := bandReg r t band
  let old := (s.recordedMap o).toNat
  let v : W32 := BitVec.ofNat 32 (old - old / 2 ^ b % 2 ^ 8 * 2 ^ b + (128 + row % 32) * 2 ^ b)
  (((s.setReg o v).modTst fun x => { x with rowmaps := mapSet x.rowmaps o (some v) }).setLatClass r).lifeAdd lfSpare 0 1

/-- The row maps of the repair record go into both registers of every trellis of a room. -/
def loadRowmaps (s : State) (r : Nat) : State :=
  ((List.range 12).foldl (fun t k => [rTR_ROWMAP_LO r k, rTR_ROWMAP_HI r k].foldl (fun u o => u.setReg o (s.recordedMap o)) t) s).setLatClass r

/-- Room reset, on a room without a lease (20 Tables 20.3, 20.4): its RM_, TR_, LND_ and HRT_ registers reset, its memories are
zeroed, its row maps reload, its replica reloads with a gap marker. -/
def roomReset (s : State) (r : Nat) : State :=
  if (s.room r).lease.isSome ∨ r ≥ 72 then s
  else
    let own (o : Nat) : Bool := decide (rRoom r ≤ o) && decide (o < rRoom r + 0x40000) && o ≠ rRoom r + 0x380
    let s1 := { s with regs := s.regs.filter fun x => !own x.1 }
    let x := s1.room r
    ((((s1.setRoom r { role := x.role, gated := x.gated }).loadRowmaps r).wake r).gate r).wake r

/-- A room leaves service for the life of the part (R523); its reference is gated (16 R553). -/
def retire (s : State) (r : Nat) : State := ((s.putRole r rlRETIRED).lifeAdd lfSpare 2 1).gate r

/-! Signature records of verdicts -/

/-- The unit of a room's finding: the row when it is known, else the room. -/
def roomSig (r origin verdict action : Nat) (row : Option (Nat × Nat × Nat)) (keys : List (Nat × Cb)) (step : Option Nat) : SigInfo :=
  { origin := origin, kind := if row.isSome then 2 else 0, index := r
    sub := match row with
      | some (t, b, w) => [(3, t), (4, 32 * b + w)]
      | none => []
    keys := keys ++ [(10, .uint verdict)], env := some r, action := action, step := step }

/-- A TRANSIENT verdict: counted; the third within 720 powered hours is PERMANENT (R535, R536). -/
def transient (s : State) (r : Nat) : State × Bool :=
  let m := s.powerMinutes
  let l := (((s.recOf r).trans.filter fun x => decide (m ≤ x + 43200)) ++ [m])
  let s1 := (s.modRec r fun x => { x with trans := l.drop (l.length - 3) }).regCount rSTW_TEST_STATUS 0 8 1
  (s1, decide (l.length ≥ 3))

end State

/-! Self-test (R517 to R525, R528) -/

namespace State

/-- Origin code of this start's self-test. -/
def postOrigin (s : State) : Nat := if s.tst.full then 0 else 1

/-- A stage has failed: POST_FAIL names the first; without an override it leads to the vestibule state. -/
def stageFail (s : State) (stage : Nat) (cause : Option Nat) : State :=
  let s1 := (if s.regBits rSTW_TEST_STATUS 28 4 = 15 then s.setRegBits rSTW_TEST_STATUS 28 4 stage else s).lifeAdd lfTest (2 + stage) 1
  match cause with
  | some c => if s1.tst.fail.isSome ∨ s1.tst.override.contains stage then s1 else s1.modTst fun t => { t with fail := some (c, stage) }
  | none => s1

/-- A room fails its self-test: it is retired, with its record. -/
def postRoom (s : State) (r stage : Nat) : State :=
  if (s.recOf r).role = rlRETIRED ∨ r ≥ 72 then s
  else ((s.stageFail stage none).retire r).addSig (roomSig r s.postOrigin vdPERMANENT 2 none [] none)

/-- Decode core n is fenced (R519); a cluster whose cores are all fenced gates its reference (16 R553). -/
def fenceCore (s : State) (n : Nat) : State :=
  if n ≥ 64 ∨ s.coreFenced n then s
  else
    let s1 := ((s.setRegBit (rPRS_FENCED + n / 32 * 4) (n % 32) true).lifeAdd lfSpare 3 1).addSig {
      origin := s.postOrigin, kind := 11, index := n, keys := [(10, .uint vdSTAGE)], action := 6 }
    if (List.range 8).all fun i => s1.coreFenced (n / 8 * 8 + i) then s1.gate (128 + n / 8) else s1

/-- A port that fails its loopback is held in DISABLED. -/
def failPort (s : State) (p : Nat) : State :=
  if p ≥ 32 then s
  else (s.portDisable p).addSig { origin := s.postOrigin, kind := 10, index := p, keys := [(10, .uint vdSTAGE)], action := 5 }

/-- S5's repairs: the spare goes in service; a second failing row in a band, or a spare that fails, retires the room. -/
def postRow (s : State) (x : Nat × Nat × Nat × Nat) : State :=
  let (r, t, b, w) := x
  if r ≥ 72 ∨ (s.recOf r).role = rlRETIRED then s
  else if s.spareOn r t b then s.postRoom r 5
  else (s.mapSpare r t b w).addSig (roomSig r s.postOrigin vdPERMANENT 1 (some (t, b, w)) [] none)

/-- S7's choice: good active rooms stay, good spares fill gaps from the lowest, the others are spares; with an override and
fewer than 68 good rooms, every good room is active (R524, R528). -/
def chooseRooms (s : State) : State :=
  let good := (List.range 72).filter fun r => (s.recOf r).role ≠ rlRETIRED
  let act := good.filter fun r => (s.recOf r).role = rlACTIVE
  let rest := good.filter fun r => (s.recOf r).role ≠ rlACTIVE
  let on := if good.length < 68 then good else act ++ rest.take (68 - act.length)
  let s1 := (List.range 72).foldl (fun t r =>
    if !good.contains r then (t.setRole r rlRETIRED).gate r
    else (t.putRole r (if on.contains r then rlACTIVE else rlSPARE)).modRec r fun x => { x with pass := t.now }) s
  let s2 := (List.range 72).foldl (fun t r => t.loadRowmaps r) s1
  if good.length < 68 then s2.stageFail 7 (some 6) else s2

/-- READY is entered: fresh TRAIN exchanges; DRAIN begins draining (11 R384; 20 R654). -/
def enterReady (s : State) : State :=
  let s1 := (s.enter stREADY).retrainAll
  if s1.regBit rPWR_CTL 29 then s1.startDrain else s1

/-- Self-test ends (R525). -/
def endTest (s : State) : State :=
  let s1 := s.lifeAdd lfTest (if s.tst.full then 0 else 1) 1
  match s1.tst.fail with
  | none => s1.enterReady
  | some (cause, stage) =>
    let kind := match cause with
      | 2 => 8
      | 3 => 9
      | 4 => 7
      | 6 => 0
      | _ => 12
    let s2 := (s1.setRegBits rSTW_TEST_STATUS 24 4 cause).modTst fun t => { t with vestT := s1.now }
    (s2.addSig { origin := s2.postOrigin, kind := kind, index := stage, keys := [(10, .uint vdSTAGE)], action := 4 }).enter stVESTIBULE

/-- What each stage finds (Table 15.1). -/
def stageActs (s : State) (stage : Nat) (o : StageOutcome) : State :=
  match stage with
  | 0 =>
    let t : State := match s.lifeNewest with
      | some (_, _, items) => items.foldl (fun (u : State) x => u.lifeAdd (x.1 / 2 ^ 16) (x.1 % 2 ^ 16) x.2) s
      | none => s
    let t := t.modTst fun x => { x with packs := x.packs.filter fun p => t.packSound p.2.2 }
    if o.ok ∧ t.activeOk then t else t.stageFail 0 (some 1)
  | 1 => if o.ok then s else s.stageFail 1 (some 2)
  | 2 => if o.ok then s else s.stageFail 2 (some 3)
  | 3 => o.rooms.foldl (fun t r => t.postRoom r 3) s
  | 4 =>
    if s.tst.full then (if o.ok then s else s.stageFail 4 (some 4))
    else o.hbm.foldl (fun t pa => t.uncorrectable { place := .hbm pa, flips := [0, 8] }) s
  | 5 =>
    let s1 := o.rooms.foldl (fun t r => t.postRoom r 5) (o.rows.foldl (fun t x => t.postRow x) s)
    let s2 := o.cores.foldl (fun t n => t.fenceCore n) s1
    if o.ok then s2 else s2.stageFail 5 (some 5)
  | 6 => o.ports.foldl (fun t p => t.failPort p) (if o.ports.isEmpty then s else s.stageFail 6 none)
  | _ => s.chooseRooms

end State

def effSelftestStageDone (o : StageOutcome) (s : State) : State :=
  if s.devState ≠ stTEST then s
  else
    let k := s.tst.stage
    let s1 := s.stageActs k o
    if s1.devState ≠ stTEST then s1
    else if k ≥ 7 then s1.endTest else s1.modTst fun t => { t with stage := k + 1 }

/-! In-field tests (R529 to R537) -/

namespace State

/-- A room's period, in ns: for a spare, 6 hours when IFT_PERIOD_H is 0 (R530). -/
def spareNs (s : State) : Nat := (let v := s.regBits rSTW_TEST_CTL 24 8; if v = 0 then 6 else v) * 3600000000000
def deferNs (s : State) : Nat := (let v := s.regBits rSTW_TEST_CTL 16 8; if v = 0 then 60 else v) * 60000000000

def findTest (s : State) (r : Nat) : Option Ift := s.tst.tests.find? fun x => x.room = r
def modTest (s : State) (r : Nat) (f : Ift → Ift) : State :=
  s.modTst fun t => { t with tests := t.tests.map fun x => if x.room = r then f x else x }
def dropTest (s : State) (r : Nat) : State := s.modTst fun t => { t with tests := t.tests.filter fun x => x.room ≠ r }

/-- The test runs: the room is out of service. -/
def runTest (s : State) (r : Nat) : State :=
  ((((s.wake r).modTest r fun x => { x with st := 1, spt := s.reg (rRoom r + 0x380) }).modRec r fun x => { x with first := false }).setRole r
    rlTEST).bump fmSTEWARD 0 4 1

/-- A spare that may take a hand-off now (R530). -/
def spareReady (s : State) (r : Nat) : Bool :=
  r < 72 && (s.room r).role = rlSPARE && (s.findTest r).isNone && decide (s.now ≤ (s.recOf r).pass + s.spareNs)

/-- A test of a room falls due; a room that holds no lease is tested where it is (R531, R534). -/
def startTest (s : State) (r origin : Nat) : State :=
  let s1 := s.testDue r origin
  if (s1.room r).lease.isNone && (match s1.findTest r with
    | some x => x.st = 0
    | none => false) then s1.runTest r else s1

/-- The active room whose last pass is oldest, of those that wait for no test; one whose test a reset has met goes first (R529, Table
15.4). -/
def oldestRoom (s : State) : Option Nat :=
  let act := (List.range 72).filter fun r => (s.room r).role = rlACTIVE && (s.findTest r).isNone
  let due := act.filter fun r => (s.recOf r).first
  (if due.isEmpty then act else due).foldl (fun acc r => match acc with
    | none => some r
    | some q => if (s.recOf r).pass < (s.recOf q).pass then some r else some q) none

end State

def effIftRotationTimer (s : State) : State :=
  if !(s.devState = stREADY || s.devState = stRUNNING) ∨ s.regBits rSTW_TEST_CTL 24 8 = 0 then s
  else match s.oldestRoom with
  | some r => s.startTest r 2
  | none => s

/-- A free spare's own test, once per period (R530). -/
def effSpareIdleTest (r : Nat) (s : State) : State :=
  if r ≥ 72 ∨ (s.room r).role ≠ rlSPARE ∨ (s.findTest r).isSome ∨ s.now < (s.recOf r).pass + s.spareNs then s else s.startTest r 2

/-- The image moves to a spare at the room's pre-emption point, and the room is tested (R531); or the saved image of a retired
room goes to a spare (R537). -/
def effSpareHandoff (r spare : Nat) (s : State) : State :=
  match s.findTest r with
  | none => s
  | some x =>
    if !s.spareReady spare ∨ r = spare then s
    else if x.st = 2 then match x.back with
      | some (c, li) =>
        if ((s.ctx c).map (·.slicedOut)).getD true then s
        else (((((s.wake spare).putRole spare rlACTIVE).loadRoom c li spare).dropTest r).bump fmSTEWARD 0 5 1).lifeAdd lfSpare 1 1
      | none => s.dropTest r
    else if x.st ≠ 0 then s
    else match (s.room r).lease with
      | none => s
      | some (c, li) =>
        let s1 := s.stopRoom r
        if !s1.atPoint r ∨ s1.faulted r then s1
        else
          let s2 := ((s1.wake spare).saveRoom r).putRole spare rlACTIVE
          let s3 := (s2.loadRoom c li spare).modRec r fun y => { y with role := rlSPARE }
          ((s3.runTest r).bump fmSTEWARD 0 5 1).lifeAdd lfSpare 1 1

/-- No spare is free after IFT_DEFER_MIN: the room is pre-empted and tested in place (R532). -/
def effIftDeferExpiry (r : Nat) (s : State) : State :=
  match s.findTest r, (s.room r).lease with
  | some x, some (c, li) =>
    if x.st ≠ 0 ∨ s.now < x.t + s.deferNs ∨ (List.range 72).any s.spareReady then s
    else
      let s1 := s.stopRoom r
      if !s1.atPoint r ∨ s1.faulted r then s1
      else
        let s2 := ((s1.saveRoom r).regCount rSTW_TEST_STATUS 8 8 1).bump fmSTEWARD 0 6 1
        (s2.modTest r fun y => { y with back := some (c, li), origin := if y.origin = 2 then 3 else y.origin }).runTest r
  | _, _ => s

namespace State

/-! Pack kernels (R520, R521, R543) -/

/-- Entry i of a pack as it runs, and its TIME_MS and FLAGS (Table 15.8). -/
def packKernel (pack : Nat) (p : List Byte) (i : Nat) : KRun × Nat × Nat :=
  let body := (p.drop 0x80).take (fieldLe p 0x1C 4)
  let e := (body.drop (96 * i)).take 96
  let f := fieldLe e
  ({ pack := pack, kid := f 0 4, seed := f 8 8, prog := (body.drop (f 0x10 4)).take (f 0x14 4)
     image := (body.drop (f 0x18 4)).take (128 * f 0x1C 4), out := (f 0x20 4, f 0x24 4), want := e.drop 0x40 }, f 6 2, f 5 1)

/-- The pack kernels marked rotation that are not suspended, in turn across packs. -/
def rotKernels (s : State) : List (KRun × Nat) :=
  (List.range 256).flatMap fun i => s.tst.packs.filterMap fun (id, _, p) =>
    let (k, ms, fl) := packKernel id p i
    if i < fieldLe p 6 2 ∧ fl % 2 = 1 ∧ !s.tst.suspended.contains (id * 2 ^ 32 + k.kid) then some (k, ms) else none

/-- The next pack kernel of a room's test: the first in turn whose TIME_MS fits what is left of PACK_100MS × 100 ms, each at most once a
test (R543; log 33), with its place. -/
def nextKernel (s : State) (x : Ift) : Option (KRun × Nat) :=
  let ks := s.rotKernels
  let at' := natGet s.tst.turns x.room % ks.length
  let ends := x.kt.getD s.now + s.regBits rSTW_TEST_CTL 4 4 * 100000000
  let order := (ks.zipIdx.drop at') ++ (ks.zipIdx.take at')
  if x.kn ≥ ks.length then none
  else (order.find? fun k => decide (s.now + k.1.2 * 1000000 ≤ ends)).map fun k => (k.1.1, k.2)

/-- A kernel begins on a room under test: the room is reset, the image lies in its descriptor table, and its sequencer runs the program
in the test context. -/
def startKernel (s : State) (r : Nat) (k : KRun) : State :=
  let s1 := (s.modRoom r fun x => { x with lease := none }).roomReset r
  (s1.modTest r fun x => { x with krun := some { k with regs := [], bad := false } }).modRoom r fun x =>
    { x with lease := some (16 + r, 0), pantry := x.pantry.write descTab k.image, seqr := { launch := some (16 + r, 0) } }

/-- The kernel's run is over: its program has ended and nothing is unfinished, or a fault ended it. -/
def kernelOver (s : State) (r : Nat) (k : KRun) : Bool :=
  let x := s.room r
  if k.bad then s.atPoint r else x.seqr.ended && x.infl.isEmpty && x.taste.isEmpty

/-- What a run gave: SHA-256 of the output range, or nothing where a fault ended it (R520). -/
def kernelGot (s : State) (r : Nat) (k : KRun) : List Byte :=
  if k.bad then [] else sha256 ((s.room r).pantry.read k.out.1 k.out.2)

/-- The next pack kernel of the test starts, if one is left. -/
def moreKernels (s : State) (r : Nat) (x : Ift) : Option State :=
  (s.nextKernel x).map fun (k, n) =>
    let s1 := s.modTst fun t => { t with turns := natPut t.turns r (n + 1) }
    (s1.modTest r fun y => { y with kt := some (x.kt.getD s.now), kn := y.kn + 1 }).startKernel r k

/-- The room leaves the test context; the flags of its spout are as the test found them (R521), its RSV bits
as last written (00 R704). -/
def leaveKernel (s : State) (r : Nat) (x : Ift) : State :=
  (s.modRoom r fun y => { y with lease := none, seqr := {} }).setRegKept (rRoom r + 0x380) x.spt

/-- A tested room returns: to the lease index it was taken from, or to its place in the repair record, after a room reset. -/
def returnRoom (s : State) (r : Nat) (x : Ift) : State :=
  let s1 := (((s.leaveKernel r x).roomReset r).setRole r (s.recOf r).role).dropTest r
  match x.back with
  | some (c, li) => if ((s1.ctx c).map (·.slicedOut)).getD true then s1 else s1.loadRoom c li r
  | none => s1

/-- A room is retired after a test: its lease index waits for a spare, or the module restarts when none is left (R537). -/
def retireTested (s : State) (r : Nat) (x : Ift) : State :=
  let s1 := ((s.leaveKernel r x).roomReset r).retire r
  match x.back with
  | none => s1.dropTest r
  | some _ =>
    if (List.range 72).any fun q => (s1.recOf q).role = rlSPARE then s1.modTest r fun y => { y with st := 2 } else s1.stewardReset

/-- Verdict of Table 15.5; repeats that neither both pass nor reproduce the failure, with the other room passing, are
PERMANENT (log 33). -/
def verdictOf (o : TestOutcome) : Nat :=
  if o.other = 1 then vdSUSPECT
  else if o.other ≠ 0 then vdUNRESOLVED
  else if o.rep1 = 0 ∧ o.rep2 = 0 then vdTRANSIENT else vdPERMANENT

end State

namespace State

/-- The other room of a failed kernel: a spare that is free, or, without one, the active room whose last pass is newest (R535). -/
def otherOk (s : State) (r q : Nat) : Bool :=
  let free (x : Nat) : Bool := x ≠ r && (s.room x).role = rlSPARE && (s.findTest x).isNone
  let act := (List.range 72).filter fun x => x ≠ r && (s.room x).role = rlACTIVE
  q < 72 && (free q || (!((List.range 72).any free) && act.contains q && act.all fun x => decide ((s.recOf x).pass ≤ (s.recOf q).pass)))

/-- A run on the room against the first run: passes, fails as it did, or otherwise. -/
def runCode (want first got : List Byte) : Nat := if got = want then 0 else if got = first then 1 else 2

/-- Every kernel of the test has passed (R524, R529). -/
def passTest (s : State) (r : Nat) (x : Ift) : State := (s.modRec r fun y => { y with pass := s.now }).returnRoom r x

/-- A kernel has failed: its verdict and what follows (R535 to R537). -/
def failTest (s : State) (r : Nat) (x : Ift) (o : TestOutcome) : State :=
      let v := State.verdictOf o
      let keys : List (Nat × Cb) := [(8, .uint o.kid), (9, .uint o.pack)]
      let runs : List (Nat × Cb) := [(10, .uint v), (11, .nums [1, o.rep1, o.rep2, o.other])]
      let rest : List (Nat × Cb) := [(12, .bstr o.want), (13, .bstr o.got), (14, .diff o.diff.1 o.diff.2.1 o.diff.2.2)]
      let sig (t : State) (row : Option (Nat × Nat × Nat)) (action : Nat) : State :=
        (t.addSig { State.roomSig r x.origin v action row [] none with keys := keys ++ runs ++ rest }).lifeAdd lfTest (16 + v) 1
      let repair (t : State) : State :=
        let fits := (o.rep1 = 1 ∨ o.rep2 = 1 ∨ v = vdTRANSIENT) ∧ o.rerun
        match o.row with
        | some (tr, b, w) =>
          if fits ∧ !t.spareOn r tr b then
            ((sig (((t.leaveKernel r x).roomReset r).mapSpare r tr b w) o.row 1).modRec r fun y => { y with pass := t.now }).returnRoom r x
          else (sig t o.row 2).retireTested r x
        | none => (sig t none 2).retireTested r x
      if v = vdSUSPECT then
        let id := o.pack * 2 ^ 32 + o.kid
        ((sig s none 3).modTst fun t => { t with suspended := if t.suspended.contains id then t.suspended else id :: t.suspended }).returnRoom r x
      else if v = vdUNRESOLVED then (((sig s none 0).returnRoom r x).startTest r 4).startTest o.otherRoom 4
      else if v = vdTRANSIENT then
        let (t, again) := s.transient r
        if again then repair t else (sig t none 0).returnRoom r x
      else repair s

end State

/-- An in-field test goes on. The built-in sets come first and are admitted after all waiting new work (01 Table 1.7); then pack kernels
run, each up to three times when it fails; the last leads to the room's return or to a verdict (R520, R529, R535, R543). -/
def effIftTestDone (r : Nat) (o : TestOutcome) (s : State) : State :=
  match s.findTest r with
  | none => s
  | some x =>
    if x.st ≠ 1 then s
    else match x.krun with
    | none =>
      if !s.admitsTest r then s.withhold
      else
        let s1 := s.chargeMw s.testEst
        if o.got = o.want then (s1.moreKernels r x).getD (s1.passTest r x)
        else if s.otherOk r o.otherRoom then s1.failTest r x o else s
    | some k =>
      if !s.kernelOver r k then s
      else
        let got := k.got ++ [s.kernelGot r k]
        let first := got.headD []
        if first = k.want then (s.moreKernels r x).getD (s.passTest r x)
        else if got.length < 3 then s.startKernel r { k with got := got }
        else if s.otherOk r o.otherRoom then s.failTest r x { o with
          kid := k.kid, pack := k.pack, want := k.want, got := first
          rep1 := State.runCode k.want first (got.getD 1 []), rep2 := State.runCode k.want first (got.getD 2 []) }
        else s

/-- The quick test of all rooms, on all at once, is admitted and charged as a test of each (01 R19, R23); contexts are pre-empted, so no new
work waits beside it. It is the one that R512 calls for: rooms that pass are dated; each that fails is tested for its verdict; a
module with a failure rebuilds its digest set as a minority, and one without takes its digest again (R533; 14 R512). -/
def effAllRoomsQuickTest (failed : List Nat) (s : State) : State :=
  let cs := (List.range 16).filter fun c => ((s.ctx c).map (·.needQuick)).getD false
  let rs := (List.range 72).filter fun r => (s.room r).role ≠ rlRETIRED
  if cs.isEmpty then s
  else if !(rs.all s.admitsAny && s.fits 0 (rs.length * s.testEst)) then s.withhold
  else
    let s := s.chargeMw (rs.length * s.testEst)
    let s1 := (List.range 72).foldl (fun t r =>
      if (t.room r).role = rlRETIRED then t
      else if failed.contains r then t.startTest r 5 else t.modRec r fun x => { x with pass := t.now }) s
    cs.foldl (fun t c =>
      let rs := ((t.ctx c).map (·.roots)).getD []
      let t1 := t.modCtx c fun x => { x with needQuick := false, digest := none, roots := [], retake := true }
      if failed.isEmpty then t1
      else
        let t2 := (match t1.fab.num with
          | some me => t1.report me sxDIGEST 1
          | none => t1).inMinority c
        let srcs := (State.membersAbove (t1.readGroup c (t1.protLe c 0x12 2)).1).filterMap fun x =>
          (rs.find? fun y => y.1 = x.1).map fun y => (x.2, y.2)
        match srcs with
        | (m, root) :: more => t2.startRebuild c m root more
        | [] => t2) s1

/-! Tasting replays (R538 to R540) -/

namespace State

/-- A verdict of a replay whose step has not passed CHECK latches INV-in-step in the room that ran the tile (R540). -/
def latchEvidence (s : State) (p : Replay) : State :=
  let h := s.stepHdr p.ctx
  if h.step = p.step ∧ h.phase = phOPEN then s.modRoom p.room fun x => { x with invStep := true } else s

def dropReplay (s : State) (i : Nat) : State := s.modTst fun t => { t with replays := t.replays.filter fun p => p.id ≠ i }

/-- The last run of a replay decides (Table 15.6): runs are (room, comparison): O first, two repeats on the original room, T. -/
def replayVerdict (s : State) (p : Replay) (runs : List (Nat × Nat)) : State :=
  let o := (runs.headD (0, 0)).1
  let reps := ((runs.drop 1).filter fun x => x.1 = p.room).map (·.2)
  let t := ((runs.drop 1).find? fun x => x.1 ≠ p.room).getD (0, 0)
  let sig (u : State) (v : Nat) : State :=
    let keys : List (Nat × Cb) := [(8, .uint 0), (10, .uint v), (11, .nums (1 :: reps.map (fun x => if x = 0 then 1 else if x = 1 then 0 else 2) ++ [0, (if t.2 = 1 then 0 else 2)]))]
    (u.addSig { roomSig p.room 4 v 0 none [] (some p.step) with keys := keys }).lifeAdd lfTest (16 + v) 1
  let u := s.dropReplay p.id
  if t.2 = 0 then u.startTest o 4
  else if t.2 = 1 then
    if reps.all (· = 1) then
      let (a, again) := (u.latchEvidence p).transient p.room
      let b := sig a vdTRANSIENT
      if again then b.startTest p.room 4 else b
    else (sig (u.latchEvidence p) vdPERMANENT).startTest p.room 4
  else ((sig (u.latchEvidence p) vdUNRESOLVED).startTest p.room 4).startTest o 4

end State

/-- A replay's tile is admitted as in-field test work on its room (01 R19, R23, Table 1.7). -/
def State.admitsReplay (s : State) (r t : Nat) : Bool := s.admitsAny r && s.fits (s.waitingEst (List.range 72)) (s.tileEst (t ≥ 8))

/-- A run on a room comes next in a replay: first another room O, then two repeats on the original and one run on a third room T (Table
15.6). -/
def Replay.takes (p : Replay) (room : Nat) : Bool :=
  if p.runs.isEmpty then room ≠ p.room && room < 72
  else
    let again := (p.runs.filter fun x => x.1 = p.room).length
    let third := (p.runs.drop 1).any fun x => x.1 ≠ p.room
    room < 72 && !(room = p.room && again ≥ 2) && !(room ≠ p.room && (third || room = (p.runs.headD (0, 0)).1))

/-- What a run of a replay gives (Table 15.6). -/
def State.replayRun (s : State) (p : Replay) (o : ReplayOutcome) : State :=
  let runs := p.runs ++ [(o.room, o.cmp)]
  if p.runs.isEmpty ∧ o.cmp = 0 then
    let t := s.dropReplay p.id
    if o.wideEq then t else t.startTest p.room 4
  else if runs.length = 4 then s.replayVerdict p runs
  else s.modTst fun t => { t with replays := t.replays.map fun x => if x.id = p.id then { x with runs := runs } else x }

/-- One run of a replay ends, once its tile is admitted (Table 15.6). -/
def effTasteReplayDone (i : Nat) (o : ReplayOutcome) (s : State) : State :=
  match s.tst.replays.find? fun p => p.id = i with
  | none => s
  | some p =>
    if !p.takes o.room then s
    else if !s.admitsReplay o.room p.job.trellis then s.withhold
    else (s.chargeMw (s.tileEst (p.job.trellis ≥ 8))).replayRun p o

/-- CHECK has waited EVID_WAIT_MS for the replays of its step (R540). -/
def effEvidWaitExpiry (c : Nat) (s : State) : State :=
  let h := s.stepHdr c
  let ps := s.tst.replays.filter fun p => p.ctx = c && p.step = h.step
  if (s.ctx c).isNone ∨ ps.isEmpty ∨ h.phase ≠ phOPEN then s
  else (ps.foldl (fun t p => t.latchEvidence p) s).modCtx c fun x => { x with evidOver := true }

/-! Meanings -/

def execSelftestStageDone (o : StageOutcome) (s : State) := run [bSTW] s (effSelftestStageDone o s)
def execIftRotationTimer (s : State) := run [bSTW] s (effIftRotationTimer s)
def execSpareIdleTest (r : Nat) (s : State) := run [bSTW] s (s.live (effSpareIdleTest r s))
def execSpareHandoff (r spare : Nat) (s : State) := run [bSTW, bRoom r, bRoom spare] s (s.live (effSpareHandoff r spare s))
def execIftDeferExpiry (r : Nat) (s : State) := run [bSTW, bRoom r] s (s.live (effIftDeferExpiry r s))
def execIftTestDone (r : Nat) (o : TestOutcome) (s : State) := run [bSTW] s (s.live (effIftTestDone r o s))
def execAllRoomsQuickTest (failed : List Nat) (s : State) := run [bSTW] s (s.live (effAllRoomsQuickTest failed s))
def execTasteReplayDone (i : Nat) (o : ReplayOutcome) (s : State) := run [bSTW] s (s.live (effTasteReplayDone i o s))
def execEvidWaitExpiry (c : Nat) (s : State) := run [bSTW] s (s.live (effEvidWaitExpiry c s))

end Sys2Proof.Machine
end

