-- ==== Sys2Proof/Machine/Ten.lean ====
section
/-! DEFINITION. TMUL and TCONV: issue checks and cut (06 R206 to R209, 07 R238 to R242), and the events of trellis tiles
(03 R102 to R106, 04 R119 to R147). -/

namespace Sys2Proof.Machine

/-- Set bits of a mask, ascending. -/
def setBits (n m : Nat) : List Nat := (List.range n).filter fun i => m.testBit i

/-- Extents of a product: filter rows, held rows M, vectors N (log 15 for TCONV). -/
def prodDims (conv : Bool) (h s : Desc) : Nat × Nat × Nat :=
  if conv then (s.dim1, h.rows - (s.dim1 - 1), s.dim2 * s.dim3) else (1, h.rows, s.rows)

/-- Upper work: streaming N2, N4 or N8 (03 R65). -/
def upperWork (sf : Nat) : Bool := fmtIsN sf

/-- The pairing of R65 holds. -/
def pairingOk (h s : Desc) : Bool :=
  let w32 := (h.fmt = fmtFP32 && (s.fmt = fmtFP32 || (s.fmt = fmtG16 && !s.scaled)))
    || (s.fmt = fmtFP32 && h.fmt = fmtG16 && !h.scaled)
  ((fmtIsN h.fmt || h.fmt = fmtA16) && fmtIsN s.fmt) || (fmtIsG h.fmt && fmtIsG s.fmt) || w32

/-- Formats a trellis output may take (04 Table 4.3). -/
def destFmtOk (f : Nat) : Bool := fmtIsN f || f = fmtA16 || fmtIsG f || f = fmtFP32

/-- The checks of a TMUL or TCONV in order, after its operand kinds. Whether 'names G8 or G12' of R116 takes in the destination is
open: the model looks at the two operands only. DESIGN CHOICE (log 15) (03 R65, R92; 04 R115, R116, R121, R123; 05 R159;
06 R206, R208; 07 R239, R240). -/
def tenChecks (t : State) (a : At) (conv : Bool) (w : TWord) (h s d : Desc) : List (Bool × FaultCode) :=
  let cask := w.mod.toNat / 256
  let slots := w.mod.toNat / 16 % 16
  let stride := w.mod.toNat % 16
  let mask := w.sel.toNat
  let up := upperWork s.fmt
  let (fr, m, n) := prodDims conv h s
  let span := d.bs * (if d.tsAutoMode then d.bpt else 1)
  let dc (x : Desc) : Bool × FaultCode := (x.check.isSome, x.check.getD .descriptor)
  [(t.reshardOn a.c, .reshardPending), dc h, dc s, dc d,
   (!h.inPantry || !s.inPantry || !d.inPantry, .descriptor),
   (d.checkDest.isSome, .descriptor),
   (!pairingOk h s, .format),
   (up && h.asym && s.asym, .format),
   (cask > 4 || (!up && cask > 2) || (up && ((h.fmt = fmtA16) != (cask = 3 || cask = 4))), .format),
   (h.scaled && s.scaled && h.bs ≠ s.bs, .format),
   ((h.sensitive || s.sensitive || d.sensitive) && (up || h.fmt = fmtG8 || h.fmt = fmtG12 || s.fmt = fmtG8 || s.fmt = fmtG12),
     .format),
   (!destFmtOk d.fmt, .format),
   (mask = 0 || slots = 0 || (!up && mask ≥ 16), .format),
   ([h, s, d].any (fun x => t.offRung a.c x h.fmt s.fmt cask) || t.offRung1 a.c [fmtG16, fmtFP32] d, .format),
   (d.scaled && (if d.heldMajor then d.tsAutoMode && span > 256 else d.bs > 64 || span > 64), .format),
   (d.hasSb && !d.heldMajor && d.dim0 > 64, .format),
   (conv && (h.rows < fr || h.dim0 < s.dim0 + (fr - 1) * stride), .descriptor),
   (!conv && h.dim0 ≠ s.dim0, .descriptor),
   ((d.dim0, d.rows) ≠ (if d.heldMajor then (m, n) else (n, m)), .descriptor)]

/-- Cut into trellis tiles: (ordinal, row block, vector group, trellis, slot) (06 R207, R208). -/
def cutTiles (m n : Nat) (trs slots : List Nat) : List (Nat × Nat × Nat × Nat × Nat) :=
  let mt := cdiv m 256
  let nt := cdiv n 64
  (List.range (mt * nt)).map fun t =>
    (t, t / nt, t % nt, trs.getD (t % trs.length) 0, slots.getD (t / trs.length % slots.length) 0)

/-- Words of the tasting choice: the low n bits of word 0 are zero (04 R145). -/
def tasted (s : State) (r c layer ord : Nat) : Bool :=
  let n := s.regBits (rLND_CTL r) 20 4
  n ≠ 0 && (gen (s.jobKey c) 1 (layer * 4096 + 0xFFF)
    (s.stepNo c % 2 ^ 24 * 2 ^ 40 + ord)).x0.toNat % 2 ^ n = 0

def prodOf (t : State) (r uid : Nat) (i : Infl) : Prod :=
  let h := i.descs.getD 0 (Desc.parse (fun _ => 0) 0)
  let s := i.descs.getD 1 (Desc.parse (fun _ => 0) 0)
  let conv := i.op ≥ 0x24
  { h := t.view r uid h, s := t.view r uid s, cask := i.w.mod.toNat / 256,
    fr := if conv then s.dim1 else 1, stride := if conv then i.w.mod.toNat % 16 else 0 }

/-- Segments of a tile (03 R66, Table 3.3). -/
def segCount (s : Desc) (fr cask : Nat) : Nat := fr * cdiv s.dim0 ([256, 128, 64, 128, 64].getD cask 256)

/-- A tile whose operands, 2 bytes an element as the buffer holds them, exceed the 1 MiB tasting buffer is not tasted: the held rows
of all its filter rows overlap (04 R146, R147; 15 Table of the worked example: 320 rows of 1,024 elements take 655,360 bytes). -/
def tasteFits (p : Prod) (rows vecs : Nat) : Bool := ((rows + p.fr - 1) * p.h.d.dim0 + vecs * p.fr * p.k) * 2 ≤ 2 ^ 20

/-- Every check of a TMUL or TCONV: its operand kinds first (07 R238 to R240). -/
def tenAll (t : State) (a : At) (op : Byte) (w : TWord) : List (Bool × FaultCode) :=
  let conv := decide (op.toNat ≥ 0x24)
  [(!okTok w || (!conv && w.mod.toNat % 16 ≠ 0), .operand), (!okD w.a || !okD w.b || !okD w.c, .descriptor)]
    ++ tenChecks t a conv w (t.latch a w.a.toNat) (t.latch a w.b.toNat) (t.latch a w.c.toNat)

/-- The trellises and slots of a TMUL or TCONV, and its tiles on them (06 R207, R208; 07 R239). -/
def tenTiles (op : Byte) (w : TWord) (h sd : Desc) : List (Nat × Nat × Nat × Nat × Nat) :=
  let (_, m, n) := prodDims (op.toNat ≥ 0x24) h sd
  cutTiles m n ((setBits 8 w.sel.toNat).map fun b => if upperWork sd.fmt then b else 8 + b) (setBits 4 (w.mod.toNat / 16 % 16))

/-- A TMUL or TCONV as it stands in flight when it issues: all tiles are to come. -/
def tenInfl (u : State) (a : At) (op : Byte) (w : TWord) (h sd d : Desc) : Infl := {
  Infl.mk0 with
  descs := [h, sd, d], epoch := u.epoch a.c, tilesLeft := (tenTiles op w h sd).length, toQueue := tenTiles op w h sd
  writes := if op.toNat % 4 = 0 ∨ op.toNat % 4 = 3 then d.ranges else [] }

/-- One tile of an instruction joins its trellis's queue. The layer of its tasting choice is the destination descriptor's, which
04 R145 does not name: DESIGN CHOICE (log 15) (06 R207, R209; 04 R145, R147). -/
def tenQueue (r c : Nat) (i : Infl) (v : State) (x : Nat × Nat × Nat × Nat × Nat) : State :=
  let (ord, rb, vg, tr, sl) := x
  let h := i.descs.getD 0 (Desc.parse (fun _ => 0) 0)
  let sd := i.descs.getD 1 (Desc.parse (fun _ => 0) 0)
  let d := i.descs.getD 2 (Desc.parse (fun _ => 0) 0)
  let (fr, m, n) := prodDims (i.op ≥ 0x24) h sd
  let fits := tasteFits (prodOf v r i.uid i) (min 256 (m - rb * 256)) (min 64 (n - vg * 64))
  let want := tasted v r c d.layer ord
  let v := if want && !fits then (v.addCounts c d [(0x58, 1)]).bump fmLANDING r 3 1 else v
  let j : TileJob := {
    uid := i.uid, ord := ord, rb := rb, vg := vg, slot := sl, mode := i.op % 4
    segs := segCount sd fr (i.w.mod.toNat / 256), sbReady := !(h.hasSb || h.hasChan || sd.hasSb || sd.hasChan), taste := want && fits }
  v.modRoom r fun x =>
    let old := x.trell.getD tr {}
    { x with trell := x.trell.set tr { old with queue := old.queue ++ [j] } }

namespace State

def trellis (s : State) (r t : Nat) : Trellis := (s.room r).trell.getD t {}
def modTrellis (s : State) (r t : Nat) (f : Trellis → Trellis) : State :=
  s.modRoom r fun x => { x with trell := x.trell.set t (f (x.trell.getD t {})) }

/-- The sequencer hands an instruction's tiles to the trellises, each in ordinal order and each up to 16 queued (06 R209). -/
def feedTiles (s : State) (r uid : Nat) : State :=
  match s.findInfl r uid, (s.room r).lease with
  | some i, some (c, _) =>
    i.toQueue.foldl (fun v x =>
      if (v.trellis r x.2.2.2.1).queue.length < 16 then
        (tenQueue r c i v x).modInfl r uid fun k => { k with toQueue := k.toQueue.erase x }
      else v) s
  | _, _ => s

/-- Every instruction of the room that still has tiles in the sequencer hands over what fits. -/
def feedRoom (s : State) (r : Nat) : State :=
  ((s.room r).infl.filter fun i => !i.toQueue.isEmpty).foldl (fun v i => v.feedTiles r i.uid) s

end State

/-- Issue of TMUL and TCONV in every mode. A held tensor with a headroom region is placed on a lower trellis too, of which R127 says
nothing: DESIGN CHOICE (log 15) (04 R706). -/
def effTen (op : Byte) (r : Nat) (w : TWord) (s : State) : State :=
  s.issue r op w fun a t =>
    checked (tenAll t a op w) fun _ =>
      let h := t.latch a w.a.toNat
      let sd := t.latch a w.b.toNat
      let d := t.latch a w.c.toNat
      match (t.hdirPlace a.c h).bind fun u => u.hdirPlace a.c d with
      | none => .fault .descriptor
      | some u =>
        .ok ((u.pending1 a op.toNat w (tenInfl u a op w h sd d)).feedTiles a.room a.uid)

/-- Held rows and vectors of a tile. -/
def tileRows (i : Infl) (j : TileJob) : List Nat × List Nat :=
  let h := i.descs.getD 0 (Desc.parse (fun _ => 0) 0)
  let s := i.descs.getD 1 (Desc.parse (fun _ => 0) 0)
  let (_, m, n) := prodDims (i.op ≥ 0x24) h s
  ((List.range (min 256 (m - j.rb * 256))).map (j.rb * 256 + ·), (List.range (min 64 (n - j.vg * 64))).map (j.vg * 64 + ·))

/-- A tile's sideboard terms, by held row and vector (04 R142). -/
def tileSigma (p : Prod) (i : Infl) (j : TileJob) : List (List (Option W32)) :=
  (tileRows i j).1.map fun m => (tileRows i j).2.map fun n => p.sigma m n

/-- Spout and hearth have formed the sideboard terms of the queue's head (04 R142). -/
def effSideboardTermsReady (r t : Nat) (s : State) : State :=
  match (s.trellis r t).queue with
  | q :: rest => match s.findInfl r q.uid with
    | some i =>
      if q.sbReady then s
      else s.modTrellis r t fun y => { y with queue := { q with sbReady := true, sigma := tileSigma (prodOf s r q.uid i) i q } :: rest }
    | none => s
  | [] => s

/-- The outputs of a tile once the segment `hs` of it has streamed (03 R82 to R88). -/
def segOuts (p : Prod) (i : Infl) (j : TileJob) (hs : HeldSeg) (sl : Slot) : List (List OutRes) :=
  (tileRows i j).1.zipIdx.map fun (m, a) => (tileRows i j).2.zipIdx.map fun (n, b) =>
    p.outSeg hs sl.anchor (sl.th.getD a 0x3F800000#32) (sl.ts.getD b 0x3F800000#32) m n a ((j.sigma.getD a []).getD b none)
      ((sl.outs.getD a []).getD b {})

/-- The segment in the shadow copies becomes current and streams every vector through the trellis: the tile's slot, flags and
counts follow (03 R66, R82 to R91, R106; 04 R126; 07 Table 7.15). -/
def State.streamSeg (s : State) (r t : Nat) (i : Infl) (j : TileJob) (hs : HeldSeg) : State :=
  let p := prodOf s r j.uid i
  let sl := (s.trellis r t).slots.getD j.slot {}
  let outs := segOuts p i j hs sl
  let all := outs.flatMap id
  let fl := all.foldl (fun f o => f ||| o.2.1) (0 : Flags)
  let sum (f : WinCount → Nat) : Nat := (all.map fun o => f o.2.2).sum
  let k := { j with
    skips := j.skips + p.skips hs.seg (tileRows i j).2
    passes := max j.passes (if p.lower then passesOf p.h.d.fmt hs.rows else 1) }
  let s1 := s.modTrellis r t fun y => { y with
    cur := some hs, shadow := none
    flying := y.flying.map fun x => if x.uid = j.uid ∧ x.ord = j.ord then k else x
    slots := y.slots.set j.slot { sl with outs := outs.map fun row => row.map (·.1) } }
  let s2 := (s1.trFlags r t (fl &&& ~~~fINX)).lndFlags r (fl &&& fINX)
  (s2.addCounts (((s.room r).lease.map (·.1)).getD 0) (i.descs.getD 2 (Desc.parse (fun _ => 0) 0))
    [(0x30, sum (·.below)), (0x38, sum (·.above))]).bump fmTRELLIS (12 * r + t) 4 (sum (·.ovfs))

/-- The shadow copies become free: a segment of a tile in flight that they hold becomes current (03 R106). -/
def State.freeShadow (s : State) (r t : Nat) : State :=
  let x := s.trellis r t
  match x.shadow with
  | none => s
  | some hs =>
    match x.flying.find? fun j => j.uid = hs.uid ∧ j.ord = hs.ord with
    | none => s
    | some j => match s.findInfl r j.uid with
      | some i => s.streamSeg r t i j hs
      | none => s

/-- The tile whose segment loads next: the newest in flight while it lacks segments, else the queue's head for its first (03
R106). -/
def Trellis.nextLoad (x : Trellis) : Option TileJob :=
  let head : Option TileJob := match x.queue with
    | q :: _ => if q.loaded = 0 then some q else none
    | [] => none
  match x.flying.getLast? with
  | some j => if j.loaded < j.segs then some j else head
  | none => head

/-- A held segment has loaded into the shadow copies, from pantry or by the diagonal shift (03 R67, R70, R97, R106). -/
def effSegmentLoadDone (r t : Nat) (s : State) : State :=
  match (s.trellis r t).nextLoad with
  | none => s
  | some j =>
    match s.findInfl r j.uid with
    | none => s
    | some i =>
      let s1 := s.freeShadow r t
      let hs := (prodOf s1 r j.uid i).loadSeg (tileRows i j).1 (s1.trellis r t).cur j.uid j.ord j.loaded
      s1.modTrellis r t fun y =>
        let up (q : TileJob) : TileJob := if q.uid = j.uid ∧ q.ord = j.ord then { q with loaded := j.loaded + 1 } else q
        { y with shadow := some hs, queue := y.queue.map up, flying := y.flying.map up }

/-- Why a tile's first digit cannot enter now: it waits, it faults, or it starts (03 R104, R105; 07 R241). -/
inductive Start where
  | waits
  | faults (f : FaultCode)
  | starts

/-- The slot rule of a tile (07 R241). -/
def slotStart (i : Infl) (j : TileJob) (sl : Slot) : Start :=
  if j.mode = 0 ∨ j.mode = 1 then
    match sl.st with
    | .free => .starts
    | .opened => .faults .slotOpen
    | _ => .waits
  else
    match sl.st with
    | .opened => if sl.ord = j.ord ∧ sl.dest = i.w.c.toNat ∧ sl.epoch = i.epoch then .starts else .faults .format
    | .free => .faults .format
    | _ => .waits

/-- Reference scales of a starting tile by held row and by vector: a continued tile keeps its slot's (03 R81, R86). -/
def startTh (p : Prod) (j : TileJob) (sl : Slot) (m : Nat) : W32 :=
  if j.mode ≥ 2 then sl.th.getD (m - j.rb * 256) 0x3F800000#32 else p.thRef m
def startTs (p : Prod) (j : TileJob) (sl : Slot) (n : Nat) : W32 :=
  if j.mode ≥ 2 then sl.ts.getD (n - j.vg * 64) 0x3F800000#32 else p.tsRef n

/-- The folds of a starting tile's operands, and whether one breaks its rule (03 R705). -/
def startPairs (p : Prod) (i : Infl) (j : TileJob) (sl : Slot) :=
  p.pairs (startTh p j sl) (startTs p j sl) (tileRows i j).1 (tileRows i j).2
def badStart (p : Prod) (i : Infl) (j : TileJob) (sl : Slot) : Bool :=
  (startPairs p i j sl).any fun q => q.2.2.2.2.2 = .badFold

/-- The tile's sideboard terms with their outputs. -/
def sigmaList (i : Infl) (j : TileJob) : List (Nat × Nat × Option W32) :=
  (tileRows i j).1.zipIdx.flatMap fun (m, a) => (tileRows i j).2.zipIdx.map fun (n, b) => (m, n, (j.sigma.getD a []).getD b none)

/-- The slot a starting tile takes, and the flags of moving a continued tile to its new anchor (03 R81, R86, R102; 07
R242). -/
def startSlot (p : Prod) (i : Infl) (j : TileJob) (sl : Slot) : Slot × Flags :=
  let (ms, ns) := tileRows i j
  let cont := j.mode ≥ 2
  let own := if p.lower then lowerRef p (startTh p j sl) (startTs p j sl) (startPairs p i j sl) (sigmaList i j)
    else upperAnchor (startPairs p i j sl)
  let new : Option Int := match (if cont then sl.anchor else none), own with
    | some a, some b => some (if p.lower then max a b else min a b)
    | some a, none => some a
    | none, b => b
  let moved : List (List (Acc × Flags)) := match (if cont then sl.anchor else none), new with
    | some a, some b => sl.outs.map fun row => row.map fun o => if a = b then (o, 0) else reanchor p.lower a b o
    | _, _ => sl.outs.map fun row => row.map fun o => (o, (0 : Flags))
  let outs := if cont then moved.map fun row => row.map fun o => { o.1 with short := false, sg := false }
    else ms.map fun _ => ns.map fun _ => {}
  ({ st := .filling, uid := j.uid, ord := j.ord, dest := i.w.c.toNat, epoch := i.epoch
     anchor := new, th := ms.map (startTh p j sl), ts := ns.map (startTs p j sl), outs := outs
     pend := if cont then sl.pend else [] },
   if cont then (moved.flatMap id).foldl (fun f o => f ||| o.2) 0 else 0)

/-! Tasting (04 R146; 05 R166) -/

/-- The tasting buffer's copy of rows r0 to r0 + n − 1 of an operand from offset `base`: elements as G16 under the operand's own
scales, then SC8 and TS32; the descriptor that describes it, and the buffer. A16 codes round to nearest even; FP32 operands, to
which no conversion is given, too (log 15). -/
def toTasting (v : View) (r0 n base : Nat) (m : Mem) : Desc × Mem :=
  let d := v.d
  let rb := if d.scaled then d.nb * d.bs * 2 else 2 * d.dim0
  let sc := base + n * rb
  let ts := sc + n * d.nb
  let code (row i : Nat) : Nat := if d.scaled then (encIeee 7 .rne (v.codeVal row i)).1 else (encIeee 7 .rne (decElem d.fmt (v.code row i))).1
  let m1 := (List.range n).foldl (fun m a => (List.range d.dim0).foldl (fun m i => m.setLe (base + a * rb + 2 * i) 2 (code (r0 + a) i)) m) m
  let m2 := if !d.scaled then m1 else (List.range n).foldl (fun m a =>
    let m := (List.range d.nb).foldl (fun m b => m.setLe (sc + a * d.nb + b) 1 (v.sc (r0 + a) (b * d.bs))) m
    (List.range d.tpr).foldl (fun m t => m.setLe (ts + 4 * (a * d.tpr + t)) 4 (v.ts (r0 + a) (t * d.bpt * d.bs)).toNat) m) m1
  ({ d with
      base := base, sc8 := sc, ts32 := ts, zp8 := 0, status := 0, hdr := 0, sb := 0, chan := 0, dim1 := n, dim2 := 1, dim3 := 1
      str1 := rb, str2 := 0, str3 := 0, fmt := fmtG16, attr := if d.scaled then 0x10 else 0, sbK := 0, nchan := 0 }, m2)

/-- A tasted tile enters the tasting queue with its operands, and with what its slot held (04 R146, R147). -/
def tasteJob (p : Prod) (i : Infl) (j : TileJob) (t : Nat) (sl : Slot) : TasteJob :=
  let (ms, ns) := tileRows i j
  let nh := ms.length + p.fr - 1
  let (hd, m1) := toTasting p.h (j.rb * 256) nh 0 []
  let (sd, m2) := toTasting p.s (j.vg * 64 * p.fr) (ns.length * p.fr) (hd.ts32 + 4 * hd.tpr * nh) m1
  { uid := j.uid, ord := j.ord, mode := j.mode, trellis := t, dest := i.descs.getD 2 (Desc.parse (fun _ => 0) 0)
    buf := m2, h := hd, s := sd, fr := p.fr, stride := p.stride, ms := ms, ns := ns, sigma := j.sigma
    start := if j.mode < 2 then [] else sl.outs.zipIdx.map fun (row, a) => row.zipIdx.map fun (o, b) =>
      outExact p.lower sl.anchor (sl.th.getD a 0x3F800000#32) (sl.ts.getD b 0x3F800000#32) o }

/-- The product that a tasting tile forms on a lower trellis, in S1 casks. -/
def TasteJob.prod (q : TasteJob) : Prod :=
  { h := { d := q.h, rd := fun a => q.buf.nat a, off := id }, s := { d := q.s, rd := fun a => q.buf.nat a, off := id }
    cask := 0, fr := q.fr, stride := q.stride }

/-- One output of the wide recomputation, exactly: every segment on the lower trellis under the tile's own reference exponent,
then what the slot held before the tile (04 R146; log 15). -/
def TasteJob.wide (q : TasteJob) (eref : Option Int) (segs : List HeldSeg) (a b : Nat) : Fv :=
  let p := q.prod
  let sig := (q.sigma.getD a []).getD b none
  let o := segs.foldl (fun o hs => (lowerSeg p hs eref (p.thRef a) (p.tsRef b) a b a sig o).1) ({} : Acc)
  let v := outExact true eref (p.thRef a) (p.tsRef b) (lowerEnd eref (p.thRef a) (p.tsRef b) sig o).1
  match (q.start[a]?).bind fun row => row[b]? with
  | some x => fvAdd x v
  | none => v

/-- Row and position in the destination of each output of a tasted tile, with its held row and vector in the tile. -/
def TasteJob.places (q : TasteJob) : List (Nat × Nat × Nat × Nat) :=
  q.ms.zipIdx.flatMap fun (m, a) => q.ns.zipIdx.map fun (n, b) =>
    (if q.dest.heldMajor then n else m, if q.dest.heldMajor then m else n, a, b)

/-- The narrow outputs of a tasted tile as written, those of invalid blocks left out (05 R165, R166). -/
def TasteJob.written (q : TasteJob) (v : View) : List (Nat × Nat × Fv) :=
  q.places.filterMap fun (row, i, _, _) => if v.invalid row i then none else some (row, i, v.exact row i)

/-- Outputs of the wide recomputation as FP32, by destination row and position (04 R146, 05 R166). -/
def TasteJob.outs (q : TasteJob) : List (Nat × Nat × W32) :=
  let p := q.prod
  let ms := List.range q.ms.length
  let ns := List.range q.ns.length
  let sig := ms.flatMap fun a => ns.map fun b => (a, b, (q.sigma.getD a []).getD b none)
  let eref := lowerRef p p.thRef p.tsRef (p.pairs p.thRef p.tsRef ms ns) sig
  let segs := (List.range p.segs.length).map fun g => p.loadSeg ms none q.uid q.ord g
  q.places.map fun (row, i, a, b) => (row, i, (encFp32 (q.wide eref segs a b)).1)

/-- A tile enters the feeder: it leaves the queue, takes its slot, raises the flags of re-anchoring, is tasted if chosen, is
traced, its first segment becomes current, and the queue has a place for a tile of the sequencer (03 R102, R106; 04 R146; 06
R209). -/
def State.startTile (s : State) (r t : Nat) (i : Infl) (j : TileJob) (rest : List TileJob) (sf : Slot × Flags) : State :=
  let q := tasteJob (prodOf s r j.uid i) i j t sf.1
  let s1 := (s.modTrellis r t fun y => { y with queue := rest, flying := y.flying ++ [j], slots := y.slots.set j.slot sf.1 }).trFlags r t sf.2
  let s2 := if j.taste then s1.modRoom r fun y => { y with taste := y.taste ++ [q] } else s1
  let s3 := s2.trace r t tyTILE_START ((s.room r).lease.map (·.1)) (leBytes 8 i.pc ++ leBytes 4 j.ord ++ leBytes 1 j.slot ++ leBytes 2 i.epoch)
  (s3.freeShadow r t).feedRoom r

/-- The first digit of the queue's head enters the feeder: anchor or reference exponent, slot taken, tasting queued; a trellis idle
for more than 1 µs takes a start token of its wing, or waits for one (03 R81, R86, R102 to R105, R705; 04 R145, R147; 07 R242;
20 R666, R667). -/
def effTileFirstDigit (r t : Nat) (s : State) : State :=
  let x := s.trellis r t
  match x.queue with
  | [] => s
  | j :: rest =>
    match s.findInfl r j.uid with
    | none => s
    | some i =>
      if !headReady (s.room r) x j then s
      else
        let sl := x.slots.getD j.slot {}
        match slotStart i j sl with
        | .waits => s
        | .faults f => s.roomFault r i.pc f
        | .starts =>
          let p := prodOf s r j.uid i
          if s.needsToken x && s.tokensLeft (r / 36) = 0 then s
          else if !s.admitsTile r t then s.withhold
          else
            let s0 := if s.needsToken x then s.takeToken (r / 36) else s
            let s1 := s0.chargeTile r p.lower
            if badStart p i j sl then s1.roomFault r i.pc .format
            else s1.startTile r t i j rest (startSlot p i j sl)

/-- Outputs of a tile as its last wave leaves them, with flags: sideboard terms still to add are added; those of a corrupted tile
are free (04 R143; 03 Table 3.10). -/
def waveOuts (s : State) (p : Prod) (i : Infl) (j : TileJob) (sl : Slot) : List (List (Acc × Flags)) :=
  (tileRows i j).1.zipIdx.map fun (_, a) => (tileRows i j).2.zipIdx.map fun (_, b) =>
    let r := p.outEnd sl.anchor (sl.th.getD a 0x3F800000#32) (sl.ts.getD b 0x3F800000#32) ((j.sigma.getD a []).getD b none)
      ((sl.outs.getD a []).getD b {})
    if j.corrupt then ({ r.1 with a := Config.corrupt s.free a b }, r.2) else r

/-- The headroom entries, by VA, of the tile's held rows whose short runs overflowed (04 R127, R128). -/
def pendOf (i : Infl) (j : TileJob) (outs : List (List Acc)) : List Nat :=
  let h := i.descs.getD 0 (Desc.parse (fun _ => 0) 0)
  if h.hdr = 0 then []
  else ((tileRows i j).1.zip outs).filterMap fun (m, row) => if row.any (·.short) then some (h.hdr + 2 * (m / h.hrG)) else none

/-- A tile's last wave is written into its slot: the tile complete or held open, its passes and skipped planes counted (03 R72,
R91; 04 R128, R143; 06 R209; 07 Table 7.7). -/
def State.lastWave (s : State) (r t : Nat) (i : Infl) (j : TileJob) (rest : List TileJob) (sl : Slot) : State :=
  let p := prodOf s r j.uid i
  let outs := waveOuts s p i j sl
  let s := if j.corrupt then { s with free := s.free + 1 } else s
  let fl := (outs.flatMap id).foldl (fun f o => f ||| o.2) (0 : Flags)
  let accs := outs.map fun row => row.map (·.1)
  let open' := j.mode = 1 || j.mode = 2
  let slot := { sl with st := if open' then .opened else .complete, outs := accs, pend := sl.pend ++ pendOf i j accs }
  let s1 := s.modTrellis r t fun y => { y with
    flying := rest, slots := y.slots.set j.slot slot, drains := if open' then y.drains else y.drains ++ [j]
    idleSince := if rest.isEmpty then s.now else y.idleSince }
  let s2 := (s1.trFlags r t (fl &&& ~~~fINX)).lndFlags r (fl &&& fINX)
  let s3 := (((s2.trace r t tyTILE_END ((s.room r).lease.map (·.1))
    (leBytes 8 i.pc ++ leBytes 4 j.ord ++ leBytes 1 j.slot ++ leBytes 2 i.epoch)).bump fmTRELLIS (12 * r + t) 7 1).bump fmTRELLIS
    (12 * r + t) 1 (j.skips * j.passes)).bump fmTRELLIS (12 * r + t) 5 (j.passes - 1)
  if open' then s3.modInfl r j.uid fun k => { k with tilesLeft := k.tilesLeft - 1, ready := decide (k.tilesLeft ≤ 1) }
  else s3

/-- The oldest tile in flight, once all of its segments have loaded. -/
def effTileLastWave (r t : Nat) (s : State) : State :=
  let x := s.trellis r t
  match x.flying with
  | [] => s
  | j :: _ =>
    match s.findInfl r j.uid with
    | none => s
    | some i =>
      if j.loaded < j.segs then s
      else
        let s1 := s.freeShadow r t
        match (s1.trellis r t).flying with
        | [] => s1
        | k :: rest => s1.lastWave r t i k rest ((s1.trellis r t).slots.getD k.slot {})

/-- A complete slot drains into its landing port, when the port is empty, and is free (03 R102, R104; 04 R119). -/
def effSlotDrainDone (r t : Nat) (s : State) : State :=
  let x := s.trellis r t
  match x.drains, x.port with
  | j :: rest, none =>
    s.modTrellis r t fun y => { y with drains := rest, port := some (j, y.slots.getD j.slot {}), slots := y.slots.set j.slot {} }
  | _, _ => s

/-- A drained output as the landing converts it (04 R122, R143). -/
def outValue (lower : Bool) (anchor : Option Int) (th ts : W32) (o : Acc) : El := { v := outExact lower anchor th ts o, sat := o.sat }

/-- Convert stretches of destination rows in order: (row, first position, elements). -/
def convRows (s : State) (r c : Nat) (d : Desc) (segs : List (Nat × Nat × List El)) (m : Mem) : SegOut :=
  segs.foldl (fun acc (row, c0, els) =>
    let o := convSeg d (s.convPar r c d row) row c0 els acc.mem
    { mem := o.mem, flags := acc.flags ||| o.flags, counts := acc.counts ++ o.counts, meas := acc.meas ++ o.meas })
    { mem := m, flags := 0, counts := [], meas := [] }

/-- Stretches of destination rows that a drained tile fills: (row, first position, elements). -/
def landSegs (i : Infl) (j : TileJob) (sl : Slot) (lower : Bool) : List (Nat × Nat × List El) :=
  let d := i.descs.getD 2 (Desc.parse (fun _ => 0) 0)
  let (ms, ns) := tileRows i j
  let el (a b : Nat) : El :=
    outValue lower sl.anchor (sl.th.getD a 0x3F800000#32) (sl.ts.getD b 0x3F800000#32) ((sl.outs.getD a []).getD b {})
  if d.heldMajor then ns.zipIdx.map fun (n, b) => (n, j.rb * 256, (List.range ms.length).map fun a => el a b)
  else ms.zipIdx.map fun (m, a) => (m, j.vg * 64, (List.range ns.length).map fun b => el a b)

/-- The landing has converted a tile's outputs and written the destination: codes, scales, map, counts, PEND, the errors of
destination tiles that are now whole, and the outputs a tasting compares; the last tile makes the instruction ready (04 R120,
R122, R128; 05 R165, R166; 06 R209). -/
def State.landTile (s : State) (r t : Nat) (i : Infl) (j : TileJob) (sl : Slot) : State :=
  let c := ((s.room r).lease.map (·.1)).getD 0
  let d := i.descs.getD 2 (Desc.parse (fun _ => 0) 0)
  let segs := landSegs i j sl (t ≥ 8)
  let o := convRows s r c d segs (s.room r).pantry
  let s1 := (s.putPantry r j.uid d.ranges o.mem).bump fmLANDING r 0 (segs.map fun x => x.2.2.length).sum
  let s2 := (s1.lndFlags r o.flags).addCounts c d o.counts
  let s3 := sl.pend.foldl (fun u a => u.setPendAt c a) s2
  let (whole, part) := wholeMeas d (i.meas ++ o.meas)
  let s4 := s3.modInfl r j.uid fun k => { k with meas := part, tilesLeft := k.tilesLeft - 1, ready := decide (k.tilesLeft ≤ 1) }
  let s5 := s4.addMeas c d whole
  let v : View := { d := d, rd := fun a => o.mem.nat a }
  (s5.modTrellis r t fun y => { y with port := none }).modRoom r fun y =>
    { y with taste := y.taste.map fun q => if q.uid = j.uid ∧ q.ord = j.ord then { q with landed := true, y := q.written v } else q }

/-- A landing port's tile. -/
def effLandingConvertDone (r t : Nat) (s : State) : State :=
  match (s.trellis r t).port with
  | none => s
  | some (j, sl) =>
    match s.findInfl r j.uid with
    | none => s.modTrellis r t fun y => { y with port := none }
    | some i => s.landTile r t i j sl

/-- Square root of an FP32 magnitude, correctly rounded: the floor of the root at 60 extra bits decides the rounding. -/
def sqrtFp32 (a : Rat) : W32 :=
  if a = 0 then 0
  else
    let e := ratLog2 a / 2
    let sh : Int := 60 - 2 * e
    let n := (a * pow2 (if sh % 2 = 0 then sh else sh + 1)).floor.toNat
    let sh' := if sh % 2 = 0 then sh else sh + 1
    let rt := Nat.sqrt n
    let exact : Bool := rt * rt = n
    let q : Rat := (((2 * rt + if exact then 0 else 1 : Nat) : Rat)) * pow2 (-(sh' / 2) - 1)
    (encFp32 (.fin false q)).1

/-- A tile whose disagreement exceeds TASTE_FAULT is kept, with its operands and its written outputs, for its replays (15 R538). -/
def State.keepTaste (s : State) (c r : Nat) (q : TasteJob) (y : List (Nat × Nat × Fv)) : State :=
  let n := s.tst.nextReplay
  { s with tst := { s.tst with
    nextReplay := n + 1
    replays := s.tst.replays ++ [{ id := n, ctx := c, step := (s.stepHdr c).step, room := r, uid := q.uid, ord := q.ord, job := q, y := y }] } }

/-- Written narrow outputs with the wide ones of their places (05 R166). -/
def tastePairs (ys : List (Nat × Nat × Fv)) (outs : List (Nat × Nat × W32)) : List (Nat × Nat × Fv × W32) :=
  outs.filterMap fun (row, i, w) => (ys.find? fun x => x.1 = row ∧ x.2.1 = i).map fun x => (row, i, x.2.2, w)

/-- Disagreement d of a tasted tile: the root of the squared difference over the square; none where it is NaN, infinite beyond any
number where the quotient is (05 R166). The spec does not say whether the decoded y is rounded to FP32 before the difference is formed;
it is here: DESIGN CHOICE (log 15). -/
def tasteDisagree (ps : List (Nat × Nat × Fv × W32)) : Fv :=
  let ms := ps.map fun (_, _, y, w) =>
    let df := (encFp32 (fvAdd (decFp32 (encFp32 y).1) (fvNeg (decFp32 w)))).1
    ({ tile := 0, idx := 0, d2 := (mulF df df).1, v2 := (mulF w w).1 } : Meas)
  let sums := ms.foldl (fun (a : W32 × W32) x => ((addF a.1 x.d2).1, (addF a.2 x.v2).1)) (0, 0)
  match decFp32 sums.1, decFp32 sums.2 with
  | .fin _ a, .fin _ b =>
    if b = 0 then .fin false 0 else match decFp32 (encFp32 (.fin false (a / b))).1 with
    | .fin _ q => decFp32 (sqrtFp32 q)
    | _ => .inf false
  | .fin _ _, .inf _ => .fin false 0
  | .inf _, .fin _ _ => .inf false
  | _, _ => .nan

/-- d in units of 2^−32, floored and saturated; a NaN has no stated floor (05 R166, log 8). -/
def disUnits (d : Fv) : Nat :=
  match d with
  | .fin _ a => min 0xFFFFFFFF (a * 2 ^ 32).floor.toNat
  | .inf _ => 0xFFFFFFFF
  | .nan => Config.nanError.toNat
/-- d exceeds a threshold in units of 2^−32. -/
def disAbove (d : Fv) (lim : Nat) : Bool :=
  match d with
  | .fin _ a => decide (a * 2 ^ 32 > (lim : Rat))
  | .inf _ => true
  | .nan => decide (Config.nanError.toNat > lim)

/-- The wide recomputation of a tasted tile ends: its disagreement enters the layer's record, and above TASTE_FAULT the tile is
reported (05 R166; 14 Table 14.5). A tile that stays OPEN or MORE has written no narrow output of its own to compare: DESIGN CHOICE
(log 15). -/
def State.tasteDone (s : State) (r : Nat) (q : TasteJob) (rest : List TasteJob) : State :=
  let c := ((s.room r).lease.map (·.1)).getD 0
  let d := q.dest
  let s1 := (s.modRoom r fun x => { x with taste := rest }).bump fmLANDING r 2 1
  if q.mode = 1 ∨ q.mode = 2 then s1.addCounts c d [(0x50, 1)]
  else
    let ps := tastePairs q.y q.outs
    let dv := tasteDisagree ps
    let dis := disUnits dv
    let s2 := s1.addCounts c d [(0x50, 1), (0x78, dis)]
    if d.layer < s.ladSize c then
      let a := s2.statRec c d.layer d.ladder + 0x80
      let s3 := if s2.ctxLe c a 4 < dis then s2.ctxSetLe c a 4 dis else s2
      let lim := s3.ctxLe c (((s.ctx c).map (·.d.policy)).getD 0 + 0x38) 4
      if disAbove dv lim then
        (((s3.addCounts c d [(0x84, 1)]).postEvent c evTASTE).riskEvent 4 0).keepTaste c r q (ps.map fun x => (x.1, x.2.1, x.2.2.1))
      else s3
    else s2

/-- The oldest tasted tile of a room, once its narrow outputs have landed and the power manager admits the tasting tile (04 R146,
R147; 01 Table 1.7). -/
def effTastingRecomputeDone (r : Nat) (s : State) : State :=
  match (s.room r).taste with
  | [] => s
  | q :: rest =>
    if !(q.landed || q.mode = 1 || q.mode = 2) then s
    else if !s.admitsTaste r then s.withhold
    else (s.chargeMw (s.tileEst true)).tasteDone r q rest

/-- An instruction completes when every write it makes is visible: its token counts (06 R189). -/
def effInstructionComplete (r uid : Nat) (s : State) : State :=
  match s.findInfl r uid with
  | some i => if i.ready then s.complete r uid else s
  | none => s

/-! Meanings -/

def execTTmul (r : Nat) (w : TWord) (s : State) := run [bRoom r] s (effTen 0x20#8 r w s)
def execTTmulOpen (r : Nat) (w : TWord) (s : State) := run [bRoom r] s (effTen 0x21#8 r w s)
def execTTmulMore (r : Nat) (w : TWord) (s : State) := run [bRoom r] s (effTen 0x22#8 r w s)
def execTTmulClose (r : Nat) (w : TWord) (s : State) := run [bRoom r] s (effTen 0x23#8 r w s)
def execTTconv (r : Nat) (w : TWord) (s : State) := run [bRoom r] s (effTen 0x24#8 r w s)
def execTTconvOpen (r : Nat) (w : TWord) (s : State) := run [bRoom r] s (effTen 0x25#8 r w s)
def execTTconvMore (r : Nat) (w : TWord) (s : State) := run [bRoom r] s (effTen 0x26#8 r w s)
def execTTconvClose (r : Nat) (w : TWord) (s : State) := run [bRoom r] s (effTen 0x27#8 r w s)
def execSegmentLoadDone (r t : Nat) (s : State) := run [bRoom r] s (s.live (effSegmentLoadDone r t s))
def execTileFirstDigit (r t : Nat) (s : State) := run [bRoom r] s (s.live (effTileFirstDigit r t s))
def execSideboardTermsReady (r t : Nat) (s : State) := run [bRoom r] s (s.live (effSideboardTermsReady r t s))
def execTileLastWave (r t : Nat) (s : State) := run [bRoom r] s (s.live (effTileLastWave r t s))
def execSlotDrainDone (r t : Nat) (s : State) := run [bRoom r] s (s.live (effSlotDrainDone r t s))
def execLandingConvertDone (r t : Nat) (s : State) := run [bRoom r] s (s.live (effLandingConvertDone r t s))
def execTastingRecomputeDone (r : Nat) (s : State) := run [bRoom r] s (s.live (effTastingRecomputeDone r s))
def execInstructionComplete (r uid : Nat) (s : State) := run [bRoom r] s (s.live (effInstructionComplete r uid s))

end Sys2Proof.Machine
end

