-- ==== Sys2Proof/Machine/Dispatch.lean ====
section
/-! DEFINITION. Dispatch: one arm per command, each one call of its meaning. -/

namespace Sys2Proof.Machine

/-- The effect of one command on everything but the queue. -/
def exec (i : Instr) (s : State) : Host.Outcome State Fault Refusal :=
  match i with
  | .tNop r w => Sys2Proof.Machine.execTNop r w s
  | .tEnd r w => Sys2Proof.Machine.execTEnd r w s
  | .tBr r w => Sys2Proof.Machine.execTBr r w s
  | .tWait r w => Sys2Proof.Machine.execTWait r w s
  | .waitRelease r => Sys2Proof.Machine.execWaitRelease r s
  | .tFence r w => Sys2Proof.Machine.execTFence r w s
  | .fenceRelease r => Sys2Proof.Machine.execFenceRelease r s
  | .tBarrier r w => Sys2Proof.Machine.execTBarrier r w s
  | .barrierRelease c sl g => Sys2Proof.Machine.execBarrierRelease c sl g s
  | .tSets r w => Sys2Proof.Machine.execTSets r w s
  | .tAdds r w => Sys2Proof.Machine.execTAdds r w s
  | .tLds r w => Sys2Proof.Machine.execTLds r w s
  | .tSts r w => Sys2Proof.Machine.execTSts r w s
  | .tDput r w => Sys2Proof.Machine.execTDput r w s
  | .tTokrd r w => Sys2Proof.Machine.execTTokrd r w s
  | .tMov r w => Sys2Proof.Machine.execTMov r w s
  | .tMovb r w => Sys2Proof.Machine.execTMovb r w s
  | .tTmul r w => Sys2Proof.Machine.execTTmul r w s
  | .tTmulOpen r w => Sys2Proof.Machine.execTTmulOpen r w s
  | .tTmulMore r w => Sys2Proof.Machine.execTTmulMore r w s
  | .tTmulClose r w => Sys2Proof.Machine.execTTmulClose r w s
  | .tTconv r w => Sys2Proof.Machine.execTTconv r w s
  | .tTconvOpen r w => Sys2Proof.Machine.execTTconvOpen r w s
  | .tTconvMore r w => Sys2Proof.Machine.execTTconvMore r w s
  | .tTconvClose r w => Sys2Proof.Machine.execTTconvClose r w s
  | .tSpmv r w => Sys2Proof.Machine.execTSpmv r w s
  | .tVadd r w => Sys2Proof.Machine.execTVadd r w s
  | .tVsub r w => Sys2Proof.Machine.execTVsub r w s
  | .tVmul r w => Sys2Proof.Machine.execTVmul r w s
  | .tVfma r w => Sys2Proof.Machine.execTVfma r w s
  | .tVmax r w => Sys2Proof.Machine.execTVmax r w s
  | .tVmin r w => Sys2Proof.Machine.execTVmin r w s
  | .tVexp2 r w => Sys2Proof.Machine.execTVexp2 r w s
  | .tVlog2 r w => Sys2Proof.Machine.execTVlog2 r w s
  | .tVrcp r w => Sys2Proof.Machine.execTVrcp r w s
  | .tVrsq r w => Sys2Proof.Machine.execTVrsq r w s
  | .tVsum r w => Sys2Proof.Machine.execTVsum r w s
  | .tVlse r w => Sys2Proof.Machine.execTVlse r w s
  | .tVlsem r w => Sys2Proof.Machine.execTVlsem r w s
  | .tVscl r w => Sys2Proof.Machine.execTVscl r w s
  | .tVadam r w => Sys2Proof.Machine.execTVadam r w s
  | .tCvt r w => Sys2Proof.Machine.execTCvt r w s
  | .tHrclr r w => Sys2Proof.Machine.execTHrclr r w s
  | .tFlgrc r w => Sys2Proof.Machine.execTFlgrc r w s
  | .tSopen r w => Sys2Proof.Machine.execTSopen r w s
  | .tDraw r w => Sys2Proof.Machine.execTDraw r w s
  | .tRewind r w => Sys2Proof.Machine.execTRewind r w s
  | .tSclose r w => Sys2Proof.Machine.execTSclose r w s
  | .tStell r w => Sys2Proof.Machine.execTStell r w s
  | .tColl r w => Sys2Proof.Machine.execTColl r w s
  | .tRack r w => Sys2Proof.Machine.execTRack r w s
  | .tReshard r w => Sys2Proof.Machine.execTReshard r w s
  | .tPublish r w => Sys2Proof.Machine.execTPublish r w s
  | .publishAct c sl peers => Sys2Proof.Machine.execPublishAct c sl peers s
  | .tLquery r w => Sys2Proof.Machine.execTLquery r w s
  | .tLset r w => Sys2Proof.Machine.execTLset r w s
  | .tBudget r w => Sys2Proof.Machine.execTBudget r w s
  | .tCheck r w => Sys2Proof.Machine.execTCheck r w s
  | .checkAct c sl peers => Sys2Proof.Machine.execCheckAct c sl peers s
  | .tCommit r w => Sys2Proof.Machine.execTCommit r w s
  | .commitAct c sl steps => Sys2Proof.Machine.execCommitAct c sl steps s
  | .tAdvance r w => Sys2Proof.Machine.execTAdvance r w s
  | .advanceAct c sl steps => Sys2Proof.Machine.execAdvanceAct c sl steps s
  | .tAbort r w => Sys2Proof.Machine.execTAbort r w s
  | .abortAct c sl steps => Sys2Proof.Machine.execAbortAct c sl steps s
  | .swapAck r => Sys2Proof.Machine.execSwapAck r s
  | .tTrig r w => Sys2Proof.Machine.execTTrig r w s
  | .tMark r w => Sys2Proof.Machine.execTMark r w s
  | .tSnap r w => Sys2Proof.Machine.execTSnap r w s
  | .tCaps r w => Sys2Proof.Machine.execTCaps r w s
  | .segmentLoadDone r t => Sys2Proof.Machine.execSegmentLoadDone r t s
  | .tileFirstDigit r t => Sys2Proof.Machine.execTileFirstDigit r t s
  | .sideboardTermsReady r t => Sys2Proof.Machine.execSideboardTermsReady r t s
  | .tileLastWave r t => Sys2Proof.Machine.execTileLastWave r t s
  | .slotDrainDone r t => Sys2Proof.Machine.execSlotDrainDone r t s
  | .landingConvertDone r t => Sys2Proof.Machine.execLandingConvertDone r t s
  | .tastingRecomputeDone r => Sys2Proof.Machine.execTastingRecomputeDone r s
  | .instructionComplete r uid => Sys2Proof.Machine.execInstructionComplete r uid s
  | .moverUnitDone r uid => Sys2Proof.Machine.execMoverUnitDone r uid s
  | .roomLaunchEnd r => Sys2Proof.Machine.execRoomLaunchEnd r s
  | .launchComplete c sl => Sys2Proof.Machine.execLaunchComplete c sl s
  | .launchFaultEnd c sl => Sys2Proof.Machine.execLaunchFaultEnd c sl s
  | .launchSeqWrite c sl seq => Sys2Proof.Machine.execLaunchSeqWrite c sl seq s
  | .launchHeldSeq c sl => Sys2Proof.Machine.execLaunchHeldSeq c sl s
  | .launchRangeStart c sl => Sys2Proof.Machine.execLaunchRangeStart c sl s
  | .preemptRoom r => Sys2Proof.Machine.execPreemptRoom r s
  | .restoreRoom c li r => Sys2Proof.Machine.execRestoreRoom c li r s
  | .quantumExpiry c => Sys2Proof.Machine.execQuantumExpiry c s
  | .sliceOut c => Sys2Proof.Machine.execSliceOut c s
  | .sliceIn c rooms => Sys2Proof.Machine.execSliceIn c rooms s
  | .stewardFaultResolve wid => Sys2Proof.Machine.execStewardFaultResolve wid s
  | .faultFillDone wid => Sys2Proof.Machine.execFaultFillDone wid s
  | .faultTmoExpiry wid => Sys2Proof.Machine.execFaultTmoExpiry wid s
  | .moverResume r uid => Sys2Proof.Machine.execMoverResume r uid s
  | .vintnerEvaluate c => Sys2Proof.Machine.execVintnerEvaluate c s
  | .vintnerFirmwareEval c => Sys2Proof.Machine.execVintnerFirmwareEval c s
  | .ctxCreate q rooms => Sys2Proof.Machine.execCtxCreate q rooms s
  | .ctxDestroy q => Sys2Proof.Machine.execCtxDestroy q s
  | .ctxReset q rooms => Sys2Proof.Machine.execCtxReset q rooms s
  | .pressOpen q => Sys2Proof.Machine.execPressOpen q s
  | .pressClose q => Sys2Proof.Machine.execPressClose q s
  | .rackOpen q => Sys2Proof.Machine.execRackOpen q s
  | .rackClose q => Sys2Proof.Machine.execRackClose q s
  | .restore q => Sys2Proof.Machine.execRestore q s
  | .reshardAbandon q => Sys2Proof.Machine.execReshardAbandon q s
  | .faultRing q => Sys2Proof.Machine.execFaultRing q s
  | .faultAnswer q => Sys2Proof.Machine.execFaultAnswer q s
  | .retiredRead q => Sys2Proof.Machine.execRetiredRead q s
  | .groupCounters q => Sys2Proof.Machine.execGroupCounters q s
  | .state q => Sys2Proof.Machine.execState q s
  | .lifeRead q => Sys2Proof.Machine.execLifeRead q s
  | .sigExport q => Sys2Proof.Machine.execSigExport q s
  | .fwCommit q => Sys2Proof.Machine.execFwCommit q s
  | .floorRaise q => Sys2Proof.Machine.execFloorRaise q s
  | .keyRotate q => Sys2Proof.Machine.execKeyRotate q s
  | .testOverride q => Sys2Proof.Machine.execTestOverride q s
  | .takeover q => Sys2Proof.Machine.execTakeover q s
  | .rasDisable q => Sys2Proof.Machine.execRasDisable q s
  | .scanOut q => Sys2Proof.Machine.execScanOut q s
  | .debugUnlock q => Sys2Proof.Machine.execDebugUnlock q s
  | .lifeErase q => Sys2Proof.Machine.execLifeErase q s
  | .fwBegin q => Sys2Proof.Machine.execFwBegin q s
  | .fwPart q => Sys2Proof.Machine.execFwPart q s
  | .fwFetch q => Sys2Proof.Machine.execFwFetch q s
  | .fwStatus q => Sys2Proof.Machine.execFwStatus q s
  | .fwAbort q => Sys2Proof.Machine.execFwAbort q s
  | .attestQuote q => Sys2Proof.Machine.execAttestQuote q s
  | .attestKey q => Sys2Proof.Machine.execAttestKey q s
  | .nspDatagram d => Sys2Proof.Machine.execNspDatagram d s
  | .nspReassemblyTimeout src reqId => Sys2Proof.Machine.execNspReassemblyTimeout src reqId s
  | .icmpv6Message m => Sys2Proof.Machine.execIcmpv6Message m s
  | .i3cEntdaa addr => Sys2Proof.Machine.execI3cEntdaa addr s
  | .mctpSetEndpointId eid => Sys2Proof.Machine.execMctpSetEndpointId eid s
  | .pldmRequest p => Sys2Proof.Machine.execPldmRequest p s
  | .bar2Access off len data ecc => Sys2Proof.Machine.execBar2Access off len data ecc s
  | .pcieConfigRequest pf off data => Sys2Proof.Machine.execPcieConfigRequest pf off data s
  | .flrPf0 rooms => Sys2Proof.Machine.execFlrPf0 rooms s
  | .ptmDialogue host => Sys2Proof.Machine.execPtmDialogue host s
  | .registerWrite acc off v => Sys2Proof.Machine.execRegisterWrite acc off v s
  | .registerLowWordRead acc off => Sys2Proof.Machine.execRegisterLowWordRead acc off s
  | .mmuInvalidate acc v => Sys2Proof.Machine.execMmuInvalidate acc v s
  | .rowmapWrite acc r t hi v => Sys2Proof.Machine.execRowmapWrite acc r t hi v s
  | .portDisable p => Sys2Proof.Machine.execPortDisable p s
  | .portDisableClear p => Sys2Proof.Machine.execPortDisableClear p s
  | .traceTrig src => Sys2Proof.Machine.execTraceTrig src s
  | .traceRecord island => Sys2Proof.Machine.execTraceRecord island s
  | .lifetimeWriteNow programOk => Sys2Proof.Machine.execLifetimeWriteNow programOk s
  | .lifetimeTimer programOk m => Sys2Proof.Machine.execLifetimeTimer programOk m s
  | .drainComplete programOk => Sys2Proof.Machine.execDrainComplete programOk s
  | .powerMeasure watts energy => Sys2Proof.Machine.execPowerMeasure watts energy s
  | .supplyDroop r mv => Sys2Proof.Machine.execSupplyDroop r mv s
  | .droopHold r => Sys2Proof.Machine.execDroopHold r s
  | .throttleTick m => Sys2Proof.Machine.execThrottleTick m s
  | .thermalCritical m => Sys2Proof.Machine.execThermalCritical m s
  | .thermalTrip m => Sys2Proof.Machine.execThermalTrip m s
  | .selftestStageDone o => Sys2Proof.Machine.execSelftestStageDone o s
  | .reshardResume c => Sys2Proof.Machine.execReshardResume c s
  | .reshardRound c => Sys2Proof.Machine.execReshardRound c s
  | .portSignalDetect p => Sys2Proof.Machine.execPortSignalDetect p s
  | .portTrainingDone p => Sys2Proof.Machine.execPortTrainingDone p s
  | .portFecLock p => Sys2Proof.Machine.execPortFecLock p s
  | .portLossOfLock p => Sys2Proof.Machine.execPortLossOfLock p s
  | .portLossOfSignal p => Sys2Proof.Machine.execPortLossOfSignal p s
  | .retrainTimeout p => Sys2Proof.Machine.execRetrainTimeout p s
  | .trainFlit p f => Sys2Proof.Machine.execTrainFlit p f s
  | .dataFlit p f => Sys2Proof.Machine.execDataFlit p f s
  | .nakFlit p l => Sys2Proof.Machine.execNakFlit p l s
  | .idleFlit p l => Sys2Proof.Machine.execIdleFlit p l s
  | .nakRepeatTimeout p => Sys2Proof.Machine.execNakRepeatTimeout p s
  | .replayTimeout p => Sys2Proof.Machine.execReplayTimeout p s
  | .linkLostResend p => Sys2Proof.Machine.execLinkLostResend p s
  | .read k ecc => Sys2Proof.Machine.execRead k ecc s
  | .write k => Sys2Proof.Machine.execWrite k s
  | .atomic k => Sys2Proof.Machine.execAtomic k s
  | .colfragReady k => Sys2Proof.Machine.execColfragReady k s
  | .colfragPause k => Sys2Proof.Machine.execColfragPause k s
  | .colfragData k => Sys2Proof.Machine.execColfragData k s
  | .rackData k => Sys2Proof.Machine.execRackData k s
  | .rackCredit k => Sys2Proof.Machine.execRackCredit k s
  | .rackDropped k => Sys2Proof.Machine.execRackDropped k s
  | .echo k => Sys2Proof.Machine.execEcho k s
  | .timingEcho k t2 => Sys2Proof.Machine.execTimingEcho k t2 s
  | .response k => Sys2Proof.Machine.execResponse k s
  | .requestTimerExpiry tag => Sys2Proof.Machine.execRequestTimerExpiry tag s
  | .vl0Forward p k => Sys2Proof.Machine.execVl0Forward p k s
  | .hello p h t => Sys2Proof.Machine.execHello p h t s
  | .helloSend p => Sys2Proof.Machine.execHelloSend p s
  | .neighbourLost p => Sys2Proof.Machine.execNeighbourLost p s
  | .partnerLost n => Sys2Proof.Machine.execPartnerLost n s
  | .assign k => Sys2Proof.Machine.execAssign k s
  | .route k => Sys2Proof.Machine.execRoute k s
  | .announce k => Sys2Proof.Machine.execAnnounce k s
  | .withdraw k => Sys2Proof.Machine.execWithdraw k s
  | .query k => Sys2Proof.Machine.execQuery k s
  | .snapOffer k => Sys2Proof.Machine.execSnapOffer k s
  | .snapSeal k => Sys2Proof.Machine.execSnapSeal k s
  | .snapLocate k => Sys2Proof.Machine.execSnapLocate k s
  | .suspect k => Sys2Proof.Machine.execSuspect k s
  | .takeoverDone k => Sys2Proof.Machine.execTakeoverDone k s
  | .replicaDrop k => Sys2Proof.Machine.execReplicaDrop k s
  | .stopFlit p f => Sys2Proof.Machine.execStopFlit p f s
  | .tbRootLoad elapsed => Sys2Proof.Machine.execTbRootLoad elapsed s
  | .islandWake island => Sys2Proof.Machine.execIslandWake island s
  | .tbAlign stamps => Sys2Proof.Machine.execTbAlign stamps s
  | .tbMeasure stamps => Sys2Proof.Machine.execTbMeasure stamps s
  | .pressAdmit c cl => Sys2Proof.Machine.execPressAdmit c cl s
  | .pressFetchChunk c id ok => Sys2Proof.Machine.execPressFetchChunk c id ok s
  | .demuxParse c id core => Sys2Proof.Machine.execDemuxParse c id core s
  | .dpbReserve wing => Sys2Proof.Machine.execDpbReserve wing s
  | .videoDecodeAu c id core => Sys2Proof.Machine.execVideoDecodeAu c id core s
  | .audioDecode c id => Sys2Proof.Machine.execAudioDecode c id s
  | .captionExtract c id => Sys2Proof.Machine.execCaptionExtract c id s
  | .tensorizeFrame c id => Sys2Proof.Machine.execTensorizeFrame c id s
  | .assembleSample c id => Sys2Proof.Machine.execAssembleSample c id s
  | .pressLimiterWindow m => Sys2Proof.Machine.execPressLimiterWindow m s
  | .rackSend c g => Sys2Proof.Machine.execRackSend c g s
  | .rackSlotCopy r uid => Sys2Proof.Machine.execRackSlotCopy r uid s
  | .rackDeadlineExpiry r uid => Sys2Proof.Machine.execRackDeadlineExpiry r uid s
  | .digestDone c => Sys2Proof.Machine.execDigestDone c s
  | .riskTick rise => Sys2Proof.Machine.execRiskTick rise s
  | .snapshotStart c risk => Sys2Proof.Machine.execSnapshotStart c risk s
  | .snapshotReadsDone c => Sys2Proof.Machine.execSnapshotReadsDone c s
  | .collatorWindowClose suspect cls => Sys2Proof.Machine.execCollatorWindowClose suspect cls s
  | .collatorDeferredSend suspect cls => Sys2Proof.Machine.execCollatorDeferredSend suspect cls s
  | .collatorEntryExpiry suspect cls => Sys2Proof.Machine.execCollatorEntryExpiry suspect cls s
  | .spareIdleTest r => Sys2Proof.Machine.execSpareIdleTest r s
  | .spareHandoff r spare => Sys2Proof.Machine.execSpareHandoff r spare s
  | .iftDeferExpiry r => Sys2Proof.Machine.execIftDeferExpiry r s
  | .iftTestDone r o => Sys2Proof.Machine.execIftTestDone r o s
  | .allRoomsQuickTest failed => Sys2Proof.Machine.execAllRoomsQuickTest failed s
  | .tasteReplayDone n o => Sys2Proof.Machine.execTasteReplayDone n o s
  | .evidWaitExpiry c => Sys2Proof.Machine.execEvidWaitExpiry c s
  | .scrubPass f => Sys2Proof.Machine.execScrubPass f s
  | .undefinedOpcode r op w => Sys2Proof.Machine.execUndefinedOpcode r op w s
  | .unknownCommand q => Sys2Proof.Machine.execUnknownCommand q s
  | .unknownMgmtMessage k => Sys2Proof.Machine.execUnknownMgmtMessage k s
  | .reservedFtypeFlit p ftype l => Sys2Proof.Machine.execReservedFtypeFlit p ftype l s
  | .droopRecovery r => Sys2Proof.Machine.execDroopRecovery r s
  | .deepIdleGate r => Sys2Proof.Machine.execDeepIdleGate r s
  | .msixTableWrite pf vec masked => Sys2Proof.Machine.execMsixTableWrite pf vec masked s
  | .bmeSet => Sys2Proof.Machine.execBmeSet s
  | .flrPf1 => Sys2Proof.Machine.execFlrPf1 s
  | .mmuInvalDone => Sys2Proof.Machine.execMmuInvalDone s
  | .counterFreeze => Sys2Proof.Machine.execCounterFreeze s
  | .counterSample => Sys2Proof.Machine.execCounterSample s
  | .traceArm => Sys2Proof.Machine.execTraceArm s
  | .traceDisarm => Sys2Proof.Machine.execTraceDisarm s
  | .stopWrite => Sys2Proof.Machine.execStopWrite s
  | .pwrResetWarm => Sys2Proof.Machine.execPwrResetWarm s
  | .pwrResetCold => Sys2Proof.Machine.execPwrResetCold s
  | .drainSet => Sys2Proof.Machine.execDrainSet s
  | .drainClear => Sys2Proof.Machine.execDrainClear s
  | .inputValid => Sys2Proof.Machine.execInputValid s
  | .railGood => Sys2Proof.Machine.execRailGood s
  | .railTimeout => Sys2Proof.Machine.execRailTimeout s
  | .inputUndervolt => Sys2Proof.Machine.execInputUndervolt s
  | .inputLoss => Sys2Proof.Machine.execInputLoss s
  | .inputOvervolt => Sys2Proof.Machine.execInputOvervolt s
  | .excursionLimit => Sys2Proof.Machine.execExcursionLimit s
  | .perstFall => Sys2Proof.Machine.execPerstFall s
  | .watchdogExpiry => Sys2Proof.Machine.execWatchdogExpiry s
  | .fwCopy => Sys2Proof.Machine.execFwCopy s
  | .bootComplete => Sys2Proof.Machine.execBootComplete s
  | .joinSend => Sys2Proof.Machine.execJoinSend s
  | .stopPinFall => Sys2Proof.Machine.execStopPinFall s
  | .stopDriveRelease => Sys2Proof.Machine.execStopDriveRelease s
  | .iftRotationTimer => Sys2Proof.Machine.execIftRotationTimer s
  | .perstDeassert => Sys2Proof.Machine.execPerstDeassert s
  | .undervoltClear => Sys2Proof.Machine.execUndervoltClear s

end Sys2Proof.Machine
end

