-- ==== Sys2Proof/WellFormed.lean ====
section
/-! DEFINITION. Well-formed commands: every operand lies in the range its field or its unit has. -/

namespace Sys2Proof

/-- 72 rooms, 16 contexts of 64 launch slots, 32 ports (01 R13; 06 R199, R214; 11 R379). -/
def okRoom (r : Nat) : Bool := decide (r < 72)
def okCtx (c : Nat) : Bool := decide (c < 16)
def okSlot (sl : Nat) : Bool := decide (sl < 64)
def okPort (p : Nat) : Bool := decide (p < 32)
/-- Rooms of a lease: distinct, at most 68 (06 R199). -/
def okRooms (l : List Nat) : Bool := l.all okRoom && decide (l.eraseDups = l) && decide (l.length ≤ 68)

/-- Field widths of a packet (11 Table 11.8) and its data of at most 4 KiB. -/
def Packet.wf (k : Packet) : Bool :=
  decide (k.op < 256) && decide (k.tag < 2 ^ 16) && decide (k.dst < 2 ^ 18) && decide (k.src < 2 ^ 18) && decide (k.status < 256)
    && decide (k.birth < 2 ^ 32) && decide (k.addr < 2 ^ 64) && decide (k.arg < 2 ^ 64) && decide (k.data.length ≤ 4096)

/-- 16 command slots; request identifiers of 32 bits (18 R604, Table 18.8). -/
def Path.wf : Path → Bool
  | .pf1 slot => decide (slot < 16)
  | .nsp _ reqId => decide (reqId < 2 ^ 32)
  | .fab k => k.wf

/-- Field widths of a command slot's request (18 Table 18.4). -/
def Req.wf (q : Req) : Bool :=
  q.path.wf && decide (q.opcode < 2 ^ 16) && decide (q.flags < 2 ^ 16) && decide (q.len < 2 ^ 32) && decide (q.tag < 2 ^ 64)
    && decide (q.args.length ≤ 6) && (q.args.all fun a => decide (a < 2 ^ 64)) && decide (q.body.length ≤ q.len) && decide (q.seq < 2 ^ 64)

/-- Field widths of a link header, a TRAIN exchange, a hello; a DATA flit has 256 bytes (11 Tables 11.4, 11.11, R383, R385). -/
def LinkHdr.wf (l : LinkHdr) : Bool := decide (l.aseq < 4096) && decide (l.cfree.length = 4) && l.cfree.all fun x => decide (x < 256)
def DataFlit.wf (f : DataFlit) : Bool := decide (f.bytes.length = 256)
def TrainFlit.wf (f : TrainFlit) : Bool := okPort f.port && decide (f.bufs.length = 4) && f.link.wf
def Hello.wf (h : Hello) : Bool :=
  decide (h.serial < 2 ^ 64) && (h.num.all fun n => decide (n < 2 ^ 18)) && decide (h.pos < 256) && decide (h.feed < 256)
    && decide (h.role < 256) && decide (h.health < 256) && decide (h.t < 2 ^ 64) && decide (h.port < 256) && decide (h.stepping < 256)

/-- A datagram carries its 24-byte header and at most 1,428 bytes (18 R612). -/
def NspDatagram.wf (d : NspDatagram) : Bool := decide (24 ≤ d.bytes.length) && decide (d.bytes.length ≤ 24 + 1428)
def Icmp.wf (m : Icmp) : Bool := decide (m.kind < 256)
def Pldm.wf (p : Pldm) : Bool := decide (p.ty < 64) && decide (p.cmd < 256)
def RegAccess.wf (a : RegAccess) : Bool := decide (a.iface < 3) && decide (a.len ≤ 4096)
/-- A place of memory: HBM to 0xBF_FFFF_FFFF, buttery 384 MiB, pantries of 16 MiB (08 R270 to R273). -/
def ScrubFinding.wf (f : ScrubFinding) : Bool :=
  match f.place with
  | .hbm pa => decide (pa < 0xC000000000)
  | .buttery off => decide (off < 384 * 2 ^ 20)
  | .pantry r off => okRoom r && decide (off < 2 ^ 24)

/-- A command whose operands lie in range. -/
def Instr.wf : Instr → Bool
  | .tNop r _ => okRoom r
  | .tEnd r _ => okRoom r
  | .tBr r _ => okRoom r
  | .tWait r _ => okRoom r
  | .waitRelease r => okRoom r
  | .tFence r _ => okRoom r
  | .fenceRelease r => okRoom r
  | .tBarrier r _ => okRoom r
  | .barrierRelease c sl g => okCtx c && okSlot sl && decide (g ≤ 1024)
  | .tSets r _ => okRoom r
  | .tAdds r _ => okRoom r
  | .tLds r _ => okRoom r
  | .tSts r _ => okRoom r
  | .tDput r _ => okRoom r
  | .tTokrd r _ => okRoom r
  | .tMov r _ => okRoom r
  | .tMovb r _ => okRoom r
  | .tTmul r _ => okRoom r
  | .tTmulOpen r _ => okRoom r
  | .tTmulMore r _ => okRoom r
  | .tTmulClose r _ => okRoom r
  | .tTconv r _ => okRoom r
  | .tTconvOpen r _ => okRoom r
  | .tTconvMore r _ => okRoom r
  | .tTconvClose r _ => okRoom r
  | .tSpmv r _ => okRoom r
  | .tVadd r _ => okRoom r
  | .tVsub r _ => okRoom r
  | .tVmul r _ => okRoom r
  | .tVfma r _ => okRoom r
  | .tVmax r _ => okRoom r
  | .tVmin r _ => okRoom r
  | .tVexp2 r _ => okRoom r
  | .tVlog2 r _ => okRoom r
  | .tVrcp r _ => okRoom r
  | .tVrsq r _ => okRoom r
  | .tVsum r _ => okRoom r
  | .tVlse r _ => okRoom r
  | .tVlsem r _ => okRoom r
  | .tVscl r _ => okRoom r
  | .tVadam r _ => okRoom r
  | .tCvt r _ => okRoom r
  | .tHrclr r _ => okRoom r
  | .tFlgrc r _ => okRoom r
  | .tSopen r _ => okRoom r
  | .tDraw r _ => okRoom r
  | .tRewind r _ => okRoom r
  | .tSclose r _ => okRoom r
  | .tStell r _ => okRoom r
  | .tColl r _ => okRoom r
  | .tRack r _ => okRoom r
  | .tReshard r _ => okRoom r
  | .tPublish r _ => okRoom r
  | .publishAct c sl _ => okCtx c && okSlot sl
  | .tLquery r _ => okRoom r
  | .tLset r _ => okRoom r
  | .tBudget r _ => okRoom r
  | .tCheck r _ => okRoom r
  | .checkAct c sl _ => okCtx c && okSlot sl
  | .tCommit r _ => okRoom r
  | .commitAct c sl _ => okCtx c && okSlot sl
  | .tAdvance r _ => okRoom r
  | .advanceAct c sl _ => okCtx c && okSlot sl
  | .tAbort r _ => okRoom r
  | .abortAct c sl _ => okCtx c && okSlot sl
  | .swapAck r => okRoom r
  | .tTrig r _ => okRoom r
  | .tMark r _ => okRoom r
  | .tSnap r _ => okRoom r
  | .tCaps r _ => okRoom r
  | .segmentLoadDone r t => okRoom r && decide (t < 12)
  | .tileFirstDigit r t => okRoom r && decide (t < 12)
  | .sideboardTermsReady r t => okRoom r && decide (t < 12)
  | .tileLastWave r t => okRoom r && decide (t < 12)
  | .slotDrainDone r t => okRoom r && decide (t < 12)
  | .landingConvertDone r t => okRoom r && decide (t < 12)
  | .tastingRecomputeDone r => okRoom r
  | .instructionComplete r _ => okRoom r
  | .moverUnitDone r _ => okRoom r
  | .roomLaunchEnd r => okRoom r
  | .launchComplete c sl => okCtx c && okSlot sl
  | .launchFaultEnd c sl => okCtx c && okSlot sl
  | .launchSeqWrite c sl _ => okCtx c && okSlot sl
  | .launchHeldSeq c sl => okCtx c && okSlot sl
  | .launchRangeStart c sl => okCtx c && okSlot sl
  | .preemptRoom r => okRoom r
  | .restoreRoom c li r => okCtx c && decide (li < 72) && okRoom r
  | .quantumExpiry c => okCtx c
  | .sliceOut c => okCtx c
  | .sliceIn c rooms => okCtx c && okRooms rooms
  | .stewardFaultResolve _ => true
  | .faultFillDone _ => true
  | .faultTmoExpiry _ => true
  | .moverResume r _ => okRoom r
  | .vintnerEvaluate c => okCtx c
  | .vintnerFirmwareEval c => okCtx c
  | .ctxCreate q rooms => q.wf && okRooms rooms
  | .ctxDestroy q => q.wf
  | .ctxReset q rooms => q.wf && okRooms rooms
  | .pressOpen q => q.wf
  | .pressClose q => q.wf
  | .rackOpen q => q.wf
  | .rackClose q => q.wf
  | .restore q => q.wf
  | .reshardAbandon q => q.wf
  | .faultRing q => q.wf
  | .faultAnswer q => q.wf
  | .retiredRead q => q.wf
  | .groupCounters q => q.wf
  | .state q => q.wf
  | .lifeRead q => q.wf
  | .sigExport q => q.wf
  | .fwCommit q => q.wf
  | .floorRaise q => q.wf
  | .keyRotate q => q.wf
  | .testOverride q => q.wf
  | .takeover q => q.wf
  | .rasDisable q => q.wf
  | .scanOut q => q.wf
  | .debugUnlock q => q.wf
  | .lifeErase q => q.wf
  | .fwBegin q => q.wf
  | .fwPart q => q.wf
  | .fwFetch q => q.wf
  | .fwStatus q => q.wf
  | .fwAbort q => q.wf
  | .attestQuote q => q.wf
  | .attestKey q => q.wf
  | .nspDatagram d => d.wf
  | .nspReassemblyTimeout _ _ => true
  | .icmpv6Message m => m.wf
  | .i3cEntdaa addr => decide (addr < 128)
  | .mctpSetEndpointId eid => decide (eid < 256)
  | .pldmRequest p => p.wf
  | .bar2Access off len data _ => decide (off < 2 ^ 40) && decide (len ≤ 4096) && (data.all fun bs => decide (bs.length = len))
  | .pcieConfigRequest pf off _ => decide (pf < 2) && decide (off < 4096) && decide (off % 4 = 0)
  | .flrPf0 rooms => rooms.all fun x => okCtx x.1 && okRooms x.2
  | .ptmDialogue _ => true
  | .registerWrite acc off _ => acc.wf && decide (off < 2 ^ 26)
  | .registerLowWordRead acc off => acc.wf && decide (off < 2 ^ 26)
  | .mmuInvalidate acc _ => acc.wf
  | .rowmapWrite acc r t _ _ => acc.wf && okRoom r && decide (t < 12)
  | .portDisable p => okPort p
  | .portDisableClear p => okPort p
  | .traceTrig _ => true
  | .traceRecord island => decide (island < 140)
  | .lifetimeWriteNow _ => true
  | .lifetimeTimer _ _ => true
  | .drainComplete _ => true
  | .powerMeasure _ _ => true
  | .supplyDroop r _ => okRoom r
  | .droopHold r => okRoom r
  | .throttleTick _ => true
  | .thermalCritical _ => true
  | .thermalTrip _ => true
  | .selftestStageDone _ => true
  | .reshardResume c => okCtx c
  | .reshardRound c => okCtx c
  | .portSignalDetect p => okPort p
  | .portTrainingDone p => okPort p
  | .portFecLock p => okPort p
  | .portLossOfLock p => okPort p
  | .portLossOfSignal p => okPort p
  | .retrainTimeout p => okPort p
  | .trainFlit p f => okPort p && f.wf
  | .dataFlit p f => okPort p && f.wf
  | .nakFlit p l => okPort p && l.wf
  | .idleFlit p l => okPort p && l.wf
  | .nakRepeatTimeout p => okPort p
  | .replayTimeout p => okPort p
  | .linkLostResend p => okPort p
  | .read k _ => k.wf
  | .write k => k.wf
  | .atomic k => k.wf
  | .colfragReady k => k.wf
  | .colfragPause k => k.wf
  | .colfragData k => k.wf
  | .rackData k => k.wf
  | .rackCredit k => k.wf
  | .rackDropped k => k.wf
  | .echo k => k.wf
  | .timingEcho k _ => k.wf
  | .response k => k.wf
  | .requestTimerExpiry tag => decide (tag < 2 ^ 16)
  | .vl0Forward p k => okPort p && k.wf
  | .hello p h _ => okPort p && h.wf
  | .helloSend p => okPort p
  | .neighbourLost p => okPort p
  | .partnerLost _ => true
  | .assign k => k.wf
  | .route k => k.wf
  | .announce k => k.wf
  | .withdraw k => k.wf
  | .query k => k.wf
  | .snapOffer k => k.wf
  | .snapSeal k => k.wf
  | .snapLocate k => k.wf
  | .suspect k => k.wf
  | .takeoverDone k => k.wf
  | .replicaDrop k => k.wf
  | .stopFlit p f => okPort p && f.wf
  | .tbRootLoad _ => true
  | .islandWake island => decide (island < 140)
  | .tbAlign _ => true
  | .tbMeasure _ => true
  | .pressAdmit c cl => okCtx c && decide (cl < 8)
  | .pressFetchChunk c _ _ => okCtx c
  | .demuxParse c _ core => okCtx c && decide (core < 64)
  | .dpbReserve wing => decide (wing < 2)
  | .videoDecodeAu c _ core => okCtx c && decide (core < 64)
  | .audioDecode c _ => okCtx c
  | .captionExtract c _ => okCtx c
  | .tensorizeFrame c _ => okCtx c
  | .assembleSample c _ => okCtx c
  | .pressLimiterWindow _ => true
  | .rackSend c _ => okCtx c
  | .rackSlotCopy r _ => okRoom r
  | .rackDeadlineExpiry r _ => okRoom r
  | .digestDone c => okCtx c
  | .riskTick _ => true
  | .snapshotStart c _ => okCtx c
  | .snapshotReadsDone c => okCtx c
  | .collatorWindowClose tgt cls => decide (tgt < 2 ^ 18) && decide (cls < 7)
  | .collatorDeferredSend tgt cls => decide (tgt < 2 ^ 18) && decide (cls < 7)
  | .collatorEntryExpiry tgt cls => decide (tgt < 2 ^ 18) && decide (cls < 7)
  | .spareIdleTest r => okRoom r
  | .spareHandoff r spare => okRoom r && okRoom spare
  | .iftDeferExpiry r => okRoom r
  | .iftTestDone r _ => okRoom r
  | .allRoomsQuickTest failed => failed.all okRoom
  | .tasteReplayDone _ _ => true
  | .evidWaitExpiry c => okCtx c
  | .scrubPass f => f.wf
  | .undefinedOpcode r op _ => okRoom r && !definedOp op
  | .unknownCommand q => q.wf
  | .unknownMgmtMessage k => k.wf
  | .reservedFtypeFlit p ftype l => okPort p && decide (ftype < 16) && l.wf
  | .droopRecovery r => okRoom r
  | .deepIdleGate r => okRoom r
  | .msixTableWrite pf vec _ => decide (pf < 2) && decide (vec < 2048)
  | .bmeSet => true
  | .flrPf1 => true
  | .mmuInvalDone => true
  | .counterFreeze => true
  | .counterSample => true
  | .traceArm => true
  | .traceDisarm => true
  | .stopWrite => true
  | .pwrResetWarm => true
  | .pwrResetCold => true
  | .drainSet => true
  | .drainClear => true
  | .inputValid => true
  | .railGood => true
  | .railTimeout => true
  | .inputUndervolt => true
  | .inputLoss => true
  | .inputOvervolt => true
  | .excursionLimit => true
  | .perstFall => true
  | .watchdogExpiry => true
  | .fwCopy => true
  | .bootComplete => true
  | .joinSend => true
  | .stopPinFall => true
  | .stopDriveRelease => true
  | .iftRotationTimer => true
  | .perstDeassert => true
  | .undervoltClear => true

end Sys2Proof
end

