-- ==== Sys2Proof/Safety.lean ====
section
/-! DEFINITION. The words that claims use: when a command's behaviour is specified, what a Tiruf instruction issues from, which
commands are well formed, and what a sound memory is. -/

namespace Sys2Proof.Machine

namespace State

/-- The RSV bits of the blocks hold their reset values, so that the manual specifies what their commands do (00 R704). -/
abbrev specified (s : State) (blocks : List Nat) : Prop := blocks.any s.rsvOpen = false

/-- The place a room issues a word from: a launch runs in it and nothing holds it, its PC is aligned, the 16 bytes there are the word of
this opcode, and its engine can take it (06 R186 to R188). -/
def issueAt (s : State) (r : Nat) (op : Byte) (w : TWord) : Option At :=
  match s.canIssue r with
  | none => none
  | some (c, sl, li) =>
    let pc := (s.room r).seqr.pc
    if pc % 16 ≠ 0 then none
    else match s.fetchAt r c with
    | .error _ => none
    | .ok (none, _) => none
    | .ok (some bs, _) =>
      if leNum bs = (w.encode op).toNat ∧ s.accepts r op = true then
        some { room := r, c := c, sl := sl, li := li, pc := pc, uid := (s.room r).nextUid, op := op }
      else none

/-- Every memory is in its canonical form. -/
abbrev memWf (s : State) : Prop :=
  s.hbm.wf = true ∧ s.buttery.wf = true ∧ s.hostMem.wf = true ∧ s.rooms.all (fun x => x.pantry.wf) = true

/-- Every waiting command is well formed. -/
abbrev queueWf (s : State) : Prop := s.pending.all Instr.wf = true

/-- A request is there, its fields are right, no earlier command still waits on the device, and the device state takes it; `t` is the state
its command acts on (18 R604 to R607; 19 R628). -/
abbrev cmdGoes (s : State) (q : Req) (op used : Nat) (nsp : Bool) (t : State) : Prop :=
  s.devState ≠ stOFF ∧ q.opcode = op ∧ s.takeReq q = some t ∧ q.flags < 2 ∧ q.len ≤ 1984
    ∧ (q.args.drop used).all (· = 0) = true ∧ (q.isNsp = true → nsp = true) ∧ t.cmdAllowed q = true
    ∧ s.res.restore = none ∧ s.host.waiting = none

/-- A critical command goes, and its body is sound: serial, length, code and counter (19 R628, R629). -/
abbrev critGoes (s : State) (q : Req) (op : Nat) (t : State) : Prop :=
  s.cmdGoes q op 0 true t ∧ s.cmdAllowed q = true ∧ t.critSound q op = true

/-- An MGMT request of a type is there for this module, which is not in VESTIBULE; it came on port `p` and `t` is the state its
service acts on (11 R412; 15 R527). -/
abbrev mgmtGoes (s : State) (k : Packet) (ty p : Nat) (t : State) : Prop :=
  s.takeMgmt k [ty] = some (p, t) ∧ t.devState ≠ stVESTIBULE

end State

/-- TOKEN is 0 without TKE, and SEL and MOD, which the instruction leaves unused, are 0 (07 R225, R226). -/
def plainWord (w : TWord) : Bool := okTok w && zeroSel w && zeroMod w

end Sys2Proof.Machine
end

