-- ==== Sys2Proof/Certificates/Slice0/Obligations.lean ====
section
/-! DEFINITION. The statements for the provers. Those of the first parts say of every command when exec answers a next state and
which; those of the last parts are about steps, words, frames, faults and resets. -/

open Sys2Proof Sys2Proof.Machine

/-! Tiruf control (06 R186 to R213, 07 R231 to R234) -/

/-- Each control instruction that issues with its unused fields 0 has its own effect: NOP only advances, END ends the room's
stream, BR sets the PC, WAIT, FENCE and BARRIER go on or hold; the releases end the holds (06 R189, R210, R211; 07 R232). -/
def Obligations.ControlInstructionsComplete : Prop :=
  ∀ (s : State) (r : Nat) (w : TWord) (a : At), s.specified [bRoom r] →
    let t := s.fetched a
    (s.issueAt r 0x01 w = some a → plainWord w = true → w.a = 0 → w.b = 0 → w.c = 0 →
      exec (.tNop r w) s = .next (s.after (t.doneAt a w)))
    ∧ (s.issueAt r 0x02 w = some a → plainWord w = true → w.a = 0 → w.b = 0 → w.c = 0 →
      exec (.tEnd r w) s = .next (s.after
        ((t.modRoom r fun x => { x with seqr := { x.seqr with ended := true } }).doneAt a w)))
    ∧ (s.issueAt r 0x03 w = some a → plainWord w = true → w.c = 0 → w.b.toNat < 2048 → w.b.toNat / 256 % 8 ≠ 7 →
      exec (.tBr r w) s = .next (s.after ((
        if brCond (w.b.toNat / 256 % 8) (t.sreg r (w.b &&& 15)) (t.sreg r ((w.b >>> 4) &&& 15))
        then t.setPc r (BitVec.ofNat 64 a.pc + (w.a.signExtend 64 <<< 4)).toNat else t).doneAt a w)))
    ∧ (s.issueAt r 0x04 w = some a → plainWord w = true → okS w.a = true → w.c = 0 →
      exec (.tWait r w) s = .next (s.after (
        if waitDone ((t.room r).tok.getD w.a.toNat 0) w.b then t.finish r a.pc w else t.holdFor r a.pc w (.wait w.a.toNat w.b))))
    ∧ (s.issueAt r 0x05 w = some a → plainWord w = true → w.a.toNat ≤ 2 → w.b = 0 → w.c = 0 →
      exec (.tFence r w) s = .next (s.after (
        if (t.room r).infl.isEmpty then t.finish r a.pc w else t.holdFor r a.pc w (.fence w.a.toNat))))
    ∧ (s.issueAt r 0x06 w = some a → plainWord w = true → w.b = 0 → w.c = 0 →
      (t.latchGroup a.c a.li w.a true = .ok none →
        exec (.tBarrier r w) s = .next (s.after (t.holdFor r a.pc w (.barrier 0 none 0 0))))
      ∧ ∀ g, t.latchGroup a.c a.li w.a true = .ok (some g) →
        exec (.tBarrier r w) s = .next (s.after ((t.arrivalUp a.c a.li g.idx).holdFor r a.pc w
          (.barrier w.a.toNat (some g) (t.arrivalNext a.c a.li g.idx) 0))))
    ∧ (∀ k v, s.working = true → (s.room r).seqr.hold = .wait k v → waitDone ((s.room r).tok.getD k 0) v = true →
      exec (.waitRelease r) s = .next (s.after (s.freeHold r)))
    ∧ (∀ k, s.working = true → (s.room r).seqr.hold = .fence k → (s.room r).infl = [] →
      exec (.fenceRelease r) s = .next (s.after (s.freeHold r)))

/-- The scalar and descriptor instructions: SETS, ADDS, LDS, STS, DPUT, TOKRD and CAPS write what 07 Table 7.4 gives them, each
64-bit value little-endian in the pantry; an opcode outside 07 Table 7.2 raises OPCODE (07 R227, R233, R234; 06 R219). -/
def Obligations.ScalarInstructionsComplete : Prop :=
  ∀ (s : State) (r : Nat) (w : TWord) (a : At), s.specified [bRoom r] →
    let t := s.fetched a
    (s.issueAt r 0x07 w = some a → plainWord w = true → okS w.a = true →
      exec (.tSets r w) s = .next (s.after ((t.setSreg r w.a (w.c ++ w.b)).doneAt a w)))
    ∧ (s.issueAt r 0x08 w = some a → plainWord w = true → okS w.a = true → okS w.b = true →
      exec (.tAdds r w) s = .next (s.after ((t.setSreg r w.a (t.sreg r w.b + w.c.signExtend 64)).doneAt a w)))
    ∧ (s.issueAt r 0x09 w = some a → plainWord w = true → okS w.a = true → okP w.b 8 8 = true → w.c = 0 →
      exec (.tLds r w) s = .next (s.after ((
        { t.setSreg r w.a (BitVec.ofNat 64 (t.pantLe r a.uid w.b.toNat 8)) with free := t.free + 1 } : State).doneAt a w)))
    ∧ (s.issueAt r 0x0A w = some a → plainWord w = true → okS w.a = true → okP w.b 8 8 = true → w.c = 0 →
      exec (.tSts r w) s = .next (s.after ((t.pantStore r a.uid w.b.toNat (leBytes 8 (t.sreg r w.a).toNat)).doneAt a w)))
    ∧ (s.issueAt r 0x0B w = some a → plainWord w = true → okD w.a = true → w.b.toNat % 8 = 0 → w.b.toNat ≤ 0x78 → okS w.c = true →
      exec (.tDput r w) s = .next (s.after ((
        t.pantStore r a.uid (descTab + 128 * w.a.toNat + w.b.toNat) (leBytes 8 (t.sreg r w.c).toNat)).doneAt a w)))
    ∧ (s.issueAt r 0x0C w = some a → plainWord w = true → okS w.a = true → okS w.b = true → w.c = 0 →
      exec (.tTokrd r w) s = .next (s.after ((
        t.setSreg r w.a (((t.room r).tok.getD w.b.toNat 0).setWidth 64)).doneAt a w)))
    ∧ (s.issueAt r 0xF0 w = some a → plainWord w = true → okP w.a 8 64 = true → w.b = 0 → w.c = 0 →
      exec (.tCaps r w) s = .next (s.after ((
        t.pantStore r a.uid w.a.toNat (capsBytes t r a.c a.li)).doneAt a w)))
    ∧ (∀ op, s.issueAt r op w = some a → definedOp op = false →
      exec (.undefinedOpcode r op w) s = .next (s.after (s.roomFault r a.pc .opcode)))

/-- A barrier that every room of the launch's range has reached releases those rooms and no other (06 R211, R212). -/
def Obligations.BarrierReleasesTheRange : Prop :=
  ∀ (s : State) (c sl : Nat), s.specified [bCOL] → s.working = true →
    s.allRooms c sl (State.atBarrier c sl 0) = true →
    exec (.barrierRelease c sl 0) s = .next (s.after (s.releaseRooms c sl (State.atBarrier c sl 0)))

/-! Movers, trellises, hearth, landing -/

/-- MOV, MOVB and SPMV whose checks pass are in flight with their units, the first unit's remote bytes asked for
(07 R235 to R237, R244; 08 R296). -/
def Obligations.MoversIssue : Prop :=
  ∀ (s : State) (r : Nat) (w : TWord) (a : At), s.specified [bRoom r] →
    let t := s.fetched a
    let x := t.latch a w.a.toNat
    let y := t.latch a w.b.toNat
    let z := t.latch a w.c.toNat
    let start (op : Byte) (i : Infl) := ((t.pending1 a op.toNat w i).startUnit r a.uid)
    (s.issueAt r 0x10 w = some a → firstFault (movChecks t a w) = none →
      exec (.tMov r w) s = .next (s.after (start 0x10 (moverInfl t a 0x10 w 0 [x, y]
        (rawDesc t r a.uid w.a.toNat ++ rawDesc t r a.uid w.b.toNat) (movUnits x y)
        (if y.global then [] else (movUnits x y).flatten.map fun u => (u.2.1, u.2.2))))))
    ∧ (s.issueAt r 0x11 w = some a → firstFault (movbChecks t a w) = none →
      exec (.tMovb r w) s = .next (s.after (start 0x11 (moverInfl t a 0x11 w 1 [x, y]
        (rawDesc t r a.uid w.a.toNat ++ rawDesc t r a.uid w.b.toNat) (groupRuns false (runsOf false x.base y.base w.c.toNat))
        (if y.global then [] else [(y.base, w.c.toNat)])))))
    ∧ (s.issueAt r 0x28 w = some a → firstFault (spmvChecks t a w) = none →
      exec (.tSpmv r w) s = .next (s.after (start 0x28 (moverInfl t a 0x28 w 2 [x, y, z]
        (rawDesc t r a.uid w.a.toNat ++ rawDesc t r a.uid w.b.toNat ++ rawDesc t r a.uid w.c.toNat) (spmvUnits x) z.ranges))))

/-- TMUL and TCONV in each of their four modes: once their checks pass and their headroom regions have a place, the
instruction is in flight with its tiles, which go in order into the queues of the trellises that SEL names while those have a place
(06 R206 to R209; 07 R238 to R240). -/
def Obligations.ProductsQueueTheirTiles : Prop :=
  ∀ (s u : State) (r : Nat) (w : TWord) (a : At) (c : TWord → Instr) (op : Byte), s.specified [bRoom r] →
    (c, op) ∈ [(Instr.tTmul r, 0x20#8), (.tTmulOpen r, 0x21#8), (.tTmulMore r, 0x22#8), (.tTmulClose r, 0x23#8),
      (.tTconv r, 0x24#8), (.tTconvOpen r, 0x25#8), (.tTconvMore r, 0x26#8), (.tTconvClose r, 0x27#8)] →
    let t := s.fetched a
    let h := t.latch a w.a.toNat
    let sd := t.latch a w.b.toNat
    let d := t.latch a w.c.toNat
    s.issueAt r op w = some a → firstFault (tenAll t a op w) = none →
    ((t.hdirPlace a.c h).bind fun v => v.hdirPlace a.c d) = some u →
    exec (c w) s = .next (s.after ((u.pending1 a op.toNat w (tenInfl u a op w h sd d)).feedTiles a.room a.uid))

/-- The hearth's elementwise and row instructions: once their checks pass the destination holds the results of 07 Table 7.8,
the hearth's flags are raised, and the instruction waits for its completion (07 R245 to R248; 04 R151 to R155). -/
def Obligations.HearthInstructionsWriteResults : Prop :=
  ∀ (s : State) (r : Nat) (w : TWord) (a : At) (c : TWord → Instr) (op : Byte), s.specified [bRoom r] →
    (c, op) ∈ [(Instr.tVadd r, 0x30#8), (.tVsub r, 0x31#8), (.tVmul r, 0x32#8), (.tVfma r, 0x33#8), (.tVmax r, 0x34#8),
      (.tVmin r, 0x35#8), (.tVexp2 r, 0x36#8), (.tVlog2 r, 0x37#8), (.tVrcp r, 0x38#8), (.tVrsq r, 0x39#8), (.tVsum r, 0x3A#8),
      (.tVlse r, 0x3B#8), (.tVlsem r, 0x3C#8), (.tVscl r, 0x3D#8)] →
    let t := s.fetched a
    let x := t.latch a w.a.toNat
    let y := if vecTwo op then t.latch a w.b.toNat else x
    let d := t.latch a w.c.toNat
    let o := vecResult op.toNat (t.view r a.uid x) (t.view r a.uid y) (t.view r a.uid d)
      (decFp32 ((t.sreg r w.b).setWidth 32)) (t.room r).pantry
    s.issueAt r op w = some a → firstFault (vecChecks op t a w) = none →
    exec (c w) s = .next (s.after (((t.putPantry r a.uid d.ranges o.1).hrtFlags r o.2).pending1 a op.toNat w
      { Infl.mk0 with descs := [x, y, d], ready := true, writes := d.ranges }))

/-- VADAM, CVT, HRCLR and FLGRC: once their checks pass they write what 13 R472 to R475, 04 R122 to R141, 07 R250 and 02 R62
give. -/
def Obligations.UpdateAndLandingInstructionsComplete : Prop :=
  ∀ (s u : State) (r : Nat) (w : TWord) (a : At), s.specified [bRoom r] →
    let t := s.fetched a
    (s.issueAt r 0x3F w = some a → firstFault (adamChecks r t a w) = none →
      let rs := ((adamDescs t a w).drop 1).flatMap Desc.ranges
      let t1 := (t.putPantry r a.uid rs (adamResult r t a w).1).hrtFlags r (adamResult r t a w).2
      exec (.tVadam r w) s = .next (s.after (t1.pending1 a 0x3F w
        { Infl.mk0 with descs := adamDescs t a w, ready := true, writes := rs })))
    ∧ (s.issueAt r 0x40 w = some a → firstFault (cvtChecks t a w) = none → t.hdirPlace a.c (t.latch a w.b.toNat) = some u →
      exec (.tCvt r w) s = .next (s.after (cvtEffect u r a w (t.latch a w.a.toNat) (t.latch a w.b.toNat))))
    ∧ (s.issueAt r 0x41 w = some a → firstFault (hrclrChecks t a w) = none →
      let x := t.latch a w.a.toNat
      exec (.tHrclr r w) s = .next (s.after ((t.ctxWrite a.c x.hdr (List.replicate (2 * x.hrCount) 0)).pending1 a 0x41 w
        { Infl.mk0 with descs := [x], ready := true })))
    ∧ (s.issueAt r 0x42 w = some a → flgrcOk w = true →
      let bs := (flgrcEngines w).flatMap fun n => leBytes 4 (t.reg (engineReg r n)).toNat
      let t1 := t.pantStore r a.uid w.b.toNat bs
      let t2 := if w.mod.toNat = 1 then (flgrcEngines w).foldl (fun v n => v.clearFlags (engineReg r n)) t1 else t1
      exec (.tFlgrc r w) s = .next (s.after (t2.pending1 a 0x42 w
        { Infl.mk0 with ready := true, writes := [(ownBase + w.b.toNat, bs.length)] })))

/-- SOPEN, DRAW, REWIND, SCLOSE and STELL: the registry entry each names moves as 10 R370 to R373 give, and a draw leaves the
generator's outputs in its destination (07 R253 to R255; 10 R346). -/
def Obligations.StreamInstructionsComplete : Prop :=
  ∀ (s : State) (r : Nat) (w : TWord) (a : At) (i : Nat) (e : RegEntry), s.specified [bRoom r, bRNG] →
    let t := s.fetched a
    let done (u : State) (op : Byte) (x : Infl) := .next (s.after (u.pending1 a op.toNat w { x with ready := true }))
    (s.issueAt r 0x50 w = some a → okTok w = true → zeroSel w = true → w.mod.toNat ≤ 1 → okS w.b = true → okS w.c = true →
      t.openEntry a.c w.a.toNat (t.sreg r w.b).toNat (w.mod.toNat = 1) = .ok (i, e) →
      exec (.tSopen r w) s = done ((t.putEntry a.c i e).setSreg r w.c (BitVec.ofNat 64 (i + 4096 * e.gen))) 0x50 Infl.mk0)
    ∧ (s.issueAt r 0x51 w = some a → plainWord w = true → okS w.a = true → w.c.toNat ≠ 0 → w.c.toNat ≤ 65536 → okD w.b = true →
      t.handle a.c (t.sreg r w.a) = some (i, e) → firstFault (drawChecks (t.latch a w.b.toNat) w.c.toNat) = none →
      let d := t.latch a w.b.toNat
      let bs := drawBytes (t.jobKey a.c) e.id e.counter w.c.toNat
      exec (.tDraw r w) s = done ((t.putPantry r a.uid d.ranges (storeRows d (t.room r).pantry bs)).putEntry a.c i
        { e with counter := (e.counter + w.c.toNat) % 2 ^ 64 }) 0x51 { Infl.mk0 with descs := [d], writes := d.ranges })
    ∧ (s.issueAt r 0x52 w = some a → plainWord w = true → okS w.a = true → okS w.b = true → w.c = 0 →
      t.handle a.c (t.sreg r w.a) = some (i, e) →
      exec (.tRewind r w) s = done (t.putEntry a.c i { e with counter := (t.sreg r w.b).toNat }) 0x52 Infl.mk0)
    ∧ (s.issueAt r 0x53 w = some a → plainWord w = true → okS w.a = true → w.b = 0 → w.c = 0 →
      t.handle a.c (t.sreg r w.a) = some (i, e) →
      exec (.tSclose r w) s = done (t.putEntry a.c i { e with refs := e.refs - 1, closed := decide (e.refs ≤ 1) }) 0x53 Infl.mk0)
    ∧ (s.issueAt r 0x54 w = some a → plainWord w = true → okS w.a = true → okS w.b = true → w.c = 0 →
      t.handle a.c (t.sreg r w.a) = some (i, e) →
      exec (.tStell r w) s = done (t.setSreg r w.b (BitVec.ofNat 64 e.counter)) 0x54 Infl.mk0)

/-- COLL, RACK and RESHARD whose checks pass are in flight: a collective with its group's next sequence number, a RACK with no
slot copied, a reshard with its journal written or its running plan resumed (07 R256 to R258; 10 R362, R363; 12 R424 to R427,
R443, R450). -/
def Obligations.GroupInstructionsIssue : Prop :=
  ∀ (s : State) (r : Nat) (w : TWord) (a : At) (g : Group),
    let t := s.fetched a
    (s.specified [bRoom r, bCOL] → s.issueAt r 0x60 w = some a → collOperandsOk w = true → okD w.b = true → okD w.c = true →
      t.latchGroup a.c a.li w.a true = .ok (some g) → firstFault (collChecks t a w g) = none →
      exec (.tColl r w) s = .next (s.after (collStart t r a w g)))
    ∧ (∀ j sr, s.specified [bRoom r, bRCK] → s.issueAt r 0x61 w = some a → plainWord w = true → okS w.a = true → okD w.b = true →
      t.reshardOn a.c = false → t.rackJob a.c = some j → t.openSample a.c = some sr → firstFault (rackChecks t a w j sr) = none →
      exec (.tRack r w) s = .next (s.after (t.pending1 a 0x61 w (rackInfl t a w j))))
    ∧ (∀ pa plan u, s.specified [bRoom r, bCOL] → s.issueAt r 0x62 w = some a → plainWord w = true → w.a ≠ 0 →
      okD w.b = true → okD w.c = true → t.latchGroup a.c a.li w.a true = .ok (some g) →
      (t.latch a w.b.toNat).check = none → (t.latch a w.c.toNat).check = none →
      reshPlan t r a (t.latch a w.c.toNat).base = .ok (some plan, u) → reshPa t r a w = some pa →
      firstFault (reshChecks u a w g pa plan) = none →
      exec (.tReshard r w) s = .next (s.after (reshGo u r a w g pa plan)))

/-- PUBLISH, LQUERY, LSET and BUDGET: a PUBLISH holds its room; the others read the current ladder entries, write the pending
copies of both wings, and write the policy record's budgets (05 R167, R174, R180 to R184; 07 R259 to R261). -/
def Obligations.LadderInstructionsComplete : Prop :=
  ∀ (s : State) (r : Nat) (w : TWord) (a : At), s.specified (vntBlocks r) →
    let t := s.fetched a
    let slow (u : State) (op : Byte) := .next (s.after (u.pending1 a op.toNat w { Infl.mk0 with ready := true }))
    (s.issueAt r 0x70 w = some a → plainWord w = true → w.b = 0 → w.c = 0 → t.joinGroup a w.a = none →
      exec (.tPublish r w) s = .next (s.after (t.holdFor r a.pc w (.publish w.a.toNat))))
    ∧ (s.issueAt r 0x71 w = some a → plainWord w = true → w.b.toNat ≠ 0 → w.b.toNat ≤ 4096 →
      w.a.toNat + w.b.toNat ≤ t.ladSize a.c → okP w.c 16 (16 * w.b.toNat) = true →
      exec (.tLquery r w) s = slow (t.pantStore r a.uid w.c.toNat
        ((List.range w.b.toNat).flatMap fun i => leBytes 16 (t.ladder a.c (w.a.toNat + i)).toNat)) 0x71)
    ∧ (s.issueAt r 0x72 w = some a → plainWord w = true → w.c = 0 → w.a.toNat < t.ladSize a.c → okP w.b 16 16 = true →
      badLadder (BitVec.ofNat 128 (t.pantLe r a.uid w.b.toNat 16)) = false →
      exec (.tLset r w) s = slow (t.putLadder a.c (t.ladIdx a.c w.a.toNat) (t.pantLe r a.uid w.b.toNat 16)) 0x72)
    ∧ (s.issueAt r 0x73 w = some a → plainWord w = true → okS w.a = true → okS w.b = true → w.c = 0 →
      exec (.tBudget r w) s = slow (t.ctxWrite a.c (t.polAt a.c + 0x40)
        (leBytes 8 (t.sreg r w.a).toNat ++ leBytes 8 (t.sreg r w.b).toNat)) 0x73)

/-- CHECK, COMMIT, ADVANCE and ABORT whose phase, step and group are right hold their room at the step group (07 R262 to R264;
13 R459). -/
def Obligations.StepInstructionsHoldTheRoom : Prop :=
  ∀ (s : State) (r : Nat) (w : TWord) (a : At) (c : TWord → Instr) (op : Byte) (kind : Nat), s.specified (vntBlocks r) →
    (c, op, kind) ∈ [(Instr.tCheck r, 0x80#8, kCHECK), (.tCommit r, 0x81#8, kCOMMIT), (.tAdvance r, 0x82#8, kADVANCE),
      (.tAbort r, 0x83#8, kABORT)] →
    let t := s.fetched a
    s.issueAt r op w = some a → stpOperandsOk kind w = true → t.joinGroup a w.a = none → t.reshardOn a.c = false →
    t.badPhase a.c kind (t.sreg r w.b) = false → (kind = kCHECK → t.badLoss a.c r = false) →
    exec (c w) s = .next (s.after (t.holdFor r a.pc w (.stp kind w.a.toNat (t.sreg r w.b).toNat w.c.toNat (w.mod = 1))))

/-- TRIG, MARK and SNAP (07 R265; 17 R571, R575, R581). -/
def Obligations.DebugInstructionsComplete : Prop :=
  ∀ (s : State) (r : Nat) (w : TWord) (a : At), s.specified [bRoom r, bDBG] →
    let t := s.fetched a
    (s.issueAt r 0x90 w = some a → plainWord w = true → w.a ≠ 0 → w.b = 0 → w.c = 0 →
      let t1 := if w.a.getLsbD 1 then (t.finish r a.pc w).freezeTrigger else t.finish r a.pc w
      exec (.tTrig r w) s = .next (s.after (if w.a.getLsbD 0 then t1.trigger r 0 else t1)))
    ∧ (s.issueAt r 0x91 w = some a → plainWord w = true → w.b = 0 → w.c = 0 →
      exec (.tMark r w) s = .next (s.after ((t.trace r 15 tyMARK (some a.c)
        (leBytes 4 w.a.toNat ++ leBytes 2 a.li ++ leBytes 2 0 ++ leBytes 8 a.pc)).doneAt a w)))
    ∧ (s.issueAt r 0x92 w = some a → plainWord w = true → w.a.toNat < 512 → w.a.toNat % 256 ≤ 5 → w.c = 0 →
      let bs := snapBytes t r (w.a.toNat % 256) (w.a.getLsbD 8)
      okP w.b 8 bs.length = true →
      exec (.tSnap r w) s = .next (s.after (({ t.pantStore r a.uid w.b.toNat bs with free := t.free + 1 } : State).doneAt a w)))

/-! Events of the room engines and of the step engines -/

/-- Events of a trellis tile from its first segment to its landing: each that is due has its effect (03 R102 to R106; 04 R119,
R120, R142; 06 R207 to R209; 07 R241, R242; 20 R666). -/
def Obligations.TrellisEventsAct : Prop :=
  ∀ (s : State) (r t : Nat), s.specified [bRoom r] → s.working = true →
    let x := s.trellis r t
    (∀ j i, x.nextLoad = some j → s.findInfl r j.uid = some i →
      let u := s.freeShadow r t
      let up (q : TileJob) : TileJob := if q.uid = j.uid ∧ q.ord = j.ord then { q with loaded := j.loaded + 1 } else q
      exec (.segmentLoadDone r t) s = .next (s.after (u.modTrellis r t fun y => { y with
        shadow := some ((prodOf u r j.uid i).loadSeg (tileRows i j).1 (u.trellis r t).cur j.uid j.ord j.loaded)
        queue := y.queue.map up, flying := y.flying.map up })))
    ∧ (∀ q rest i, x.queue = q :: rest → s.findInfl r q.uid = some i → q.sbReady = false →
      exec (.sideboardTermsReady r t) s = .next (s.after (s.modTrellis r t fun y => { y with
        queue := { q with sbReady := true, sigma := tileSigma (prodOf s r q.uid i) i q } :: rest })))
    ∧ (∀ j rest i, x.queue = j :: rest → s.findInfl r j.uid = some i → headReady (s.room r) x j = true →
      let sl := x.slots.getD j.slot {}
      let p := prodOf s r j.uid i
      slotStart i j sl = .starts → (s.needsToken x = true → s.tokensLeft (r / 36) ≠ 0) → s.admitsTile r t = true → badStart p i j sl = false →
      exec (.tileFirstDigit r t) s = .next (s.after
        (((if s.needsToken x then s.takeToken (r / 36) else s).chargeTile r p.lower).startTile r t i j rest (startSlot p i j sl))))
    ∧ (∀ j rest0 i k rest, x.flying = j :: rest0 → s.findInfl r j.uid = some i → j.segs ≤ j.loaded →
      let u := s.freeShadow r t
      (u.trellis r t).flying = k :: rest →
      exec (.tileLastWave r t) s = .next (s.after (u.lastWave r t i k rest ((u.trellis r t).slots.getD k.slot {}))))
    ∧ (∀ j rest, x.drains = j :: rest → x.port = none →
      exec (.slotDrainDone r t) s = .next (s.after (s.modTrellis r t fun y =>
        { y with drains := rest, port := some (j, y.slots.getD j.slot {}), slots := y.slots.set j.slot {} })))
    ∧ (∀ j sl i, x.port = some (j, sl) → s.findInfl r j.uid = some i →
      exec (.landingConvertDone r t) s = .next (s.after (s.landTile r t i j sl)))

/-- The other events of a room's engines. A tasted tile's wide recomputation, once the power manager admits it: its charge enters the
projection, it leaves the queue and is counted; one whose narrow outputs have landed gives its disagreement to the layer's record, and is
reported where that exceeds TASTE_FAULT. A mover's unit whose bytes can be read and stored moves them and DONE goes on, its remote bytes
are sent; a paused mover that agrees with its record goes on; a completed instruction leaves the room and its token counts. A RACK copies
the first slot that is full, dropped or late, and its deadline acts on the slots still empty: RACK_DEADLINE under STRICT, words of late
slots and the window's mark under the other policies (04 R146, R147; 05 R166; 06 R189; 08 R296, R297, R299; 10 R363, R364; 20 R666). -/
def Obligations.RoomEngineEventsAct : Prop :=
  (∀ (s : State) (r : Nat) (q : TasteJob) (rest : List TasteJob), s.specified [bRoom r] → s.working = true →
    (s.room r).taste = q :: rest → s.admitsTaste r = true →
    let c := ((s.room r).lease.map (·.1)).getD 0
    let u := ((s.chargeMw (s.tileEst true)).modRoom r fun x => { x with taste := rest }).bump fmLANDING r 2 1
    let dv := tasteDisagree (tastePairs q.y q.outs)
    let v := u.addCounts c q.dest [(0x50, 1), (0x78, disUnits dv)]
    let a := v.statRec c q.dest.layer q.dest.ladder + 0x80
    let w := if v.ctxLe c a 4 < disUnits dv then v.ctxSetLe c a 4 (disUnits dv) else v
    let lim := w.ctxLe c (((s.ctx c).map (·.d.policy)).getD 0 + 0x38) 4
    (q.mode = 1 ∨ q.mode = 2 → exec (.tastingRecomputeDone r) s = .next (s.after (u.addCounts c q.dest [(0x50, 1)])))
    ∧ (q.landed = true → q.mode ≠ 1 → q.mode ≠ 2 →
      (s.ladSize c ≤ q.dest.layer → exec (.tastingRecomputeDone r) s = .next (s.after v))
      ∧ (q.dest.layer < s.ladSize c → disAbove dv lim = false → exec (.tastingRecomputeDone r) s = .next (s.after w))
      ∧ (q.dest.layer < s.ladSize c → disAbove dv lim = true →
        exec (.tastingRecomputeDone r) s = .next (s.after ((((w.addCounts c q.dest [(0x84, 1)]).postEvent c evTASTE).riskEvent 4 0).keepTaste c r q
          ((tastePairs q.y q.outs).map fun x => (x.1, x.2.1, x.2.2.1)))))))
  ∧ (∀ (s : State) (r uid c li : Nat) (i : Infl) (m : Mover), s.specified [bRoom r] → s.working = true →
    s.findInfl r uid = some i → (s.room r).lease = some (c, li) →
    (i.ready = true → exec (.instructionComplete r uid) s = .next (s.after ((s.modRoom r fun x => { x with
      infl := x.infl.filter (fun j => j.uid ≠ uid), prior := mapSet x.prior uid none }).finish r i.pc i.w)))
    ∧ (∀ datas, i.mv = some m → State.moverGoes m = true → s.unitData r uid c i m = .ok datas →
      let all := datas.flatMap (·.2)
      (m.unit = 2 → exec (.moverUnitDone r uid) s = .next (s.after
        (s.unitEnd r uid { m with staged := datas.foldl (fun mm (a, bs) => mm.stage a bs) m.staged })))
      ∧ (∀ offs, m.unit ≠ 2 → s.unitPlaces r c i m = .ok offs →
        (m.sent = false → State.unitFar offs all = [] →
          exec (.moverUnitDone r uid) s = .next (s.after ((s.unitStore r uid m offs all).unitEnd r uid m)))
        ∧ (m.sent = true → exec (.moverUnitDone r uid) s = .next (s.after (s.unitEnd r uid m)))
        ∧ (m.sent = false → State.unitFar offs all ≠ [] →
          exec (.moverUnitDone r uid) s = .next (s.after ((State.unitFar offs all).foldl (fun t (g, bs) =>
            t.request (.moverWr r uid g) { op := opWRITE, dst := g / 2 ^ 44 % 2 ^ 18, addr := g, arg := bs.length, data := bs })
            ((s.unitStore r uid m offs all).modInfl r uid fun k =>
              { k with mv := some { m with sent := true, asked := (State.unitFar offs all).map (·.1) } }))))))
    ∧ (∀ bs t, i.mv = some m → m.paused = true → m.wait = none → (s.room r).seqr.stopped = false →
      s.farRead (.resume r uid) c (some r) i.pc 16 .fetch = .ok (some bs, t) → moverAgrees i m bs = true →
      i.col = none → s.instResh r uid = none →
      exec (.moverResume r uid) s = .next (s.after
        ((t.modInfl r uid fun k => { k with mv := some { m with paused := false, asked := [] } }).startUnit r uid))))
  ∧ (∀ (s : State) (r uid c li : Nat) (i : Infl) (j : RackJob) (k : RackOp) (mv : Mover) (d : Desc) (ds : List Desc),
    s.specified [bRoom r, bRCK] → s.working = true → s.findInfl r uid = some i → (s.room r).lease = some (c, li) →
    s.rackJob c = some j → i.rack = some k →
    let left := ((List.range k.count).map (k.first + ·)).filter fun m => !k.copied.contains m
    let empty := s.rackEmpty j k
    (∀ m st, i.mv = some mv → i.descs = d :: ds → mv.paused = false → mv.wait = none → mv.asked = [] →
      j.deadline = 0 ∨ s.now < k.t + 1000 * j.deadline ∨ empty = [] → (left.findSome? fun m => (State.rackWord j k (s.rackPos j m) m).map fun st => (m, st)) = some (m, st) →
      exec (.rackSlotCopy r uid) s = .next (s.after (s.rackUnit r uid c j i d k mv m st)))
    ∧ (j.deadline ≠ 0 → k.t + 1000 * j.deadline ≤ s.now → empty ≠ [] →
      let u := s.regCount rRCK_STATUS 24 8 1
      let v := (List.range k.count).foldl (fun t _ => t.rackCopyNext r uid)
        (u.modInfl r uid fun x => { x with rack := some { k with late := k.late ++ empty } })
      (j.policy = 0 → exec (.rackDeadlineExpiry r uid) s = .next (s.after (u.roomFault r i.pc .rackDeadline)))
      ∧ (j.policy = 1 → exec (.rackDeadlineExpiry r uid) s = .next (s.after (v.modCtx c fun x => { x with deadline := true })))
      ∧ (j.policy ≠ 0 → j.policy ≠ 1 → exec (.rackDeadlineExpiry r uid) s = .next (s.after v))))

/-- The vintner's and the step group's actions. Once every room of the launch has arrived each acts once, and swap acknowledgements
follow; members that name different steps raise PHASE. At a boundary each wing evaluates the published records against its own pending
copy: results that agree become the pending copy of both with spend, refusals and counts; results that differ are recorded, DIVERGE is
posted, and the firmware evaluates in the wings' place, with the LSETs since the wings evaluated over its result (05 R167 to R180; 07
R264; 13 R463 to R483; which LSETs stand is the model's choice, log 18). -/
def Obligations.StepEventsAct : Prop :=
  (∀ (s : State) (c sl r : Nat), s.working = true →
    (∀ peers, s.specified [bVNTW, bVNTE] → s.arrived c sl Hold.isPublish = true →
      exec (.publishAct c sl peers) s = .next (s.after ((s.publish c peers).releaseRooms c sl fun x =>
        x.seqr.launch = some (c, sl) && Hold.isPublish x.seqr.hold)))
    ∧ (∀ peers, s.specified [bCOL, bRCK] → s.stpArrived c sl kCHECK = true → s.checkReady c = true →
      (s.sameStep c (peers.map (·.step)) = true → exec (.checkAct c sl peers) s = .next (s.after (s.check c sl peers)))
      ∧ (s.sameStep c (peers.map (·.step)) = false → exec (.checkAct c sl peers) s = .next (s.after (s.phaseFault c sl kCHECK))))
    ∧ (∀ steps, s.specified [bCOL] → s.stpArrived c sl kCOMMIT = true → s.commitHeld c = false →
      (s.sameStep c steps = true → exec (.commitAct c sl steps) s = .next (s.after (s.commit c sl)))
      ∧ (s.sameStep c steps = false → exec (.commitAct c sl steps) s = .next (s.after (s.phaseFault c sl kCOMMIT))))
    ∧ (∀ steps, s.specified [bCOL, bRCK, bRNG, bVNTW, bVNTE] → s.stpArrived c sl kADVANCE = true → s.evaluating c = false →
      (s.sameStep c steps = true → exec (.advanceAct c sl steps) s = .next (s.after (s.advance c sl)))
      ∧ (s.sameStep c steps = false → exec (.advanceAct c sl steps) s = .next (s.after (s.phaseFault c sl kADVANCE))))
    ∧ (∀ steps, s.specified [bCOL, bRCK, bRNG, bVNTW, bVNTE] → s.stpArrived c sl kABORT = true → s.evaluating c = false →
      (s.sameStep c steps = true → exec (.abortAct c sl steps) s = .next (s.after (s.abort c sl (s.abortSkips c sl))))
      ∧ (s.sameStep c steps = false → exec (.abortAct c sl steps) s = .next (s.after (s.phaseFault c sl kABORT))))
    ∧ (s.specified (vntBlocks r) → (s.room r).seqr.hold = .swapAck →
      exec (.swapAck r) s = .next (s.after ((s.freeHold r).retireCopies (((s.room r).lease.map (·.1)).getD 16)))))
  ∧ (∀ (s : State) (c : Nat), s.specified [bVNTW, bVNTE] → s.working = true →
    let v := s.vntOf c
    let start (w : Nat) := v.lsets.foldl (fun t x => State.setRw t x.1 x.2) (v.kept.getD w (s.wing w).pend)
    let o (w : Nat) := evalWing v.policy v.reduced (s.rangeEnts c (start w))
    let u := ((s.regCount (rVNT_STATUS 0) 4 12 (o 0).ceil).regCount (rVNT_STATUS 1) 4 12 (o 1).ceil).modVnt c fun x =>
      { x with kept := [start 0, start 1], lsets := [] }
    (v.published = true → v.done = false → v.firmware = false →
      (o 0 = o 1 → exec (.vintnerEvaluate c) s = .next (s.after
        ((((u.putPend c 0 (o 0).ents).putPend c 1 (o 1).ents).evalWrite c (o 0)).modVnt c fun x => { x with done := true })))
      ∧ (o 0 ≠ o 1 → exec (.vintnerEvaluate c) s = .next (s.after
        (((((u.regCount (rVNT_STATUS 0) 24 8 1).regCount (rVNT_STATUS 1) 24 8 1).postEvent c evDIVERGE).immediate).modVnt c fun x =>
          { x with firmware := true }))))
    ∧ (v.firmware = true →
      let f := evalWing v.policy v.reduced (s.rangeEnts c (v.kept.getD 0 []))
      let again (t : Vnt) : Vnt := { t with pend := v.lsets.foldl (fun l x => State.setRw l x.1 x.2) t.pend }
      exec (.vintnerFirmwareEval c) s = .next (s.after ((((((s.putPend c 0 f.ents).putPend c 1 f.ents).modWing 0 again).modWing 1 again).evalWrite
        c f).modVnt c fun x => { x with firmware := false, done := true }))))

/-- The reshard engine and the collectives' packets. A running reshard parks its round's extents, past its barrier sends, takes what
has landed, and past the second barrier goes on to the next round or ends; after a reset the steward takes a journal up again, from the first
barrier where it stood in SEND. A fragment is taken and acknowledged (12 R426, R427, R436, R446, R450, R451). -/
def Obligations.ReshardAndFragmentsAct : Prop :=
  ∀ (s : State) (c : Nat) (k : Packet),
    (∀ x, s.specified [bCOL] → s.devState ≠ stSTOPPED → s.findResh c = some x → s.journalState x.pa = 1 → s.reshHeld x = false →
      let p := s.jplan x.pa
      let round := s.jget x.pa 0x10 4
      let root := s.reshMod x.pa p x.root
      let passed (n : Nat) : Prop := x.arrive = 2 ∧
        (some root ≠ s.fab.num ∨ s.allArrived x.ctx (s.reshSlots x.pa) (s.jget x.pa 0x18 4) n = true)
      (s.jget x.pa 9 1 = 0 → exec (.reshardRound c) s = .next (s.after (s.reshPark x p)))
      ∧ (s.jget x.pa 9 1 = 1 → passed (round * 4 + 1) → exec (.reshardRound c) s = .next (s.after (s.reshSend x p)))
      ∧ (s.jget x.pa 9 1 = 2 → exec (.reshardRound c) s = .next (s.after ((s.reshTake c p).reshCheck c p)))
      ∧ (s.jget x.pa 9 1 = 3 → passed (round * 4 + 3) → p.rounds ≤ round + 1 → exec (.reshardRound c) s = .next (s.after
        ((s.putJournal x.pa fun j => patchLe (patchLe (patchLe j 0x10 4 (round + 1)) 9 1 0) 8 1 2).reshEnd x none)))
      ∧ (s.jget x.pa 9 1 = 3 → passed (round * 4 + 3) → round + 1 < p.rounds → exec (.reshardRound c) s = .next (s.after
        ((s.putJournal x.pa fun j => patchLe (patchLe j 0x10 4 (round + 1)) 9 1 0).setResh c (some x.fresh)))))
    ∧ (∀ pa, s.specified [bCOL] → s.devState ≠ stSTOPPED → s.devState ≠ stOFF → s.devState ≠ stBOOT →
      mapGet s.col.reshDir c = some pa → s.journalState pa = 1 → s.findResh c = none →
      exec (.reshardResume c) s = .next (s.after ((if s.jget pa 9 1 = 2 then s.jput pa 9 1 1 else s).setResh c (some {
        ctx := c, pa := pa, inst := none, seq := State.resumedSeq, again := s.jget pa 9 1 = 1 || s.jget pa 9 1 = 2 }))))
    ∧ (∀ x rk, s.specified [bFAB, bCOL] → s.fragResh k = some x → s.devState = stREADY ∨ s.devState = stRUNNING → k.op = opCOLFRAG →
      k.rsp = false → State.colBad k = false →
      let p := (s.fromInbox k).1
      let t := (s.fromInbox k).2
      t.reshRank x k = some rk →
      (k.arg.testBit 10 = true → exec (.colfragReady k) s = .next (s.after ((t.reshTakeReady x rk k).respond p k rsOK [])))
      ∧ (k.arg.testBit 10 = false → k.arg.testBit 11 = true → exec (.colfragPause k) s = .next (s.after
        ((t.setResh x.ctx (some { x with paused := (rk, k.src) :: x.paused.filter (·.1 ≠ rk) })).respond p k rsOK [])))
      ∧ (k.arg.testBit 10 = false → k.arg.testBit 11 = false → k.arg.testBit 47 = false →
        exec (.colfragData k) s = .next (s.after ((t.reshTakeData x rk k).respond p k rsOK [])))
      ∧ (k.arg.testBit 10 = false → k.arg.testBit 11 = false → k.arg.testBit 47 = true →
        exec (.colfragData k) s = .next (s.after ((t.reshTakeWord x rk k).respond p k rsOK []))))
    ∧ (s.specified [bFAB, bCOL] → s.fragResh k = none → s.devState = stREADY ∨ s.devState = stRUNNING → k.op = opCOLFRAG → k.rsp = false → State.colBad k = false →
      let p := (s.fromInbox k).1
      let t := (s.fromInbox k).2
      (k.arg.testBit 10 = true → exec (.colfragReady k) s = .next (s.after ((t.colDeliver k).respond p k rsOK [])))
      ∧ (k.arg.testBit 10 = false → k.arg.testBit 11 = true →
        exec (.colfragPause k) s = .next (s.after ((t.colDeliver k).respond p k rsOK [])))
      ∧ (k.arg.testBit 10 = false → k.arg.testBit 11 = false →
        exec (.colfragData k) s = .next (s.after ((t.colDeliver k).respond p k rsOK []))))

/-! Launches, contexts, pre-emption -/

/-- A launch from its SEQ word to its completion record (06 R190, R191, R214 to R218; 18 R594, R600 to R602): a write of SEQ
stores the word, and it discards, holds or acts on it; a held SEQ is acted on once the slot is empty; a range starts its rooms; a room whose
stream has ended is counted; the launch then ends with its record, or with its fault's. -/
def Obligations.LaunchEventsAct : Prop :=
  ∀ (s : State) (c sl r : Nat) (l : Launch), s.specified [bSTW, bRoom r] →
    (∀ seq, c < 16 → sl < 64 → s.working = true →
      exec (.launchSeqWrite c sl seq) s = .next (s.after ((s.hbmSet (slotAddr c sl + 0xF8) 8 seq.toNat).seqWritten c sl seq.toNat)))
    ∧ (∀ seq, (s.lslot c sl).held = some seq → (s.lslot c sl).launch = none → s.devState ≠ stDRAINING → s.working = true →
      exec (.launchHeldSeq c sl) s = .next (s.after (s.seqWritten c sl (s.hbmLe (slotAddr c sl + 0xF8) 8))))
    ∧ (s.mayStart c sl = true → exec (.launchRangeStart c sl) s = .next (s.after (s.startLaunch c sl)))
    ∧ (∀ li, s.working = true → (s.room r).seqr.launch = some (c, sl) → (s.room r).lease = some (c, li) →
      (s.room r).seqr.ended = true → (s.room r).infl = [] →
      exec (.roomLaunchEnd r) s = .next (s.after (s.modLaunch c sl fun l =>
        { l with ended := if l.ended.contains li then l.ended else li :: l.ended })))
    ∧ (s.working = true → s.launch c sl = some l → l.running = true → l.fault = none →
      (State.rangeOf l.lr).all l.ended.contains = true →
      exec (.launchComplete c sl) s = .next (s.after (s.finishLaunch c sl csDONE)))
    ∧ (s.working = true → s.faultEnds c sl = true →
      exec (.launchFaultEnd c sl) s = .next (s.after (s.finishLaunch c sl csFAULT)))

/-- Bus Master Enable lets the held completion records go, context by context and in their order (18 R594). -/
def Obligations.BusMasterEnableSendsHeldRecords : Prop :=
  ∀ s : State, s.specified [bSTW] →
    exec .bmeSet s = .next (s.after ((List.range 16).foldl (fun t c => match t.ctx c with
      | none => t
      | some x => x.heldCpl.foldl (fun u y => u.postCpl c y.1 y.2.1 y.2.2) (t.modCtx c fun z => { z with heldCpl := [] }))
      ({ s with host := { s.host with bme := true } } : State)))

/-- CTX_CREATE, CTX_DESTROY and CTX_RESET answer OK with their effect, on a context index and descriptor that are right (06 R199 to
R202; 18 R606; 20 Table 20.4). -/
def Obligations.ContextCommandsAct : Prop :=
  ∀ (s t : State) (q : Req) (rooms : List Nat), s.specified [bSTW, bVNTW, bVNTE] →
    let c := q.arg 0
    let d := State.CtxDesc.parse (q.bodyAt 0 256)
    (∀ b, s.cmdGoes q 1 1 false t → c < 16 → ctxReserved (q.bodyAt 0 256) = false → t.ctx c = none → t.badLease d rooms.length = false →
      t.freeLadder d.ladders = some b → t.grantable rooms = true → d.roomsMin ≤ rooms.length → rooms.length ≤ d.roomsMax →
      0 < rooms.length →
      exec (.ctxCreate q rooms) s = .next (s.after ((t.createCtx c d b rooms).answer q { status := cOK })))
    ∧ (∀ x, s.cmdGoes q 2 1 false t → t.ctx c = some x → x.slots.all (fun l => l.launch.isNone) = true →
      exec (.ctxDestroy q) s = .next (s.after ((t.destroyCtx c x).answer q { status := cOK })))
    ∧ (∀ x, s.cmdGoes q 3 1 false t → t.ctx c = some x →
      exec (.ctxReset q rooms) s = .next (s.after ((t.resetCtx c rooms).answer q { status := cOK })))

/-- Pre-emption and time slicing (06 R203, R204; 08 R301 to R304): a room is saved at its pre-emption point, a context that gives way
stops issuing and goes out whole once every room is at its point, behind the others, a saved room is read back into a free active room,
the next context comes in again whole, and an expired quantum lets an equal take its turn, or begins again. -/
def Obligations.PreemptionActs : Prop :=
  ∀ (s : State) (c r : Nat) (x : Ctx), s.specified [bSTW, bRoom r] → s.working = true →
    ((s.room r).lease.isSome = true → (s.room r).role ≠ 3 → (s.stopRoom r).atPoint r = true → (s.stopRoom r).faulted r = false →
      exec (.preemptRoom r) s = .next (s.after ((s.stopRoom r).saveRoom r)))
    ∧ (∀ li, s.ctx c = some x → x.slicedOut = false → s.grantable [r] = true → s.allFree [r] = true → li < x.rooms.length →
      exec (.restoreRoom c li r) s = .next (s.after (s.loadRoom c li r)))
    ∧ (s.ctx c = some x → x.slicedOut = false → x.quantum.1 + x.quantum.2 ≤ s.now →
      (s.contended = true → s.equalWaits c = true →
        exec (.quantumExpiry c) s = .next (s.after (((x.rooms.zipIdx.filter fun v => (s.room v.1).lease = some (c, v.2)).foldl
          (fun t v => t.stopRoom v.1) s).modCtx c fun y => { y with rotate := true })))
      ∧ (s.contended = false ∨ s.equalWaits c = false →
        exec (.quantumExpiry c) s = .next (s.after (s.modCtx c fun y => { y with quantum := (s.now, s.quantumNs c) }))))
    ∧ (s.ctx c = some x → x.slicedOut = false → s.givesWay c = true →
      let rs := (x.rooms.zipIdx.filter fun v => (s.room v.1).lease = some (c, v.2)).map (·.1)
      let u := rs.foldl (fun t r => t.stopRoom r) s
      ((rs.all fun r => u.atPoint r && !u.faulted r) = true →
        exec (.sliceOut c) s = .next (s.after ((rs.foldl (fun t r => t.saveRoom r) u).modCtx c fun y => { y with
          rooms := [], slicedOut := true, rotate := false, turn := s.lastTurn
          lnd := (x.rooms.head?.map fun r => s.reg (rLND_CTL r)).getD x.lnd })))
      ∧ ((rs.all fun r => u.atPoint r && !u.faulted r) = false → exec (.sliceOut c) s = .next (s.after u)))
    ∧ (∀ rooms, s.ctx c = some x → x.slicedOut = true → s.nextIn c = true → s.grantable rooms = true → s.allFree rooms = true →
      rooms.length = x.size →
      exec (.sliceIn c rooms) s = .next (s.after (rooms.zipIdx.foldl (fun t v => t.loadRoom c v.2 v.1)
        ((s.modCtx c fun y => { y with rooms := rooms, slicedOut := false }).placeLease c rooms))))

/-! Translation faults, the press, the racking engine -/

/-- The steward and the host resolve a translation fault (08 R292, R293; 18 R608 to R610): the steward takes a waiting fault up, a filled
frame is mapped, an expired answer fails its fault, and the three commands of the ring answer OK. -/
def Obligations.FaultResolutionActs : Prop :=
  ∀ (s t : State) (wid : Nat) (w : WaitF) (q : Req), s.specified [bSTW, bMMU] →
    (s.working = true → s.findWait wid = some w → w.st = .steward →
      exec (.stewardFaultResolve wid) s = .next (s.after (s.resolve1 w)))
    ∧ (∀ frame slot pte, s.working = true → s.findWait wid = some w → w.st = .filling frame slot pte →
      exec (.faultFillDone wid) s = .next (s.after (s.fillDone w frame slot pte)))
    ∧ (s.working = true → s.findWait wid = some w →
      (w.who = .window ∧ w.t + s.faultTmoNs ≤ s.now ∨ w.who ≠ .window ∧ w.handed = true ∧ w.handT + s.faultTmoNs ≤ s.now) →
      ((∀ frame slot pte, w.st ≠ .filling frame slot pte) →
        exec (.faultTmoExpiry wid) s = .next (s.after ((s.failWait w).promote)))
      ∧ (∀ frame slot pte, w.st = .filling frame slot pte →
        exec (.faultTmoExpiry wid) s = .next (s.after ((((s.putFrame (s.poolAt w) frame).failWait w).promote)))))
    ∧ (s.cmdGoes q 0xA 2 false t → q.arg 0 % 4096 = 0 → [64, 128, 256, 512, 1024, 2048, 4096].contains (q.arg 1) = true →
      exec (.faultRing q) s = .next (s.after ((t.newRing (q.arg 0) (q.arg 1)).answer q { status := cOK })))
    ∧ (s.cmdGoes q 0xA 2 false t → q.arg 0 % 4096 = 0 → q.arg 1 = 0 →
      exec (.faultRing q) s = .next (s.after (({ t with host := { t.host with ring := none } } : State).answer q { status := cOK })))
    ∧ (s.cmdGoes q 0xB 2 false t → q.arg 1 ≤ 1 → t.mmu.waits.find? (fun w => w.st = .host (q.arg 0)) = some w →
      exec (.faultAnswer q) s = .next (s.after
        (((if q.arg 1 = 0 then t.resumeWait w else t.failWait w).promote).answer q { status := cOK })))
    ∧ (s.cmdGoes q 0xC 2 false t → q.arg 1 ≠ 0 → q.arg 1 ≤ 246 →
      exec (.retiredRead q) s = .next (s.after (t.answer q {
        status := cOK, detail := t.mmu.retired.length
        body := ((t.mmu.retired.drop (q.arg 0)).take (q.arg 1)).flatMap fun a => leBytes 8 a })))

/-- The press's stages move samples as 09 R314 to R337 give: an admission, a chunk fetched here, asked of the fabric or lost, a chunk
parsed whose units all go on, a granted DPB request, the video core's headers and pictures, units of the audio and caption stages, a
tensorized picture, the finished sample's way into the racking stage, and the limiter's window (09 R321). -/
def Obligations.PressStagesAct : Prop :=
  ∀ (s : State) (c id : Nat) (x : Sample), s.specified [bPRS, bRCK] → s.working = true →
    (∀ cl p j n e, s.pressJob c = some p → s.rackJob c = some j → cl < 8 → s.couldAdmit c = true → s.pressTurn c = true →
      let y := s.pressNew c cl j
      s.findClip c y.idx = .val (some (n, e)) → p.bad.contains n = false → (∀ b f, s.startByte c e y.idx = .val (b, f) →
      exec (.pressAdmit c cl) s = .next (s.after (s.pressEnter c { y with clip := n, entry := e, start := b, startFrame := f }))))
    ∧ (∀ cl p j va n, s.pressJob c = some p → s.rackJob c = some j → cl < 8 → s.couldAdmit c = true → s.pressTurn c = true →
      s.findClip c (s.pressNew c cl j).idx = .ask va n → exec (.pressAdmit c cl) s = .next (s.after (s.clipAsk c va n)))
    ∧ (s.sample c id = some x → State.Sample.toFetch x = true → s.chunksHeld x.cluster < 256 →
      let lost := s.modSample id fun y => { y with fetched := y.fetched + 1, lost := y.fetched :: y.lost, asked := [] }
      exec (.pressFetchChunk c id false) s = .next (s.after lost)
      ∧ (∀ e, s.fetchSpan c x = .error e → exec (.pressFetchChunk c id true) s = .next (s.after lost))
      ∧ (∀ ls, s.fetchSpan c x = .ok ls →
        let near := ls.filterMap fun (o, l, k) => match l with
          | .glob _ => none
          | _ => some (o, s.locRead l k)
        let far := ls.flatMap fun (o, l, k) => match l with
          | .glob ga => (globPieces ga k).map fun y => (o + (y.1 - ga), y.1, y.2)
          | _ => []
        (far = [] → exec (.pressFetchChunk c id true) s = .next (s.after ((s.modSample id fun y =>
          { y with src := y.src ++ near, asked := [], fetched := y.fetched + 1 }).unitDone x 0)))
        ∧ (far ≠ [] → exec (.pressFetchChunk c id true) s = .next (s.after (far.foldl (fun t (o, ga, k) =>
          t.request (.press c id o) { op := opREAD, dst := ga / 2 ^ 44 % 2 ^ 18, addr := ga, arg := k })
          (s.modSample id fun y => { y with src := y.src ++ near, asked := far.map (·.1) }))))))
    ∧ (∀ core us, s.sample c id = some x → x.held = none → x.parsed < x.fetched → x.parsedAll = false → x.units = some us →
      let y := s.routeUnits core us x
      y.units = some [] →
      exec (.demuxParse c id core) s = .next (s.after (((s.unitDone x 1).putSample { y with
        parsed := x.parsed + 1, units := none
        parsedAll := (Config.demux (s.pressIn x (x.parsed + 1)) x.idx x.parsed).last
          || decide (fieldLe x.entry 8 8 ≤ x.start + 65536 * (x.parsed + 1)) }).pressShort c id)))
    ∧ (∀ core, s.sample c id = some x → x.held = none → x.parsed < x.fetched → x.parsedAll = false → x.units = none →
      let o := Config.demux (s.pressIn x (x.parsed + 1)) x.idx x.parsed
      let found := (if x.lost.contains x.parsed then [9] else []) ++ o.problems
      let t := s.putSample { x with units := some o.units }
      let u := if x.parsed = 0 then t.containerCheck c id x.entry (Config.container (s.pressIn x (x.parsed + 1))) else t
      exec (.demuxParse c id core) s = .next (s.after ((found.foldl (fun v p => v.pressProblem c id p) u).demuxRoute c id core o.last)))
    ∧ (∀ wing i n rest, s.prs.dpbQ.getD wing [] = (i, n) :: rest → s.dpbUsed wing + n ≤ s.dpbPool →
      let t := (s.modPrs fun p => { p with dpbQ := p.dpbQ.set wing rest }).modSample i fun y => { y with dpb := some n }
      (∀ y, (s.prs.samples.find? fun z => z.id = i) = some y → exec (.dpbReserve wing) s = .next (s.after (t.unitDone y 3)))
      ∧ ((s.prs.samples.find? fun z => z.id = i) = none → exec (.dpbReserve wing) s = .next (s.after t)))
    ∧ (∀ core n rest, s.sample c id = some x → x.held = none → x.core = some core → s.coreFenced core = false → x.auQ = n :: rest →
      (x.seq = none →
        let h := Config.seqHdr (s.pressIn x n)
        let t := s.putSample { x with seq := some h }
        let other := fieldLe x.entry 0x32 1 = 3 && decide (fieldLe x.entry 0x33 1 / 4 % 8 ≠ h.codec)
        exec (.videoDecodeAu c id core) s = .next (s.after (
          if !h.supported || other || h.granules > s.dpbPool then t.pressProblem c id 11
          else t.modPrs fun p => { p with
            dpbQ := p.dpbQ.set (x.cluster / 4) (p.dpbQ.getD (x.cluster / 4) [] ++ [(id, h.granules)]) })))
      ∧ (∀ h d, x.seq = some h → x.dpb = some d → x.ready = [] →
        let o := Config.decodeAu (s.pressIn x n) x.auNo
        let y := o.pics.zipIdx.foldl (showPic (s.jobRec c) (State.outFrame0 x) n) (x, 0)
        let t := (s.unitDone x 2).putSample
          (({ y.1 with auQ := x.auQ.drop 1, auNo := x.auNo + 1 } : Sample).stopAt (fieldLe (s.jobRec c) 0x18 2)).moveOut
        let drops := y.2 ≠ 0 ∧ fieldLe (s.jobRec c) 0xD 1 % 4 ≠ 0
        let u := ((o.problem.orElse fun _ => if drops then some 6 else none).map fun p => t.pressProblem c id p).getD t
        exec (.videoDecodeAu c id core) s = .next (s.after ((if y.2 = 0 then u else u.pressConceal c id y.2).pressShort c id))))
    ∧ (∀ n rest, s.sample c id = some x → x.held = none → x.audioQ = n :: rest →
      let h := x.seq.getD (Config.seqHdr (s.pressIn x n))
      let need := if x.pcm = 0 then State.pcmNeed (s.jobRec c) h else x.pcm
      need + s.unitsElse x (·.pcm) ≤ 32 * 2 ^ 20 →
      let o := Config.audioUnit (s.pressIn x n) x.idx x.audioNo
      let bad := o.bad && decide ((o.first : Rat) < 48000 * spanOf (s.jobRec c) h)
      let t := (s.unitDone x 4).putSample { x with
        audioQ := rest, audioNo := x.audioNo + 1, pcm := need, silent := if bad then (o.first, o.count) :: x.silent else x.silent }
      let ok := (Config.audioHdr (s.pressIn x n)).supported (fieldLe x.entry 0x32 1)
      exec (.audioDecode c id) s = .next (s.after (if x.audioNo = 0 ∧ ok = false then t.pressProblem c id 11
        else if bad then (t.pressProblem c id 8).pressConceal c id 0 else t)))
    ∧ (∀ n rest, s.sample c id = some x → x.held = none → x.capQ = n :: rest →
      let h := x.seq.getD (Config.seqHdr (s.pressIn x n))
      let o := Config.captionUnit (s.pressIn x n) x.idx x.capNo
      let y := { x with capQ := rest, capNo := x.capNo + 1 }
      exec (.captionExtract c id) s = .next (s.after (if o.bad then ((s.unitDone x 5).putSample y).pressProblem c id 10
        else (s.unitDone x 5).putSample
          ((o.spans.filterMap (capRecord (s.jobRec c) h)).foldl (fun (z : Sample) b =>
            if z.caps.length + b.length ≤ 65536 then { z with spans := z.spans + 1, caps := z.caps ++ b }
            else { z with capLoss := true, omitted := z.omitted + 1 }) y))))
    ∧ (∀ p rest h, s.sample c id = some x → x.held = none → x.outQ = p :: rest → x.seq = some h →
      let f := fieldLe (s.jobRec c)
      x.frames < f 0x18 2 → (x.group = [] → s.blocksUsed + State.blockSize (s.jobRec c) ≤ 16384) →
      (s.cropOrigin x).1 + f 0x24 2 ≤ h.width →
      (s.cropOrigin x).2 + f 0x26 2 ≤ (if p.field = 0 then h.height else h.height / 2) →
      let g := x.group ++ [p]
      let y : Sample := ({ x with outQ := rest, frames := x.frames + 1, group := g } : Sample).moveOut
      (g.length < f 0x34 1 →
        exec (.tensorizeFrame c id) s = .next (s.after ((s.unitDone x 6).putSample (y.streamEnd (f 0x18 2)))))
      ∧ (f 0x34 1 ≤ g.length →
        exec (.tensorizeFrame c id) s = .next (s.after ((s.unitDone x 6).putSample (({ y with
          group := [], blocks := y.blocks + 1
          tensor := State.putBlock (s.jobRec c) y.tensor (x.frames / f 0x34 1) (blockBytes (s.jobRec c) (s.flips x) (g.map (s.cropOf x h))) } :
            Sample).streamEnd (f 0x18 2))))))
    ∧ (s.sample c id = some x → (∀ y ∈ s.prs.samples, y.cluster = x.cluster → y.held = none) → s.wholeSample x = true →
      let t := (s.stageSample c { x with blocks := 0 }).pressFinish { x with blocks := 0 } false false
      (t.sample c id).isSome = false →
      exec (.assembleSample c id) s = .next (s.after (t.unitDone x 7)))
    ∧ (s.sample c id = some x → (∀ y ∈ s.prs.samples, y.cluster = x.cluster → y.held = none) → s.wholeSample x = false →
      exec (.assembleSample c id) s = .next (s.after (s.putSample { x with blocks := 0 })))
    ∧ (∀ (m : List StageBusy) (b : StageBusy), b ∈ m → b.out = false → b.stage < 8 →
      (∀ y ∈ m, y.out = false → y.stage < 8 → y ≠ b → y.busy < b.busy) →
      ∃ cls, cls < 256 ∧ exec (.pressLimiterWindow m) s = .next (s.after
        (((s.setRegBits rPRS_LIMITER 24 4 b.stage).setRegBits rPRS_LIMITER 10 10 (min b.busy 1000)).setRegBits rPRS_LIMITER 0 8 cls)))

/-- PRESS_OPEN, PRESS_CLOSE, RACK_OPEN and RACK_CLOSE answer OK with their job opened or closed, once the record has come; an open
waits while it lies on another module, and RACK_OPEN of a record that breaks a condition is refused (09 R324, Table 9.11; 10 R354, Table 10.4; the details' numbers are the model's, log 24). -/
def Obligations.JobCommandsAct : Prop :=
  ∀ (s t : State) (q : Req) (x : Ctx),
    let c := q.arg 0
    (∀ bs u, s.specified [bSTW, bPRS] → s.cmdGoes q 4 2 false t → t.ctx c = some x → t.pressJob c = none →
      t.farRead (.job c) c none (q.arg 1) 128 = .ok (some bs, u) → pressBad bs = none →
      exec (.pressOpen q) s = .next (s.after (((u.modPrs fun p => { p with
        jobs := mapSet p.jobs c (some { rec' := bs, maxSize := pressMaxSize bs }) }).activity).answer q { status := cOK })))
    ∧ (∀ j, s.specified [bSTW, bPRS] → s.cmdGoes q 5 1 false t → t.ctx c = some x → t.pressJob c = some j →
      exec (.pressClose q) s = .next (s.after (((t.pressEnd c).activity).answer q { status := cOK })))
    ∧ (s.specified [bSTW, bRCK] → s.cmdGoes q 6 2 false t → t.ctx c = some x → t.rackJob c = none →
      (∀ e, t.farRead (.job c) c none (q.arg 1) 128 = .error e →
        exec (.rackOpen q) s = .next (s.after (t.answer q { status := cREFUSED, detail := 1 })))
      ∧ (∀ u, t.farRead (.job c) c none (q.arg 1) 128 = .ok (none, u) →
        exec (.rackOpen q) s = .next (s.after { u with host := { u.host with waiting := some q } }))
      ∧ (∀ bs u, t.farRead (.job c) c none (q.arg 1) 128 = .ok (some bs, u) →
        ((u.rackBad c bs (u.pressMax c)).find? (·.1) = none →
          exec (.rackOpen q) s = .next (s.after ((u.rackStart c (u.rackJobOf c bs)).answer q { status := cOK })))
        ∧ (∀ b d, (u.rackBad c bs (u.pressMax c)).find? (·.1) = some (b, d) →
          exec (.rackOpen q) s = .next (s.after (u.answer q { status := cREFUSED, detail := d })))))
    ∧ (∀ j, s.specified [bSTW, bRCK] → s.cmdGoes q 7 1 false t → t.ctx c = some x → t.rackJob c = some j →
      exec (.rackClose q) s = .next (s.after (((t.rackEnd c).activity).answer q { status := cOK })))

/-- Rack transfers on a working module: DATA lands in the receive ring, CREDIT sets its sender's horizon, DROPPED ends its
position, and a staged sample goes to its trainer's modules (10 R356 to R360). -/
def Obligations.RackTransfersAct : Prop :=
  ∀ (s : State) (k : Packet) (c : Nat) (j : RackJob), s.specified [bFAB, bRCK] → s.working = true →
    let p := (s.fromInbox k).1
    let t := (s.fromInbox k).2
    (s.devState ≠ stDRAINING → k.op = opRACK → k.rsp = false → t.rackFor k = some (c, j) →
      (k.arg % 4 = rkDATA → exec (.rackData k) s = .next (s.after (t.rackLand c p k)))
      ∧ (∀ sl u, k.arg % 4 = rkDATA → t.rackJob c = some j → t.rackStopped = false → t.rackSlot j k.addr = some sl →
        let off : Nat := k.arg / 2 ^ 32
        let a0 : Arrival := (j.arr.find? fun x => x.g = k.addr).getD { g := k.addr }
        let a : Arrival := if a0.st = 3 ∧ off = 0 then { g := k.addr } else a0
        let total := if off = 0 then some (fieldLe k.data 0x38 4) else a.total
        a.st = 0 → off + k.data.length ≤ j.slotBytes →
        (off = 0 → fieldLe k.data 0 8 = rackSample j k.addr ∧ fieldLe k.data 0x38 4 ≠ 0 ∧ fieldLe k.data 0x38 4 ≤ j.slotBytes) →
        t.farWrite (.racking c k.addr off) c none (j.recv + sl * j.slotBytes + off) k.data = .ok (true, u) →
        exec (.rackData k) s = .next (s.after (u.rackLanded c p k a total)))
      ∧ (k.arg % 4 = rkCREDIT → exec (.rackCredit k) s = .next (s.after ((t.modRack c fun j =>
        { j with horizons := natPut j.horizons k.src k.addr }).respond p k rsOK [])))
      ∧ (∀ sl, k.arg % 4 = rkDROPPED → t.rackSlot j k.addr = some sl →
        let a := (j.arr.find? fun x => x.g = k.addr).getD { g := k.addr }
        exec (.rackDropped k) s = .next (s.after ((if a.st = 0 ∨ a.st = 3 then
          (t.putArrival c { g := k.addr, st := 2, t := s.now }).rackTrace c k.addr 1 else t).respond p k rsOK []))))
    ∧ (∀ (g : W64) x, s.rackJob c = some j → (s.rck.stage.find? fun x => x.ctx = c && x.g = g.toNat && !x.sent) = some x →
      let n := cdiv x.bytes.length 4096
      let ms := rackModules j g.toNat
      let u : State := { s with rck := { s.rck with stage := s.rck.stage.map fun (y : Staged) =>
        if y.ctx = c ∧ y.g = g.toNat then { y with sent := true, waits := n * ms.length } else y } }
      exec (.rackSend c g) s = .next (s.after (((ms.foldl (fun t m => (List.range n).foldl (fun v i => v.request (.rack c g.toNat) {
        op := opRACK, dst := m, addr := g.toNat, arg := 4096 * i * 2 ^ 32, data := (x.bytes.drop (4096 * i)).take 4096 }) t) u).bump
        fmRACKING 0 4 1).bump fmPRESS (9 * x.cluster + 8) 0 1)))

/-! Management messages, snapshots, the collator -/

/-- Hellos and the partner table's timers: a hello on a port in UP that the module uses enters the table, each such port sends its own, a silent
neighbour is forgotten, a silent partner is LOST, and JOIN goes to the known manager (11 R396, R411 to R414). -/
def Obligations.DiscoveryActs : Prop :=
  ∀ (s : State) (p : Nat), s.specified [bFAB] →
    (∀ h now, p < 32 → s.devState ≠ stOFF → s.portUp p = true →
      let wrong := decide (p < 16) && decide (s.fab.slotId ≤ 8) && !h.taken && decide (h.pos ≠ State.wiredTo s.fab.slotId p)
      let t := (((s.modPort p fun q => { q with hello := some (h, s.now) }).setRegBits (rFAB_PORT p) 23 4
        (if h.pos ≤ 8 then h.pos else 15)).setRegBit (rFAB_PORT p) 22 wrong).helloPartner p h
      let u := if t.aligned && s.parentAligned && !t.parentAligned then t.holdover else t
      let twin : Prop := h.num.isSome = true ∧ h.num = u.fab.num ∧ h.serial ≠ u.serial ∧ u.fab.taken = none
      (twin → exec (.hello p h now) s = .next (s.after u.displaced)) ∧ (¬ twin → exec (.hello p h now) s = .next (s.after u)))
    ∧ (p < 32 → s.devState ≠ stOFF → s.portUp p = true →
      exec (.helloSend p) s = .next (s.after (s.sendOn p { op := opMGMT, isLocal := true, src := s.fab.num.getD 0, arg := 1,
                                                           data := State.helloBytes (s.myHello p) })))
    ∧ (∀ h t, p < 32 → s.devState ≠ stOFF → (s.port p).hello = some (h, t) → t + 5 * s.helloNs ≤ s.now →
      let u := ((((s.modPort p fun q => { q with hello := none }).modPartner h.serial fun x =>
        { x with ports := if x.ports.testBit p then x.ports - 2 ^ p else x.ports }).setRegBits (rFAB_PORT p) 23 4 15).setRegBit
        (rFAB_PORT p) 22 false)
      exec (.neighbourLost p) s = .next (s.after
        (if u.aligned && s.parentAligned && !u.parentAligned then u.holdover else u)))
    ∧ (∀ x, s.devState ≠ stOFF → s.fab.partners[p]? = some x → x.nearHello = true → x.ports = 0 → x.health ≠ hLOST →
      x.annT + 5 * s.helloNs ≤ s.now →
      exec (.partnerLost p) s = .next (s.after (s.putPartner { x with health := hLOST })))
    ∧ (∀ ser m, s.working = true → s.fab.assigned = false → s.fab.manager = some (ser, m) →
      let k : Packet := { op := opMGMT, dst := m, arg := 2 }
      let mask := leBytes 4 ((((List.range 32).filter fun p => s.portState p = psUP).map fun p => 2 ^ p).sum)
      exec .joinSend s = .next (s.after (s.request .mgmt
        { k with data := State.helloBytes (s.myHello ((s.routePort k).getD 0)) ++ mask })))

/-- The fabric manager's messages to a module out of VESTIBULE: ASSIGN, ROUTE, ANNOUNCE, WITHDRAW and QUERY take effect and answer
OK; a message of no known type is refused (11 R394, R398, R412 to R415). -/
def Obligations.ManagerMessagesAct : Prop :=
  ∀ (s t : State) (k : Packet) (p : Nat), s.specified [bFAB] →
    (s.mgmtGoes k 3 p t → t.devState = stREADY → t.ctxs.all (·.isNone) = true →
      let d := fieldLe k.data 0 4 % 2 ^ 18
      t.fitsHouse d = true →
      let t1 := t.modFab fun f => { f with num := some d, assigned := true, manager := some (t.serialOf k.src, k.src) }
      exec (.assign k) s = .next (s.after ((if d = 0 ∧ !t1.aligned then t1.setAligned else t1).respond p k rsOK [])))
    ∧ (s.mgmtGoes k 4 p t →
      let i := fieldLe k.data 0 2
      let n := fieldLe k.data 2 2
      n ≠ 0 → n ≤ 120 → i + n ≤ 4096 → 4 + 2 * n ≤ k.data.length →
      exec (.route k) s = .next (s.after ((t.modFab fun f => { f with
        route := (List.range n).foldl (fun m j => natPut m (i + j) (fieldLe k.data (4 + 2 * j) 2)) f.route }).respond p k rsOK [])))
    ∧ (∀ u, s.mgmtGoes k 5 p t →
      let n := k.data.length / 32
      n ≠ 0 → n ≤ 8 → k.data.length % 32 = 0 →
      ((List.range n).map fun i => Partner.parse (k.data.drop (32 * i))).foldl (fun acc x => acc.bind fun u => u.announce1 k.src x) (some t)
        = some u →
      exec (.announce k) s = .next (s.after (u.respond p k rsOK [])))
    ∧ (s.mgmtGoes k 6 p t →
      let ser := ((List.range (k.data.length / 8)).map fun i => fieldLe k.data (8 * i) 8).filter (· ≠ 0)
      ser ≠ [] → ser.length ≤ 30 →
      exec (.withdraw k) s = .next (s.after ((t.modFab fun f => { f with
        partners := (f.partners.filter fun x => !(ser.contains x.serial && x.announced && !x.nearHello)).map fun x =>
          if ser.contains x.serial then { x with announced := false } else x }).respond p k rsOK [])))
    ∧ (s.takeMgmt k [8] = some (p, t) → fieldLe k.data 2 2 ≠ 0 → fieldLe k.data 2 2 ≤ 127 →
      exec (.query k) s = .next (s.after (t.respond p k rsOK
        (((t.fab.partners.drop (fieldLe k.data 0 2)).take (fieldLe k.data 2 2)).flatMap Partner.bytes))))
    ∧ (mgmtTypes.contains (k.arg % 65536) = false → s.takeMgmt k [k.arg % 65536] = some (p, t) →
      exec (.unknownMgmtMessage k) s = .next (s.after (t.mgmtRefuse p k)))

/-- Snapshots of protected contexts: a generation that is due starts, its reads end, and a holder takes, seals and lists pieces
(14 R489 to R495, R499, R507). -/
def Obligations.SnapshotsAct : Prop :=
  ∀ (s t : State) (c p : Nat) (k : Packet), s.specified [bSTW, bFAB] →
    (∀ risk, s.working = true → s.snapFree c = true → (risk = true → s.res.due.contains c = true) →
      (risk = false → s.snapDue c = true) →
      exec (.snapshotStart c risk) s = .next (s.after (s.startSnap c risk)))
    ∧ (∀ g, s.working = true → s.curSnap c = some g → g.reading = true →
      let u := s.modSnap c fun g => { g with reading := false }
      exec (.snapshotReadsDone c) s = .next (s.after (if g.guards then u.modCtx c fun x => { x with guardDue := false } else u)))
    ∧ (∀ b off, s.mgmtGoes k 0x20 p t →
      let m := fieldLe k.data 8 4 % 2 ^ 18
      let gen := fieldLe k.data 13 4
      let idx := fieldLe k.data 17 1
      let rest := t.res.held.filter fun h =>
        !(h.ctx = b && h.src = m && h.gen % 2 = gen % 2)
      t.buddyCtx m = some b → State.firstFit (t.protLe b 8 8) (fieldLe k.data 18 8) (rest.filter fun h => h.ctx = b) = some off →
      exec (.snapOffer k) s = .next (s.after ((t.modRes fun r => { r with held := rest ++
        [{ ctx := b, src := m, gen := gen, idx := idx, size := fieldLe k.data 18 8, off := off }] }).respond p k rsOK (leBytes 8 off))))
    ∧ (s.mgmtGoes k 0x21 p t →
      let hit (h : HeldPiece) : Bool := h.src = k.src && h.gen = fieldLe k.data 0 4 && h.idx = fieldLe k.data 4 1
      t.anyProt = true → t.res.held.any hit = true →
      let close (h : HeldPiece) : HeldPiece :=
        { h with sealed := some (fieldLe k.data 5 8, fieldLe k.data 13 1 % 2 = 1, (k.data.drop 14).take 32) }
      exec (.snapSeal k) s = .next (s.after
        ((t.modRes fun r => { r with held := r.held.map (fun h => if hit h then close h else h) }).respond p k rsOK [])))
    ∧ (s.mgmtGoes k 0x22 p t → t.anyProt = true →
      exec (.snapLocate k) s = .next (s.after (t.respond p k rsOK
        ((t.res.held.filter fun h => h.src = fieldLe k.data 0 4 % 2 ^ 18).flatMap HeldPiece.bytes))))

/-- The collator and the risk monitor: a SUSPECT is a report, and about this module a complaint too, TAKEOVER_DONE is
acknowledged, REPLICA_DROP takes its sender's slots away, a digest's root is kept, the monitor evaluates, and the suspect table's
timers act (14 R496, R497, R502, R505, R510, R514 to R516). -/
def Obligations.ResilienceEventsAct : Prop :=
  ∀ (s t : State) (c p m cls : Nat) (k : Packet) (x : Suspect), s.specified [bFAB, bSTW] →
    (s.mgmtGoes k 0x23 p t →
      let n := fieldLe k.data 0 4
      let u := if some (n % 2 ^ 18) = t.fab.num then
        t.modRes fun r => { r with complaints := r.complaints ++ [(fieldLe k.data 8 4, t.now)] } else t
      n.testBit 31 = true →
      exec (.suspect k) s = .next (s.after ((u.report (n % 2 ^ 18) (fieldLe k.data 4 1) (fieldLe k.data 8 4)).respond p k rsOK [])))
    ∧ (s.mgmtGoes k 0x25 p t → exec (.takeoverDone k) s = .next (s.after (t.respond p k rsOK [])))
    ∧ (s.mgmtGoes k 0x26 p t → exec (.replicaDrop k) s = .next (s.after
      (((List.range 16).foldl (fun u c => u.dropDelivered c k.src (fieldLe k.data 2 8)) t).respond p k rsOK [])))
    ∧ (∀ y, s.working = true → s.digestDue c = true → (s.stepHdr c).phase = phOPEN ∨ (s.stepHdr c).phase = phCHECKED → s.ctx c = some y → y.digest = none →
      exec (.digestDone c) s = .next (s.after (s.modCtx c fun x => { x with digest := some (s.rootNow c) })))
    ∧ (∀ rise, s.working = true →
      let cs := s.contribs rise
      let old := s.regBits rSTW_RISK 29 3
      let rose := (cs.zipIdx).any fun (x, i) => decide (s.res.contrib.getD i 0 < x)
      let falls := !rose && decide (State.levelOf cs < old ∧ s.res.riseT + s.decayNs ≤ s.now)
      let done (new : Nat) : State :=
        let u := s.modRes fun r => { r with
          contrib := cs, risk := r.risk.filter fun x => s.now < x.2.2 + 60 * 10 ^ 9
          riseT := if rose || falls then s.now else r.riseT, complaints := r.complaints.filter fun x => s.now < x.2 + 60 * 10 ^ 9 }
        let v := ((u.setRegBits rSTW_RISK 29 3 new).setRegBits rSTW_RISK 26 3 (max new (s.regBits rSTW_RISK 26 3))).setRegBits
          rSTW_RISK 22 4 (State.topOf cs)
        let w := if old < s.secureLevel ∧ s.secureLevel ≤ new ∧ s.secureLevel ≤ 7 then v.msix 1 2 else v
        (if new = 7 ∧ old ≠ 7 ∧ !s.rasOff then w.suspectSelf Config.selfClass else w).riskStart old new
      (old ≤ State.levelOf cs → exec (.riskTick rise) s = .next (s.after (done (State.levelOf cs))))
      ∧ (State.levelOf cs < old → rose = false → s.res.riseT + s.decayNs ≤ s.now →
        exec (.riskTick rise) s = .next (s.after (done (old - 1))))
      ∧ (State.levelOf cs < old → rose = true ∨ s.now < s.res.riseT + s.decayNs →
        exec (.riskTick rise) s = .next (s.after (done old))))
    ∧ (s.working = true → s.findSuspect m cls = some x → x.opened = true → x.first + 10 ^ 7 ≤ s.now → s.mayReport cls = true →
      exec (.collatorWindowClose m cls) s = .next (s.after (s.sendWindow x)))
    ∧ (s.working = true → s.findSuspect m cls = some x → x.deferred = true → s.mayReport cls = true →
      exec (.collatorDeferredSend m cls) s = .next (s.after (s.sendWindow x)))
    ∧ (s.working = true → s.findSuspect m cls = some x → x.opened = false → x.deferred = false → x.last + 10 ^ 10 ≤ s.now →
      exec (.collatorEntryExpiry m cls) s = .next (s.after (s.modRes fun r =>
        { r with suspects := r.suspects.filter fun y => !(y.mod = m && y.cls = cls) })))

/-- RESTORE of a protected context and RESHARD_ABANDON of a running journal. RESTORE asks every other member of BUDDY_GROUP for its
pieces; once K of a generation have come, a generation that does not restore gives way to the next older one, and without one the context
gets no launches; once the class-1 ranges have come, a root that agrees ends it with the micro-batch of a step not committed dropped and
TAKEOVER_DONE sent, and another root goes on to the next member (12 R453; 14 R501, R503, R505, R513; the details' numbers and the roots'
comparison are the model's, log 34). -/
def Obligations.RecoveryCommandsAct : Prop :=
  ∀ (s t : State) (q : Req) (y : Ctx), s.specified [bSTW, bFAB] →
    (s.cmdGoes q 8 1 false t → t.ctx (q.arg 0) = some y → t.prot (q.arg 0) = true →
      let c := q.arg 0
      let ms := (t.groupMods c (t.protLe c 0x10 2)).eraseDups.filter fun m => some m ≠ t.fab.num
      (ms = [] → exec (.restore q) s = .next (s.after (({ t.modCtx c fun x => { x with noLaunch := true } with
        res := { t.res with restore := none } } : State).answer q { status := cREFUSED, detail := 1 })))
      ∧ (ms ≠ [] → exec (.restore q) s = .next (s.after (ms.foldl (fun u m => u.request (.locate m) {
        op := opMGMT, dst := m, arg := 0x22, data := leBytes 4 (t.fab.num.getD 0) })
        { t with res := { t.res with restore := some { q := q, ctx := c, asked := ms } } }))))
    ∧ (∀ (x : Restoring) (p : RestPiece) (rest : List RestPiece), x.pieces = p :: rest →
      let pieces := x.pieces.map fun p => (p.loc.idx, p.bytes)
      let older := { x with pieces := [], found := x.found.filter fun l => l.gen ≠ p.loc.gen }
      (∀ u, t.restoreGen x.ctx p.loc.commits pieces = some u → t.genDone x = u.fetchRanges { x with pieces := [] })
      ∧ (t.restoreGen x.ctx p.loc.commits pieces = none →
        t.genDone x = t.readGen older
        ∧ (State.pickPieces (t.snapK x.ctx) older.found = none →
          t.genDone x = ({ t.modCtx x.ctx fun y => { y with noLaunch := true } with
            res := { t.res with restore := none } } : State).answer x.q { status := cREFUSED, detail := 1 })))
    ∧ (∀ x m va bs, t.res.restore = some x → x.src = some m → x.left = 1 → t.protRanges x.ctx 1 true ≠ [] →
      let u := (t.ctxWrite x.ctx va bs).modRest fun y => { y with left := 0 }
      u.protRanges x.ctx 1 true ≠ [] →
      t.rangeCame m va bs = if u.rootNow x.ctx = Config.sourceRoot m x.ctx (u.stepHdr x.ctx).commits then u.restored x
        else u.fetchRanges { x with attempt := x.attempt + 1, src := none, left := 0 })
    ∧ (∀ pa, s.cmdGoes q 9 1 false t → t.ctx (q.arg 0) = some y → mapGet t.col.reshDir (q.arg 0) = some pa → t.journalState pa = 1 →
      exec (.reshardAbandon q) s = .next (s.after (((t.abandonResh (q.arg 0) pa).activity).answer q { status := cOK })))

/-! Records, the sideband and PCI Express -/

/-- The commands that read records answer OK with the bytes they name: a group's counters, the STATE body, the lifetime image and
the signature array; an unlisted opcode is answered INVALID (18 R606, R607; 17 R570, R589; 15 R544). -/
def Obligations.RecordCommandsAnswer : Prop :=
  ∀ (s t : State) (q : Req) (y : Ctx), s.specified [bSTW, bCOL] →
    (s.cmdGoes q 0xD 2 true t → t.ctx (q.arg 0) = some y → q.arg 1 < 1024 →
      exec (.groupCounters q) s = .next (s.after (t.answer q ⟨cOK, 0, (List.range 5).flatMap fun i =>
        leBytes 8 (t.count fmGROUP (q.arg 0 * 1024 + q.arg 1) i)⟩)))
    ∧ (s.cmdGoes q 0xE 0 true t →
      exec (.state q) s = .next (s.after (t.answer q ⟨cOK, 0,
        leBytes 1 t.devState ++ leBytes 1 (t.regBits rSTW_RISK 29 3) ++ leBytes 6 0 ++ leBytes 4 (t.regLive rSTW_TEST_STATUS).toNat ++ leBytes 4 0 ++ t.failureSummary⟩)))
    ∧ (s.cmdGoes q 0xF 1 true t →
      let o := q.arg 0
      exec (.lifeRead q) s = .next (s.after (t.answer q
        ⟨cOK, if o + 1968 < t.lifeImage.length then 1 else 0, (t.lifeImage.drop o).take 1968⟩)))
    ∧ (s.cmdGoes q 0x10 1 true t →
      let o := q.arg 0
      let arr := if o = 0 then cborHead 4 t.tst.sigs.length ++ t.tst.sigs.flatten else t.tst.sigArray
      let u := if o = 0 then t.modTst fun x => { x with sigArray := arr } else t
      exec (.sigExport q) s = .next (s.after (u.answer q
          ⟨cOK, if o + 1968 < arr.length then 1 else 0, (arr.drop o).take 1968⟩)))
    ∧ (s.devState ≠ stOFF → knownOps.contains q.opcode = false → s.takeReq q = some t →
      exec (.unknownCommand q) s = .next (s.after (t.answer q { status := cINVALID })))

/-- The service port and the sideband: the first part of a request is kept until the request is whole, a whole one waits for its
execution, an answered one is answered again, an incomplete one is dropped at its timeout, echo and neighbour solicitations are answered, addresses are assigned, and the sensors of
Table 18.9 answer (18 R611 to R614; 20 R650). -/
def Obligations.SidebandActs : Prop :=
  ∀ (s : State), s.specified [bSTW] →
    (∀ (d : NspDatagram) (op : Nat) (bs : List Byte), s.sideband = true → d.sound = true → s.nspWaits d = false →
      let f := fieldLe d.bytes
      ((s.host.kept.find? fun x => x.1 = d.src ∧ x.2.1 = f 4 4) = some (d.src, f 4 4, op, bs) →
        exec (.nspDatagram d) s = .next (s.after (s.emit (.nsp d.src (f 4 4) op bs))))
      ∧ ((s.host.kept.find? fun x => x.1 = d.src ∧ x.2.1 = f 4 4) = none →
        (s.host.parts.find? fun x => x.src = d.src ∧ x.reqId = f 4 4) = none →
        let y : NspPart := { src := d.src, reqId := f 4 4, opcode := f 8 2, total := f 0x10 4,
                             parts := [(f 0xC 4, d.bytes.drop 24)] }
        let rest := s.host.parts.filter fun x => !(x.src = d.src && x.reqId = f 4 4)
        (y.whole = some bs → exec (.nspDatagram d) s = .next (s.after
          { s with host := { s.host with parts := rest, ready := s.host.ready ++ [Req.ofBytes (.nsp d.src (f 4 4)) bs 0] } }))
        ∧ (y.whole = none → s.host.parts.length < 8 → exec (.nspDatagram d) s = .next (s.after
          { s with host := { s.host with parts := rest ++ [y] } }))))
    ∧ (∀ src id, exec (.nspReassemblyTimeout src id) s = .next (s.after
        { s with host := { s.host with parts := s.host.parts.filter fun x => !(x.src = src && x.reqId = id) } }))
    ∧ (∀ m : Icmp, s.sideband = true → m.mine = true → m.kind = 128 ∨ m.kind = 135 →
      exec (.icmpv6Message m) s = .next (s.after (s.emit (.icmp m.src (m.kind + 1) m.data))))
    ∧ (∀ a, s.sideband = true →
      exec (.i3cEntdaa a) s = .next (s.after { s with host := { s.host with i3cAddr := some a } }))
    ∧ (∀ e a, s.sideband = true → s.host.i3cAddr = some a →
      exec (.mctpSetEndpointId e) s = .next (s.after { s with host := { s.host with eid := some e } }))
    ∧ (∀ (p : Pldm) e, s.sideband = true → s.host.eid = some e → p.ty = 2 → p.sensor ≤ stateSensor →
      exec (.pldmRequest p) s = .next (s.after (s.emit (.pldm 2 p.cmd p.sensor
        (if p.sensor = stateSensor then (if s.devState = stVESTIBULE then s.regBits rSTW_TEST_STATUS 24 4 else s.devState)
          else p.reading)))))

/-- BAR2 reads and writes device memory, configuration reads and writes answer and set Bus Master Enable and the BAR's size, and a
function-level reset resets every context or drops the fault ring (18 R591, R592, R594, R596, R597; 20 R649). -/
def Obligations.PciExpressActs : Prop :=
  ∀ (s : State), s.specified [bSTW] →
    (∀ off len data ecc, s.working = true → s.devState ≠ stVESTIBULE → s.devState ≠ stTEST → s.devState ≠ stBOOT →
      off + len ≤ s.host.bar2Gib * 2 ^ 30 → s.barOrigin + off + len ≤ hbmEnd →
      (∀ bs, data = some bs →
        exec (.bar2Access off len data ecc) s = .next (s.after (s.barWrite (s.barOrigin + off) (bs.take len))))
      ∧ (data = none → ecc = false →
        exec (.bar2Access off len data ecc) s = .next (s.after (s.emit (.pcieData (s.barRead (s.barOrigin + off) len))))))
    ∧ (∀ pf off data, s.devState ≠ stOFF → s.devState ≠ stBOOT → s.pwr.perst = false →
      (data = none → exec (.pcieConfigRequest pf off data) s = .next (s.after (s.emit (.regData 3
        (if pf = 0 ∧ off = 4 then putBit (Config.cfgWord pf off) 2 s.host.bme else Config.cfgWord pf off)))))
      ∧ (∀ v, data = some v → pf = 0 → off = 4 → v.getLsbD 2 = false →
        exec (.pcieConfigRequest pf off data) s = .next (s.after { s with host := { s.host with bme := false } }))
      ∧ (∀ v, data = some v → pf = 0 → off = 4 → v.getLsbD 2 = true →
        exec (.pcieConfigRequest pf off data) s = .next (s.after ((List.range 16).foldl (fun t c => match t.ctx c with
          | none => t
          | some x => x.heldCpl.foldl (fun u y => u.postCpl c y.1 y.2.1 y.2.2) (t.modCtx c fun z => { z with heldCpl := [] }))
          { s with host := { s.host with bme := true } }))))
    ∧ (∀ rooms, s.working = true → exec (.flrPf0 rooms) s = .next (s.after
        ((List.range 16).foldl (fun t c => t.resetCtx c (((rooms.find? fun x => x.1 = c).map (·.2)).getD [])) s)))
    ∧ (s.devState ≠ stOFF → exec .flrPf1 s = .next (s.after { s with host := { s.host with ring := none } }))

/-! The debug block -/

/-- The debug block's registers act: counters freeze into the shadows or give an extra sample by their mode, and are sampled; tracing is
armed with an empty store, triggered while it runs or is full, and disarmed; an island's first waiting record enters the store; STOP stops
the module; and the lifetime items go to the slot after the newest, or after one that fails to program (17 R571 to R586, R588, R589; 22
R695). -/
def Obligations.DebugBlockActs : Prop :=
  ∀ (s : State), s.specified [bDBG] → s.devState ≠ stOFF →
    (s.regBits rDBG_CNT_CTL 30 2 = 1 →
      let keep (k : Nat) : Bool := (s.regBits rDBG_CNT_CTL 0 13).testBit (k / 2 ^ 20) && !s.unitGated (k / 2 ^ 20) (k / 64 % 2 ^ 14)
      exec .counterFreeze s = .next (s.after ((s.modDbg fun d => { d with
        shadow := (d.counts.filter fun x => keep x.1).foldl (fun m x => natPut m x.1 x.2) (d.shadow.filter fun x => !keep x.1)
        stale := s.tb.gated.map (·.1) }).setReg rDBG_FREEZE_SEQ (s.reg rDBG_FREEZE_SEQ + 1))))
    ∧ (s.regBits rDBG_CNT_CTL 30 2 = 2 →
      exec .counterFreeze s = .next (s.after (s.sampleNow true)) ∧ exec .counterSample s = .next (s.after (s.sampleNow false)))
    ∧ (let units := if s.regBit rDBG_TRACE_CTL 29 then min 64 (s.regBits rDBG_SPILL_SIZE 0 7) else 0
      let base := ((s.reg rDBG_SPILL_BASE).toNat + (s.reg (rDBG_SPILL_BASE + 4)).toNat * 2 ^ 32) / 2 ^ 26 * 2 ^ 26
      exec .traceArm s = .next (s.after
        (((((s.setReg rDBG_TRACE_LOST 0).setRegBit rDBG_TRACE_STATUS 28 false).setRegBit rDBG_TRACE_STATUS 27 false).setRegBits
          rDBG_TRACE_STATUS 29 3 tsARMED).modDbg fun d => { d with
            cap := 2097152 * (1 + units), spill := base, written := 0, postLeft := 0, trigs := 0 })))
    ∧ (∀ src, s.traceState = tsFULL → exec (.traceTrig src) s = .next (s.after
        (((s.setRegBit rDBG_TRACE_STATUS 28 true).setReg rDBG_TRIG_TIME (BitVec.ofNat 32 s.now)).setReg (rDBG_TRIG_TIME + 4)
          (BitVec.ofNat 32 (s.now / 2 ^ 32)))))
    ∧ (∀ src, s.traceState = tsARMED ∨ s.traceState = tsPOST → s.dbg.trigs ≠ 0 →
      let u := s.modDbg fun d => { d with trigs := d.trigs + 1 }
      let x := u.mkRec isMgmt 0 tyTRIGGER none (Config.trigCode src :: List.replicate 7 0#8 ++ leBytes 8 u.dbg.trigs)
      exec (.traceTrig src) s = .next (s.after
        ((u.modDbg fun d => { d with sseq := natPut d.sseq isMgmt ((x.sseq + 1) % 2 ^ 32) }).storeRec x)))
    ∧ (∀ src, s.traceState = tsARMED → s.dbg.trigs = 0 → exec (.traceTrig src) s = .next (s.after (s.trigger isMgmt src)))
    ∧ exec .traceDisarm s = .next (s.after (s.setRegBits rDBG_TRACE_STATUS 29 3 tsIDLE))
    ∧ (∀ i r rest, (mapGet s.dbg.queues i).getD [] = r :: rest →
      let u := (s.storeRec r).modDbg fun d => { d with queues := mapSet d.queues i (if rest.isEmpty then none else some rest) }
      (natGet s.dbg.qlost i = 0 → exec (.traceRecord i) s = .next (s.after u))
      ∧ (natGet s.dbg.qlost i ≠ 0 → exec (.traceRecord i) s = .next (s.after
        ((u.modDbg fun d => { d with qlost := natPut d.qlost i 0 }).trace i 0 tyLOST none (leBytes 8 (natGet s.dbg.qlost i))))))
    ∧ (s.working = true → exec .stopWrite s = .next (s.after
        ((s.stopWave (s.now / 1024 % 65536) (s.fab.num.getD 0) s.fab.num.isSome s.now).halt)))
    ∧ (∀ ok,
      let at' := match s.lifeNewest with
        | some (i, q, _) => ((i + 1) % 16, q + 1)
        | none => (0, 1)
      let u := if ok then s else s.regCount rLIF_STATUS 16 8 1
      let i := if ok then at'.1 else (at'.1 + 1) % 16
      exec (.lifetimeWriteNow ok) s = .next (s.after
        ((({ u with life := { u.life with slots := u.life.slots.set i (some (at'.2, u.life.work)), lastT := u.now } }.setRegBits
          rLIF_STATUS 0 4 i).setRegBits rLIF_STATUS 4 12 0).setRegBit rLIF_STATUS 31 false)))

/-! Firmware, attestation and critical commands -/

/-- Firmware transfer and attestation: BEGIN opens an empty store, a part of a chunk still open is kept, a fetched chunk of the
right digest is programmed, STATUS reports, ABORT empties a store that is not committed, and the quote and the key are read
(19 R635 to R639, R644, R645). -/
def Obligations.TransferCommandsAct : Prop :=
  ∀ (s t : State) (q : Req), s.specified [] →
    (s.cmdGoes q 0x201 3 true t → q.arg 0 = 0 → q.arg 2 ≤ 1 → q.body.length = 32 → 0 < q.arg 1 → q.arg 1 ≤ 512 * 65536 →
      t.sec.imgState = 0 →
      exec (.fwBegin q) s = .next (s.after (((t.dropImg).modSec fun x =>
        { x with imgState := 1, imgId := q.bodyAt 0 32, imgBytes := q.arg 1 }).answer q { status := cOK })))
    ∧ (∀ n d, s.cmdGoes q 0x202 4 true t → q.arg 0 = 0 → q.arg 1 < 0xFFFF → q.arg 2 % 1024 = 0 → 32 < q.body.length →
      q.body.length ≤ 32 + 1024 → t.sec.imgState = 2 → q.arg 3 = fieldLe t.sec.imgId 0 8 → mapGet t.sec.img.chunks (q.arg 1) = none →
      t.chunkWant 0 (q.arg 1) = some (n, d) → q.arg 2 + (q.body.length - 32) ≤ n →
      (t.sec.parts.find? fun p => p.kind = 0 && p.chunk = q.arg 1) = none →
      let p : FwPart := { kind := 0, chunk := q.arg 1, digest := q.bodyAt 0 32, parts := mapSet [] (q.arg 2) (some (q.body.drop 32)) }
      State.partBytes p n = none →
      exec (.fwPart q) s = .next (s.after ((t.modSec fun x =>
        { x with parts := p :: x.parts.filter fun p => !(p.kind = 0 && p.chunk = q.arg 1) }).answer q { status := cOK })))
    ∧ (∀ n d, s.cmdGoes q 0x203 4 false t → q.arg 0 = 0 → q.arg 1 < 0xFFFF → q.isPf1 = true → mapGet t.sec.img.chunks (q.arg 1) = none →
      t.chunkWant 0 (q.arg 1) = some (n, d) → q.arg 3 = n → sha256 (t.hostMem.read (q.arg 2) n) = d →
      let u := t.modSec fun x => { x with
        parts := x.parts.filter fun p => !(p.kind = 0 && p.chunk = q.arg 1)
        img := { x.img with chunks := mapSet x.img.chunks (q.arg 1) (some (t.hostMem.read (q.arg 2) n)) } }
      let whole := (List.range (u.sec.img.field 6 2)).all fun i => (mapGet u.sec.img.chunks i).isSome
      exec (.fwFetch q) s = .next (s.after
        ((if whole then u.modSec fun x => { x with imgState := 3 } else u).answer q { status := cOK })))
    ∧ (s.cmdGoes q 0x204 1 true t → q.arg 0 = 1 →
      exec (.fwStatus q) s = .next (s.after (t.answer q ⟨cOK, 0, leBytes 8 t.sec.packState ++ t.packId
        ++ leBytes 8 t.packCount ++ leBytes 64 ((List.range 512).foldl (fun a i =>
          if (mapGet t.sec.packChunks i).isSome then a else a + 2 ^ i) 0)⟩)))
    ∧ (s.cmdGoes q 0x204 1 true t → q.arg 0 = 0 →
      exec (.fwStatus q) s = .next (s.after (t.answer q ⟨cOK, 0, leBytes 8 t.sec.imgState
        ++ (t.sec.imgId ++ List.replicate 32 0#8).take 32 ++ leBytes 8 (t.sec.img.field 6 2)
        ++ leBytes 64 ((List.range 512).foldl (fun a i => if (mapGet t.sec.img.chunks i).isSome then a else a + 2 ^ i) 0)⟩)))
    ∧ (s.cmdGoes q 0x205 1 true t → q.arg 0 = 1 → exec (.fwAbort q) s = .next (s.after (t.dropPack.answer q { status := cOK })))
    ∧ (s.cmdGoes q 0x205 1 true t → q.arg 0 = 0 → t.sec.imgState ≠ 4 → t.sec.imgState ≠ 5 →
      exec (.fwAbort q) s = .next (s.after (t.dropImg.answer q { status := cOK })))
    ∧ (s.cmdGoes q 0x210 1 true t → q.arg 0 = 0 → q.body.length = 32 →
      let b := quoteBytes t (q.bodyAt 0 32)
      exec (.attestQuote q) s = .next (s.after ((t.modSec fun x => { x with quote := b }).answer q (pieceAns b 0))))
    ∧ (s.cmdGoes q 0x211 1 true t →
      let b := Config.slhPublic t.sec.idSeed ++ t.sec.endorsement
      q.arg 0 < b.length → exec (.attestKey q) s = .next (s.after (t.answer q (pieceAns b (q.arg 0)))))

/-- A sound critical command takes its counter, has its effect, is audited and counted, and is answered OK: commit, floor, key
rotation, test override, take-over, RAS_OFF, scan-out over NSP, debug unlock and life erase (19 R628 to R634, R643; 14 R498, R500;
17 R586, R587, R590). -/
def Obligations.CriticalCommandsAct : Prop :=
  ∀ (s t : State) (q : Req), s.specified [bSTW, bDBG, bFAB] →
    let u := t.critTaken q
    let args := State.critArgs q
    let ok (op : Nat) (v : State) := s.after ((v.critDone q op { status := cOK }).answer q { status := cOK })
    (s.critGoes q 0x101 t → u.sec.imgState = 3 → sha256 u.sec.img.manifest = args → u.floor ≤ u.sec.img.field 0xC 4 →
      exec (.fwCommit q) s = .next (ok 0x101 (u.modSec fun x => { x with imgState := 4 })))
    ∧ (s.critGoes q 0x102 t → args.length = 4 → u.sec.fuses < 64 → u.floor < fieldLe args 0 4 →
      fieldLe args 0 4 ≤ u.sec.active.field 0xC 4 →
      let v := u.modSec fun x => { x with floors := x.floors.take x.fuses ++ [fieldLe args 0 4], fuses := x.fuses + 1 }
      exec (.floorRaise q) s = .next (ok 0x102 (v.extend 3 (Config.m3Event 2 (fieldLe args 0 4) v.sec.fuses))))
    ∧ (s.critGoes q 0x103 t → args.length = 32 →
      exec (.keyRotate q) s = .next (ok 0x103 (u.modSec fun x =>
        { x with cmdKey := (hmac x.cmdKey (1#8 :: args)).take 32, keyGen := x.keyGen + 1 })))
    ∧ (s.critGoes q 0x104 t → args.length = 1 → fieldLe args 0 1 &&& 0x51 = 0 →
      exec (.testOverride q) s = .next (ok 0x104 (u.modTst fun x =>
        { x with nextOver := [1, 2, 3, 5, 7].filter fun i => (fieldLe args 0 1).testBit i })))
    ∧ (s.critGoes q 0x105 t → args.length = 5 → u.mayTakeOver (fieldLe args 0 4) (fieldLe args 4 1) = true →
      exec (.takeover q) s = .next (ok 0x105 (u.modFab fun f =>
        { f with num := some (fieldLe args 0 4), taken := some (fieldLe args 4 1), assigned := true })))
    ∧ (s.critGoes q 0x106 t → args.length = 1 → fieldLe args 0 1 ≤ 1 → u.regBits rSTW_RISK_CTL 0 1 ≠ fieldLe args 0 1 →
      exec (.rasDisable q) s = .next (ok 0x106 ((u.setRegBits rSTW_RISK_CTL 0 1 (fieldLe args 0 1)).extend 3
        (Config.m3Event 1 (fieldLe args 0 1) 0))))
    ∧ (s.critGoes q 0x107 t → u.devState = stSTOPPED → q.isNsp = true → args.length = 296 → fieldLe args 24 8 ≤ 16 →
      fieldLe args 0 24 < 2 ^ 137 →
      let a : Ans := { status := cOK, body := (scanBytes u (fieldLe args 0 24) ((List.range (fieldLe args 24 8)).map fun i =>
        (fieldLe args (32 + 16 * i) 8, fieldLe args (40 + 16 * i) 8))).drop (fieldLe args 288 8) }
      exec (.scanOut q) s = .next (s.after ((u.critDone q 0x107 a).answer q a)))
    ∧ (s.critGoes q 0x108 t → args = [] →
      exec (.debugUnlock q) s = .next (ok 0x108 ((u.modDbg fun d => { d with unlocked := true }).extend 3 (Config.m3Event 0 0 0))))
    ∧ (s.critGoes q 0x109 t → args = [] →
      let keep := u.life.work.filter fun x => x.1 / 2 ^ 16 = lfMinutes || x.1 / 2 ^ 16 = lfStarts || x.1 / 2 ^ 16 = lfErase
      exec (.lifeErase q) s = .next (ok 0x109
        ((({ u with life := { u.life with work := keep } }).lifeAdd lfErase 0 1).lifeWrite true)))

/-! Time, power, resets -/

/-- Clock stretching and the time base: a droop past the threshold stretches, its end relaxes, an idle spare gates its reference, an
island wakes, the root's load reaches every replica, the first alignment steps the root, a measurement slews it, and a PTM
dialogue is latched (16 R548, R551 to R553, R556, R558, R559, R562). -/
def Obligations.TimeEventsAct : Prop :=
  ∀ (s : State) (r : Nat), s.specified [bTB] → s.specified [bRoom r] → s.devState ≠ stOFF →
    (∀ mv, r < 72 → (s.room r).gated = false → s.regBits (rRM_STRETCH_CTL r) 0 8 < mv → (s.room r).stretch ≠ 0 →
      exec (.supplyDroop r mv) s = .next (s.after (s.modRoom r fun x =>
        { x with stretch := min (min 8 (s.regBits (rRM_STRETCH_CTL r) 8 4)) (x.stretch + 1), recovering := false })))
    ∧ (r < 72 → (s.room r).stretch ≠ 0 → exec (.droopRecovery r) s = .next (s.after (s.modRoom r fun x =>
        { x with stretch := x.stretch - 1, recovering := decide (x.stretch > 1) })))
    ∧ (s.working = true → r < 72 → (s.room r).role = 1 → (s.room r).lease = none → (∀ t ∈ s.tst.tests, t.room ≠ r) →
      exec (.deepIdleGate r) s = .next (s.after (s.gate r)))
    ∧ (∀ i, s.mayWake i = true → exec (.islandWake i) s = .next (s.after (s.wake i)))
    ∧ (∀ ns,
      let u := s.elapse ns
      exec (.tbRootLoad ns) s = .next (s.after { u with tb := { u.tb with
        slips := u.tb.slips + (u.tb.replicas.filter fun x => decide (x.2 + 4 < u.now)).length
        replicas := u.tb.replicas.filter fun x => decide (x.2 > u.now) } }))
    ∧ (∀ xs x, s.devState = stREADY → (∀ y ∈ s.ctxs, y = none) → s.aligned = false → s.parentAligned = true → bestStamp xs = some x →
      let live := (List.range 140).filter fun i => !s.tb.gated.any fun g => g.1 = i
      let u : State := { s with tb := { s.tb with
        root := s.tb.root + BitVec.ofInt 64 (Stamp4.offset2 x / 2), replicas := live.map fun i => (i, s.nowAt i) } }
      exec (.tbAlign xs) s = .next (s.after ((u.setRegBits rTB_STATUS 0 16 (offsetField (Stamp4.offset2 x / 2))).trace isRoot 0 tySTEP none
        (leBytes 8 s.now ++ leBytes 8 u.now)).setAligned))
    ∧ (∀ xs x, s.aligned = true → s.parent ≠ .none → s.parentAligned = true → bestStamp xs = some x →
      let off := Stamp4.offset2 x / 2
      let u := (s.setRegBits rTB_STATUS 0 16 (offsetField off)).setRegBit rTB_STATUS 30 false
      exec (.tbMeasure xs) s = .next (s.after { u with tb := { u.tb with rate := max (-50000) (min 50000 off), fails := 0 } }))
    ∧ (∀ h : W64, exec (.ptmDialogue h) s = .next (s.after
        ((((s.setReg rTB_PTM_HOST (h.setWidth 32)).setReg (rTB_PTM_HOST + 4) ((h >>> 32).setWidth 32)).setReg rTB_PTM_LOCAL
          ((BitVec.ofNat 64 (s.nowAt isHost)).setWidth 32)).setReg (rTB_PTM_LOCAL + 4) (((BitVec.ofNat 64 (s.nowAt isHost)) >>> 32).setWidth 32))))

/-- Input, rails and resets: conversion starts, the last rail's power-good begins a cold start, a missed rail locks, losses and
trips stop the rails, and PERST#, PWR_CTL and the watchdog reset (20 R647 to R649, R656, R657, R673, R674). -/
def Obligations.SupplyAndResetsAct : Prop :=
  ∀ (s : State), s.specified [bPWR] →
    (s.devState = stOFF → s.pwr.rail = 0 → s.pwr.locked = false →
      exec .inputValid s = .next (s.after (s.modPwr fun p => { p with rail := 1, under := false })))
    ∧ (s.devState = stOFF → 0 < s.pwr.rail → s.pwr.rail < 4 →
      exec .railGood s = .next (s.after (s.modPwr fun p => { p with rail := p.rail + 1 })))
    ∧ (s.devState = stOFF → 4 ≤ s.pwr.rail →
      exec .railGood s = .next (s.after (s.begin true true (if s.pwr.tripped then lrTRIP else lrPOWER_UP))))
    ∧ (s.pwr.rail ≠ 0 → exec .railTimeout s = .next (s.after (s.modPwr fun p => { p with rail := 0, locked := true })))
    ∧ (s.devState ≠ stOFF → exec .inputUndervolt s = .next (s.after
        ((s.setRegBit rPWR_STATUS 18 true).modPwr fun p => { p with under := true }).immediate))
    ∧ (s.devState ≠ stOFF → exec .undervoltClear s = .next (s.after
        ((s.setRegBit rPWR_STATUS 18 false).modPwr fun p => { p with under := false })))
    ∧ exec .inputLoss s = .next (s.after
        ((s.railsStop (s.regBit rPWR_STATUS 24)).modPwr fun p => { p with locked := false, under := false, rail := 0 }))
    ∧ exec .inputOvervolt s = .next (s.after (s.railsStop (s.regBit rPWR_STATUS 24)))
    ∧ (∀ m : Sensors, s.devState ≠ stOFF → m.room ≥ 110 ∨ m.hbm ≥ 100 →
      exec (.thermalTrip m) s = .next (s.after ((s.railsStop false).modPwr fun p => { p with locked := true, tripped := true })))
    ∧ (s.devState ≠ stOFF → s.regBit rPWR_CTL 28 = false →
      let u := s.modPwr fun p => { p with perst := true }
      exec .perstFall s = .next (s.after (u.begin (s.regBit rSTW_TEST_CTL 1) false lrPERST_WARM)))
    ∧ (s.devState ≠ stOFF → s.regBit rPWR_CTL 28 = true →
      let u := s.modPwr fun p => { p with perst := true }
      exec .perstFall s = .next (s.after (u.begin true true lrPERST_COLD)))
    ∧ exec .perstDeassert s = .next (s.after (s.modPwr fun p => { p with perst := false }))
    ∧ (s.devState ≠ stOFF → exec .pwrResetWarm s = .next (s.after (s.begin (s.regBit rSTW_TEST_CTL 1) false lrWARM)))
    ∧ (s.devState ≠ stOFF → exec .pwrResetCold s = .next (s.after (s.begin true true lrCOLD)))
    ∧ (s.devState ≠ stOFF → exec .watchdogExpiry s = .next (s.after (s.begin (s.regBit rSTW_TEST_CTL 1) false lrWATCHDOG)))

/-- Draining, power capping, droops and temperatures (20 R654 to R656, R666, R668, R670 to R672; 17 R588). -/
def Obligations.PowerManagementActs : Prop :=
  ∀ (s : State) (m : Sensors), s.specified [bPWR] → s.devState ≠ stOFF →
    (s.devState = stREADY ∨ s.devState = stRUNNING →
      let u := s.setRegBit rPWR_CTL 29 true
      exec .drainSet s = .next (s.after u.startDrain))
    ∧ (s.devState = stDRAINING → exec .drainClear s = .next (s.after (s.setRegBit rPWR_CTL 29 false).stopDrain))
    ∧ (∀ ok, s.devState = stDRAINING → s.regBit rPWR_STATUS 24 = false → s.openLaunches = [] →
      exec (.drainComplete ok) s = .next (s.after ((s.lifeWrite ok).setRegBit rPWR_STATUS 24 true)))
    ∧ (∀ ok, s.devState = stDRAINING → s.regBit rPWR_STATUS 24 = false → s.pwr.drainT + s.drainNs ≤ s.now →
      exec (.drainComplete ok) s = .next (s.after
        (((s.openLaunches.foldl (fun t x => t.finishLaunch x.1 x.2 csRESET) s).lifeWrite ok).setRegBit rPWR_STATUS 24 true)))
    ∧ (∀ w e, w ≤ 3100 →
      let u := ((s.setReg rPWR_DRAW (BitVec.ofNat 32 (min 65535 w * 65537))).setRegBit rPWR_STATUS 19 false).modPwr fun p =>
        { p with extra := 0, excess := false }
      exec (.powerMeasure w e) s = .next (s.after ((List.range 3).foldl (fun t i => t.bump fmPOWER 0 i (e.getD i 0)) u)))
    ∧ (3100 < s.regBits rPWR_DRAW 0 16 →
      exec .excursionLimit s = .next (s.after ((s.regCount rPWR_STATUS 0 8 1).modPwr fun p => { p with excess := true })))
    ∧ (∀ r, r < 72 → 0 < min 8 (s.regBits (rRM_STRETCH_CTL r) 8 4) →
      min 8 (s.regBits (rRM_STRETCH_CTL r) 8 4) ≤ (s.room r).stretch →
      exec (.droopHold r) s = .next (s.after ((s.regCount rPWR_STATUS 8 8 1).modPwr fun p =>
        { p with wingHold := p.wingHold.set (r / 36) (s.now + 10000) })))
    ∧ (exec (.throttleTick m) s = .next (s.after ((s.readSensors m).setRegBits rPWR_STATUS 20 4
        (if m.room ≥ 100 ∨ m.hbm ≥ 90 ∨ m.plate ≥ 60 then min 8 (s.regBits rPWR_STATUS 20 4 + 1)
         else if m.cool10 then s.regBits rPWR_STATUS 20 4 - 1 else s.regBits rPWR_STATUS 20 4))))
    ∧ (m.room ≥ 105 ∨ m.hbm ≥ 95 ∨ m.plate ≥ 65 → exec (.thermalCritical m) s = .next (s.after
        (((s.readSensors m).setRegBits rPWR_STATUS 20 4 8).modPwr fun p => { p with crit := true })))
    ∧ (∀ ok xs, exec (.lifetimeTimer ok xs) s = .next (s.after ((xs.foldl (fun t x =>
        if x.item = lfMinutes || x.item = lfStateMin || x.item = lfJunction || x.item = lfVolt || x.item = lfPower
        then t.lifeAdd x.item x.idx x.n else t) s).lifeWrite ok)))

/-! Registers, transactions, responses, memory errors -/

/-- The register space: an aligned write stores and acts, a read answers its word, an invalidation starts and ends, a row map is
written, and MSI-X vectors are masked and unmasked (18 R603, R615, R619; 08 R286 to R288; 03 R114). -/
def Obligations.RegisterCommandsAct : Prop :=
  ∀ (s : State) (acc : RegAccess), s.devState ≠ stOFF → acc.len = 4 →
    (∀ o v, o % 4 = 0 → s.regOpen o v = false → exec (.registerWrite acc o v) s = .next (s.after (s.regWrite o v)))
    ∧ (∀ o, o % 4 = 0 → exec (.registerLowWordRead acc o) s = .next (s.after
        ((s.regRead acc.iface o).1.emit (.regData acc.iface (s.regRead acc.iface o).2))))
    ∧ (∀ v, s.regOpen rMMU_INVAL_CTL v = false →
      exec (.mmuInvalidate acc v) s = .next (s.after (s.regWrite rMMU_INVAL_CTL v)))
    ∧ (∀ w va, s.specified [bMMU] → s.mmu.inval = some (w, va) →
      let k := if 16 ≤ w.toNat % 64 ∧ w.toNat % 64 ≤ 48 then w.toNat % 64 else 48
      let lo := va / 2 ^ k * 2 ^ k
      s.invalOpen (w.getLsbD 20) (fun c => w.getLsbD 19 || c = w.toNat / 2 ^ 12 % 16) lo (lo + 2 ^ k) = false →
      exec .mmuInvalDone s = .next (s.after
        { s.setRegBit rMMU_INVAL_CTL 31 false with mmu := { s.mmu with inval := none } }))
    ∧ (∀ r t v, r < 72 → t < 12 → s.regOpen (rTR_ROWMAP_LO r t) v = false →
      exec (.rowmapWrite acc r t false v) s = .next (s.after (s.regWrite (rTR_ROWMAP_LO r t) v)))
    ∧ (∀ r t v, r < 72 → t < 12 → s.regOpen (rTR_ROWMAP_HI r t) v = false →
      exec (.rowmapWrite acc r t true v) s = .next (s.after (s.regWrite (rTR_ROWMAP_HI r t) v)))
    ∧ (∀ vec, exec (.msixTableWrite 1 vec true) s = .next (s.after
        { s with host := { s.host with unmask1 := s.host.unmask1.filter (· ≠ vec) } }))
    ∧ (∀ vec, vec ∈ s.host.pend1 → exec (.msixTableWrite 1 vec false) s = .next (s.after
        ({ s with host := { s.host with unmask1 := vec :: s.host.unmask1.filter (· ≠ vec)
                                        pend1 := s.host.pend1.filter (· ≠ vec) } }.emit (.msix 1 vec))))

/-- Transactions at their target, on a READY or RUNNING module: READ of places of its own that no rebuild withholds answers the
bytes of its window, WRITE stores them, ATOMIC answers the old value and stores the new; echoes, the request timer, forwarding and an OK
response act (11 R399, R402, R403, R406, R407, Table 11.9; 16 R556). -/
def Obligations.TransactionsAct : Prop :=
  ∀ (s t : State) (k : Packet) (p : Nat) (ls : List (Nat × Loc × Nat)), s.specified [bFAB, bTB] → s.devState ≠ stOFF → State.farOf ls = none →
    let own := t.farDrop (.window k.src k.tag)
    let bytes := ls.flatMap fun x => t.locRead x.2.1 x.2.2
    (s.takePacket k opREAD = some (p, t) → k.addr / 2 ^ 62 % 4 = 0 → t.devState = stREADY ∨ t.devState = stRUNNING →
      0 < k.arg % 8192 → k.addr % 4096 + k.arg % 8192 ≤ 4096 → t.unserved k.addr (k.arg % 8192) = false →
      t.winSpan k.addr (k.arg % 8192) .rd = .ok ls →
      exec (.read k false) s = .next (s.after (own.respond p k rsOK bytes)))
    ∧ (s.takePacket k opWRITE = some (p, t) → k.addr / 2 ^ 62 % 4 = 0 → t.devState = stREADY ∨ t.devState = stRUNNING →
      0 < k.arg % 8192 → k.addr % 4096 + k.arg % 8192 ≤ 4096 → k.dataWords = cdiv (k.arg % 8192) 16 →
      t.winSpan k.addr (k.arg % 8192) .wr = .ok ls →
      let u := (own.winSpread ls (k.data.take (k.arg % 8192))).respond p k rsOK []
      exec (.write k) s = .next (s.after u))
    ∧ (s.takePacket k opATOMIC = some (p, t) → k.addr / 2 ^ 62 % 4 = 0 → t.devState = stREADY ∨ t.devState = stRUNNING →
      k.addr % 4096 + 8 ≤ 4096 → k.addr % 8 = 0 → k.arg % 16 ≤ 6 → t.winSpan k.addr 8 .atomic = .ok ls →
      let w (i : Nat) : BitVec 64 := BitVec.ofNat 64 (leNum ((k.data.drop (8 * i)).take 8))
      let new := leBytes 8 (State.atomicOp (k.arg % 16) (BitVec.ofNat 64 (leNum bytes)) (w 0) (w 1)).toNat
      let u := (own.winSpread ls new).respond p k rsOK (bytes ++ List.replicate 8 0#8)
      exec (.atomic k) s = .next (s.after u))
    ∧ (k.arg % 2 = 0 → s.takePacket k opECHO = some (p, t) → exec (.echo k) s = .next (s.after (t.respond p k rsOK [])))
    ∧ (∀ t2, k.arg % 2 = 1 → s.takePacket k opECHO = some (p, t) → t.aligned = true →
      exec (.timingEcho k t2) s = .next (s.after (t.respond p k rsOK [] (addr := t.now) (arg := t2.toNat))))
    ∧ (∀ tag q, s.fab.reqs.find? (fun q => q.tag = tag) = some q → s.timerHeld q = false →
      (s.fab.inbox.any fun x => x.2.rsp && x.2.tag = tag) = false → q.echoTag = none → q.expiries + 1 ≤ s.retryMax →
      let up (x : FabReq) : FabReq := if x.tag = tag then
        { x with expiries := q.expiries + 1, echoTag := some s.fab.nextTag, echoOk := false } else x
      exec (.requestTimerExpiry tag) s = .next (s.after
        ((s.modFab fun f => { f with reqs := f.reqs.map up }).request (.echo tag) { op := opECHO, dst := q.pkt.dst })))
    ∧ (∀ g, k.vl = 0 → k.isLocal = false → some k.dst ≠ s.fab.num → s.fab.inbox.contains (p, k) = true →
      let v := s.modFab fun f => { f with inbox := f.inbox.erase (p, k) }
      (if p < 16 then v.farPort k else v.nearPort k) = some g →
      exec (.vl0Forward p k) s = .next (s.after (v.sendRaw g k)))
    ∧ (∀ q v, k.rsp = true → s.fromInbox k = (p, v) → s.fab.inbox.any (fun x => x.2 = k) = true →
      v.fab.reqs.find? (fun q => q.tag = k.tag && q.pkt.op = k.op) = some q → k.status = rsOK →
      exec (.response k) s = .next (s.after
        ((v.modFab fun f => { f with reqs := f.reqs.filter fun x => x.tag ≠ k.tag }).answered q.who k (if q.pkt.op = opATOMIC then 16 else q.pkt.arg))))

/-- A scrub pass on a working module: an error confined to one 8-bit symbol of a 32-byte HBM sector, or to one bit of a 64-bit word of
an SRAM, is corrected and counted; one beyond has its outcome (08 R305 to R308). That three or more symbols or bits are always
detected is the model's choice (log 31). -/
def Obligations.ScrubFindingsAct : Prop :=
  ∀ (s : State) (f : ScrubFinding), s.specified [bSTW] → s.working = true →
    (f.flips = [] → exec (.scrubPass f) s = .next (s.after s))
    ∧ (∀ i a, f.place = .hbm a → f.flips ≠ [] → (∀ b ∈ f.flips, b / 8 = i) →
      exec (.scrubPass f) s = .next (s.after (s.corrected f.place)))
    ∧ (∀ b c a, f.place = .hbm a → b ∈ f.flips → c ∈ f.flips → b / 8 ≠ c / 8 →
      exec (.scrubPass f) s = .next (s.after (s.uncorrectable f)))
    ∧ (∀ b, (∀ a, f.place ≠ .hbm a) → f.flips = [b] → exec (.scrubPass f) s = .next (s.after (s.corrected f.place)))
    ∧ (∀ b c, (∀ a, f.place ≠ .hbm a) → b ∈ f.flips → c ∈ f.flips → b ≠ c →
      exec (.scrubPass f) s = .next (s.after (s.uncorrectable f)))

/-! Ports and flits -/

/-- The ports' states: DISABLE and its clearing, signal, training, FEC lock, loss of lock and of signal, and the retrain timeout take
a port from each state of Table 11.2 to the next (11 R383, R389, R405, R417). -/
def Obligations.PortStatesAct : Prop :=
  ∀ (s : State) (p : Nat), s.specified [bFAB] → p < 32 → s.devState ≠ stOFF →
    (let t := s.setRegBit (rFAB_PORT p) 0 true;
      (t.portState p = psDISABLED → exec (.portDisable p) s = .next (s.after t))
      ∧ (t.portState p ≠ psDISABLED → t.portState p ≠ psUP →
        exec (.portDisable p) s = .next (s.after ((t.setPort p psDISABLED).gate (96 + p))))
      ∧ (t.portState p = psUP →
        exec (.portDisable p) s = .next (s.after (((t.setPort p psDISABLED).loseLink p).gate (96 + p)))))
    ∧ (let t := s.setRegBit (rFAB_PORT p) 0 false;
      (t.portState p = psDISABLED → exec (.portDisableClear p) s = .next (s.after ((t.wake (96 + p)).setPort p psDOWN)))
      ∧ (t.portState p ≠ psDISABLED → exec (.portDisableClear p) s = .next (s.after t)))
    ∧ (s.portState p = psDOWN → exec (.portSignalDetect p) s = .next (s.after (s.setPort p psTRAINING)))
    ∧ (s.portState p = psTRAINING → exec (.portTrainingDone p) s = .next (s.after (s.setPort p psFEC_LOCK)))
    ∧ (s.portState p = psFEC_LOCK ∨ s.portState p = psRETRAIN →
      exec (.portFecLock p) s = .next (s.after ((s.setPort p psINIT).sendTrain p false)))
    ∧ (s.portState p = psUP → exec (.portLossOfLock p) s = .next (s.after ((s.setPort p psRETRAIN).loseLink p)))
    ∧ (s.portState p = psUP → exec (.portLossOfSignal p) s = .next (s.after ((s.setPort p psDOWN).loseLink p)))
    ∧ (s.portState p = psTRAINING ∨ s.portState p = psFEC_LOCK ∨ s.portState p = psINIT ∨ s.portState p = psRETRAIN →
      exec (.portLossOfSignal p) s = .next (s.after (s.setPort p psDOWN)))
    ∧ (s.portState p = psRETRAIN → exec (.retrainTimeout p) s = .next (s.after (s.setPort p psDOWN)))

/-- Flits on a port in UP: a TRAIN exchange completes INIT, a good DATA flit in sequence is taken and heard and a bad one
discarded with a NAK, NAK and idle flits are heard, the link's timers resend, a reserved type is counted, and the stop wave and STOP# stop the module once
(11 R383, R385, R387, R388, R405, R408 to R410; 22 R695). -/
def Obligations.FlitsAct : Prop :=
  ∀ (s : State) (p : Nat), s.specified [bFAB, bDBG] → p < 32 → s.devState ≠ stOFF →
    (∀ f : TrainFlit, s.portState p = psINIT → f.version = Config.fabricVersion →
      let t := ((s.bump fmPORT p 1 1).heard p f.link).modPort p fun q => { q with trainSeen := true, bufs := f.bufs }
      (t.port p).trainSent = true → exec (.trainFlit p f) s = .next (s.after ((t.setPort p psUP).pump p)))
    ∧ (∀ f : DataFlit, s.portUp p = true → f.isType 1 = true → f.good = true → f.seq = ((s.port p).aseq + 1) % 4096 →
      exec (.dataFlit p f) s = .next (s.after ((((s.bump fmPORT p 1 1).hear p f.link).takeFlit p f).sendIdle p)))
    ∧ (∀ f : DataFlit, s.portUp p = true → f.bytes.length = 256 → f.good = false →
      exec (.dataFlit p f) s = .next (s.after (((s.bump fmPORT p 1 1).bump fmPORT p 2 1).nakOnce p)))
    ∧ (∀ l, s.portUp p = true → exec (.nakFlit p l) s = .next (s.after ((((s.bump fmPORT p 1 1).heard p l).resend p).pump p)))
    ∧ (∀ l, s.portUp p = true → exec (.idleFlit p l) s = .next (s.after ((s.bump fmPORT p 1 1).hear p l)))
    ∧ (s.portUp p = true → (s.port p).nakSent = true → exec (.nakRepeatTimeout p) s = .next (s.after
        ((s.putFlit p 2 0 0 0 []).bump fmPORT p 3 1)))
    ∧ (s.portUp p = true → (s.port p).replay ≠ [] → exec (.replayTimeout p) s = .next (s.after (s.resend p)))
    ∧ exec (.linkLostResend p) s = .next (s.after (((s.port p).lost).foldl
        (fun t k => if t.fab.reqs.any fun q => q.tag = k.tag then t.send { k with dup := true } else t)
        (s.modPort p fun q => { q with lost := [] })))
    ∧ (∀ ty l, 5 ≤ ty → ty ≤ 15 → s.portUp p = true → exec (.reservedFtypeFlit p ty l) s = .next (s.after
        ((s.bump fmPORT p 1 1).modFab fun f => { f with badFtype := f.badFtype + 1 })))
    ∧ (∀ (f : DataFlit) id org v w, s.portUp p = true → f.isType 3 = true → f.good = true → stopFields f = (id, org, v, w) →
      s.fab.stops.contains (id, org) = false →
      exec (.stopFlit p f) s = .next (s.after ((((s.bump fmPORT p 1 1).heard p f.link).stopWave id org v w).halt)))
    ∧ (s.dbg.stopDriven = false → (∀ t, s.dbg.stopRel = some t → t + 1000 ≤ s.now) →
      exec .stopPinFall s = .next (s.after s.globalStop))
    ∧ (s.dbg.stopDriven = true → exec .stopDriveRelease s = .next (s.after
        (s.modDbg fun d => { d with stopDriven := false, stopRel := some s.now })))

/-! Self-test and the start of the firmware -/

/-- The start of the firmware in BOOT: a committed image is checked again, a good one begins its journaled copy and a bad
one is dropped, each step of the copy, and the hand-over to the self-test
(19 R625, R640 to R642; 15 R517). -/
def Obligations.BootActs : Prop :=
  ∀ (s : State), s.specified [bPWR] → s.devState = stBOOT →
    (s.sec.imgState = 4 → exec .fwCopy s = .next (s.after (if s.imageOk s.sec.img then
      s.modSec fun y => { y with imgState := 5, journal := 0 }
      else (s.dropImg).auditPut 0x101 0 0 cREFUSED s.sec.counter [])))
    ∧ (s.sec.imgState = 5 → s.sec.journal < s.sec.img.field 6 2 → exec .fwCopy s = .next (s.after (s.modSec fun y =>
        { y with
          active := { y.active with chunks := mapSet y.active.chunks y.journal (mapGet y.img.chunks y.journal) }
          journal := y.journal + 1 })))
    ∧ (s.sec.imgState = 5 → s.sec.img.field 6 2 ≤ s.sec.journal → exec .fwCopy s = .next (s.after (s.modSec fun y =>
        { y with
          active := { manifest := y.img.manifest, chunks := y.active.chunks.filter fun c => c.1 < y.img.field 6 2 }
          factory := false }).dropImg))
    ∧ (s.sec.imgState ≠ 4 → s.sec.imgState ≠ 5 → s.activeOk = true →
      s.signSlot = some (s.sec.active.field 0x15 1 - 1) →
      let rv := (if s.sec.revoked.getD 0 false then 1 else 0) + if s.sec.revoked.getD 1 false then 2 else 0
      let t := ((s.extend 0 (sha256 Config.bootRom)).extend 1 (sha256 s.sec.active.manifest)).extend 2
        (sha256 (Config.stewardImage (s.sec.active.chunks.flatMap (·.2))))
      let u := t.extend 3 (Config.securityState t.floor t.sec.fuses rv (t.tst.override ≠ []))
      let v := u.tst.packs.foldl (fun w p => w.extend 4 (sha256 p.2.2)) u
      exec .bootComplete s = .next (s.after
        ((v.modTst fun t => { t with stage := 0, fail := none, bad := [], newSigs := 0 }).enter stTEST)))

/-- Self-test stages, in-field tests and tasting replays: each that is due, and whose tiles the power manager admits, has its effect
(15 R518 to R525, R530 to R540; 14 R512). What a whole test charges is the model's (log 10). -/
def Obligations.TestsAct : Prop :=
  ∀ (s : State) (r : Nat), s.specified [bSTW, bRoom r] →
    (∀ o, s.devState = stTEST → (s.stageActs s.tst.stage o).devState = stTEST →
      exec (.selftestStageDone o) s = .next (s.after (if 7 ≤ s.tst.stage then (s.stageActs s.tst.stage o).endTest
        else (s.stageActs s.tst.stage o).modTst fun t => { t with stage := s.tst.stage + 1 })))
    ∧ (s.devState = stREADY ∨ s.devState = stRUNNING → s.regBits rSTW_TEST_CTL 24 8 ≠ 0 → s.oldestRoom = some r →
      exec .iftRotationTimer s = .next (s.after (s.startTest r 2)))
    ∧ (s.working = true → r < 72 → (s.room r).role = rlSPARE → s.findTest r = none → (s.recOf r).pass + s.spareNs ≤ s.now →
      exec (.spareIdleTest r) s = .next (s.after (s.startTest r 2)))
    ∧ (∀ spare x c li, s.working = true → s.specified [bRoom spare] → s.findTest r = some x → x.st = 0 → s.spareReady spare = true →
      r ≠ spare → (s.room r).lease = some (c, li) →
      let u := s.stopRoom r
      u.atPoint r = true → u.faulted r = false →
      let v := ((u.wake spare).saveRoom r).putRole spare rlACTIVE
      let w := (v.loadRoom c li spare).modRec r fun y => { y with role := rlSPARE }
      exec (.spareHandoff r spare) s = .next (s.after (((w.runTest r).bump fmSTEWARD 0 5 1).lifeAdd lfSpare 1 1)))
    ∧ (∀ x c li, s.working = true → s.findTest r = some x → (s.room r).lease = some (c, li) → x.st = 0 → x.t + s.deferNs ≤ s.now →
      (List.range 72).any s.spareReady = false →
      let u := s.stopRoom r
      u.atPoint r = true → u.faulted r = false →
      let v := ((u.saveRoom r).regCount rSTW_TEST_STATUS 8 8 1).bump fmSTEWARD 0 6 1
      exec (.iftDeferExpiry r) s = .next (s.after ((v.modTest r fun y =>
        { y with back := some (c, li), origin := if y.origin = 2 then 3 else y.origin }).runTest r)))
    ∧ (∀ x o, s.working = true → s.findTest r = some x → x.st = 1 → x.krun = none → s.admitsTest r = true → o.got = o.want →
      let u := s.chargeMw s.testEst
      u.nextKernel x = none →
      exec (.iftTestDone r o) s = .next (s.after ((u.modRec r fun y => { y with pass := u.now }).returnRoom r x)))
    ∧ (∀ x k o, s.working = true → s.findTest r = some x → x.st = 1 → x.krun = some k → k.bad = false → k.got = [] →
      ((s.room r).seqr.ended && (s.room r).infl.isEmpty && (s.room r).taste.isEmpty) = true →
      sha256 ((s.room r).pantry.read k.out.1 k.out.2) = k.want → s.nextKernel x = none →
      exec (.iftTestDone r o) s = .next (s.after ((s.modRec r fun y => { y with pass := s.now }).returnRoom r x)))
    ∧ (∀ c y, s.working = true → c < 16 → s.ctx c = some y → y.needQuick = true →
      let cs := (List.range 16).filter fun c => ((s.ctx c).map (·.needQuick)).getD false
      let rs := (List.range 72).filter fun r => (s.room r).role ≠ rlRETIRED
      rs.all s.admitsAny = true → s.fits 0 (rs.length * s.testEst) = true →
      let u := (List.range 72).foldl (fun t r => if (t.room r).role = rlRETIRED then t else t.modRec r fun x => { x with pass := t.now })
        (s.chargeMw (rs.length * s.testEst))
      exec (.allRoomsQuickTest []) s = .next (s.after
        (cs.foldl (fun t c => t.modCtx c fun x => { x with needQuick := false, digest := none, roots := [], retake := true }) u)))
    ∧ (∀ i p o, s.working = true → s.tst.replays.find? (fun p => p.id = i) = some p → p.runs = [] → o.room ≠ p.room → o.room < 72 →
      s.admitsReplay o.room p.job.trellis = true → o.cmp = 0 → o.wideEq = true →
      exec (.tasteReplayDone i o) s = .next (s.after ((s.chargeMw (s.tileEst (8 ≤ p.job.trellis))).dropReplay i)))
    ∧ (∀ c y, s.working = true → s.ctx c = some y → (s.stepHdr c).phase = phOPEN →
      let ps := s.tst.replays.filter fun p => p.ctx = c && p.step = (s.stepHdr c).step
      ps ≠ [] → exec (.evidWaitExpiry c) s = .next (s.after ((ps.foldl (fun t p => t.latchEvidence p) s).modCtx c fun x =>
        { x with evidOver := true })))

/-! The queue, the stop, reset, number codes, words -/

/-- A step takes the command at the front of the queue and runs it on the rest; on an empty queue a nanosecond passes: posted writes leave,
the root of a module with power and the waits of its press count it, and a module that is OFF does nothing (the empty queue is the model's
choice, logs 1 and 16). -/
def Obligations.StepTakesTheFront : Prop :=
  (∀ (s : State) (c : Instr) (rest : List Instr), s.pending = c :: rest → step s = exec c { s with pending := rest })
  ∧ (∀ s : State, s.pending = [] → step s = .next (if s.devState = stOFF then s else s.sendPosted.elapse 1))

/-- A block with an RSV bit off its reset value has unspecified behaviour: its commands stop (00 R704; log 9). -/
def Obligations.UnspecifiedBlocksStop : Prop :=
  ∀ (s : State),
    (∀ r w, s.rsvOpen (bRoom r) = true →
      ∀ c ∈ [Instr.tNop r w, .tEnd r w, .tBr r w, .tWait r w, .tSets r w, .tAdds r w, .tLds r w, .tSts r w, .tDput r w, .tTokrd r w,
        .tMov r w, .tTmul r w, .tTconv r w, .tSpmv r w, .tVadd r w, .tVfma r w, .tVsum r w, .tVadam r w, .tCvt r w, .tCaps r w],
      exec c s = .fault .rsvUnspecified)
    ∧ (s.rsvOpen bPWR = true → exec .pwrResetWarm s = .fault .rsvUnspecified ∧ exec .drainSet s = .fault .rsvUnspecified)
    ∧ (s.rsvOpen bFAB = true → ∀ p k, exec (.portDisable p) s = .fault .rsvUnspecified ∧ exec (.echo k) s = .fault .rsvUnspecified)
    ∧ (s.rsvOpen bSTW = true → ∀ q, exec (.state q) s = .fault .rsvUnspecified ∧ exec (.faultRing q) s = .fault .rsvUnspecified)
    ∧ (s.rsvOpen bDBG = true → exec .traceArm s = .fault .rsvUnspecified)
    ∧ (s.rsvOpen bTB = true → ∀ n, exec (.tbRootLoad n) s = .fault .rsvUnspecified)

/-- What reset leaves: device state BOOT, every register at its reset value, rooms 34, 35, 70 and 71 spare and the others active, no
context, every route 0, no fault ring, no service-port request and no packet waiting, memories in canonical form (01 R13; 11 R398; 20 R651, Table 20.2;
18 R604; that reset is BOOT is the model's choice, log 5). -/
def Obligations.ResetLeavesTheStartingState : Prop :=
  State.reset.devState = stBOOT ∧ State.reset.pending = [] ∧ State.reset.regs = []
    ∧ (∀ r, r < 72 → (State.reset.room r).role = if r = 34 ∨ r = 35 ∨ r = 70 ∨ r = 71 then 1 else 0)
    ∧ (∀ c, State.reset.ctx c = none) ∧ (∀ i, natGet State.reset.fab.route i = 0)
    ∧ State.reset.host.ring = none ∧ State.reset.host.ready = [] ∧ State.reset.fab.inbox = []
    ∧ State.reset.memWf ∧ State.reset.queueWf

/-- An SC8 code: exponent in bits [7:2], mantissa in bits [1:0]; 0x01 to 0xFE have the value 2^(e−32) × (1 + f/4), 0x00 marks a zero
block and 0xFF an invalid block of a tensor with scales (02 R31). -/
def Obligations.Sc8CodesHaveTheirValues : Prop :=
  (∀ c, c < 256 → 1 ≤ c → c ≤ 0xFE →
    sc8Val c = (2 : Rat) ^ (c / 4) / 2 ^ 32 * (1 + ((c % 4 : Nat) : Rat) / 4))
  ∧ (∀ (v : View) (r i : Nat), v.d.scaled = true → v.sc r i = 0x00 → v.zero r i = true)
  ∧ (∀ (v : View) (r i : Nat), v.d.scaled = true → v.sc r i = 0xFF → v.invalid r i = true)

/-- A G8 code with exponent field e and mantissa field m has the value (−1)^s × 2^(e−3) × (1 + m/16) for e = 1 to 7 and
(−1)^s × 2^−2 × m/16 for e = 0; e = 7 with m = 15 is NaN, no code is an infinity, and 30 is the largest magnitude, that of
0x7E (02 R39). -/
def Obligations.G8CodesHaveTheirValues : Prop :=
  ∀ c, c < 256 →
    let s := decide (128 ≤ c)
    let e : Nat := c / 16 % 8
    let m : Nat := c % 16
    (e = 7 ∧ m = 15 → decElem fmtG8 c = .nan)
    ∧ (¬(e = 7 ∧ m = 15) → 1 ≤ e → decElem fmtG8 c = .fin s ((2 : Rat) ^ e / 8 * (1 + (m : Rat) / 16)))
    ∧ (e = 0 → decElem fmtG8 c = .fin s ((m : Rat) / 16 / 4))
    ∧ (∀ n, decElem fmtG8 c ≠ .inf n) ∧ (∀ n x, decElem fmtG8 c = .fin n x → x ≤ 30) ∧ (c = 0x7E → decElem fmtG8 c = .fin s 30)

/-- Every Tiruf command is read back from its 128-bit word, with every field at every value; a word of no defined opcode is read as
the undefined instruction of its opcode, and two commands of one room with one word are the same command (07 R224, Tables 7.1,
7.2). -/
def Obligations.TirufWordsRoundTrip : Prop :=
  (∀ (i : Instr) (r : Nat) (op : Byte) (w : TWord) (x : BitVec 128), i.wf = true → i.tiruf = some (r, op, w) → encodeTiruf i = some x →
      decodeTiruf r x = i)
  ∧ (∀ (r : Nat) (x : BitVec 128), encodeTiruf (decodeTiruf r x) = some x)

/-- A step that goes on takes one command from the queue, adds none, and leaves a queue of well-formed commands well formed,
whichever command it was. -/
def Obligations.StepsKeepTheQueue : Prop :=
  ∀ s t : State, step s = .next t → t.pending = s.pending.tail ∧ (s.queueWf → t.queueWf)

/-! Frames, faults, isolation, resets -/

/-- A write of a module register whose bits act on nothing stores each field as its type says and changes nothing else: RO bits
stay, RW and RSV bits take the written bits, a W1C bit clears, any bit written to a W1C count clears the count, W1S bits set (00
Table 0.2, R9; 18 R616 to R618, R620). -/
def Obligations.RegisterFieldsFollowTheirTypes : Prop :=
  ∀ (s : State) (acc : RegAccess) (o : Nat) (v : W32) (fs : List RField), s.devState ≠ stOFF → acc.len = 4 → o % 4 = 0 →
    o < 0x1000000 → o % 0x40000 < 0x1000 → regFields o = some fs →
    o ≠ rPWR_CTL → o ≠ rDBG_CNT_CTL → o ≠ rDBG_TRACE_CTL → o ≠ rDBG_STOP_CTL → o ≠ rMMU_INVAL_CTL →
    ¬(0x1C0080 ≤ o ∧ o < 0x1C0100) →
    ∃ new : W32, exec (.registerWrite acc o v) s = .next (s.after (s.setReg o new)) ∧
      ∀ f ∈ fs,
        (f.ty = .ro → new &&& f.mask = s.reg o &&& f.mask)
        ∧ (f.ty = .rw ∨ f.ty = .rsv → new &&& f.mask = v &&& f.mask)
        ∧ (f.ty = .w1c → f.width = 1 → new &&& f.mask = s.reg o &&& ~~~v &&& f.mask)
        ∧ (f.ty = .w1c → f.width ≠ 1 → new &&& f.mask = if v &&& f.mask = 0 then s.reg o &&& f.mask else 0)
        ∧ (f.ty = .w1s → new &&& f.mask = (s.reg o ||| v) &&& f.mask)

/-- A BAR2 write of bytes that cover no SEQ word changes device memory at its bytes' addresses and nothing else; a byte of the control
regions outside the launch and window areas is not changed, and memory keeps its canonical form (18 R596, R597, R600). -/
def Obligations.Bar2WritesOnlyItsBytes : Prop :=
  ∀ (s : State) (off : Nat) (bs : List Byte) (ecc : Bool), s.specified [bSTW] → s.working = true →
    off + bs.length ≤ s.host.bar2Gib * 2 ^ 30 → s.barOrigin + off + bs.length ≤ hbmEnd →
    State.seqWords (s.barOrigin + off) bs = [] →
    ∃ m : Mem, exec (.bar2Access off bs.length (some bs) ecc) s = .next { s with hbm := m }
      ∧ (s.hbm.wf = true → m.wf = true)
      ∧ (∀ a, a < s.barOrigin + off ∨ s.barOrigin + off + bs.length ≤ a → m.get a = s.hbm.get a)
      ∧ (s.hbm.wf = true → ∀ i, i < bs.length → m.get (s.barOrigin + off + i) =
          if State.barOpen (s.barOrigin + off + i) then bs.getD i 0#8 else s.hbm.get (s.barOrigin + off + i))

/-- The frame of the scalar and control instructions that complete: SETS, ADDS, LDS and TOKRD change one scalar, NOP and END none;
no other room, no memory, no context, no register but the trace store's count of lost records, and no token but the one named
changes (07 R225, R233, Table 7.4; 17 R579). -/
def Obligations.ScalarInstructionsFrame : Prop :=
  ∀ (s t : State) (r : Nat) (w : TWord) (a : At) (c : Instr), plainWord w = true →
    (c = .tSets r w ∧ s.issueAt r 0x07 w = some a ∧ okS w.a = true
      ∨ c = .tAdds r w ∧ s.issueAt r 0x08 w = some a ∧ okS w.a = true ∧ okS w.b = true
      ∨ c = .tLds r w ∧ s.issueAt r 0x09 w = some a ∧ okS w.a = true ∧ okP w.b 8 8 = true ∧ w.c = 0
      ∨ c = .tTokrd r w ∧ s.issueAt r 0x0C w = some a ∧ okS w.a = true ∧ okS w.b = true ∧ w.c = 0
      ∨ c = .tNop r w ∧ s.issueAt r 0x01 w = some a ∧ w.a = 0 ∧ w.b = 0 ∧ w.c = 0
      ∨ c = .tEnd r w ∧ s.issueAt r 0x02 w = some a ∧ w.a = 0 ∧ w.b = 0 ∧ w.c = 0) →
    exec c s = .next t →
    t.hbm = s.hbm ∧ t.buttery = s.buttery ∧ t.hostMem = s.hostMem ∧ t.ctxs = s.ctxs ∧ t.pending = s.pending
      ∧ (∀ o, o ≠ rDBG_TRACE_LOST → t.reg o = s.reg o)
      ∧ (∀ q, q ≠ r → t.room q = s.room q)
      ∧ (t.room r).pantry = (s.room r).pantry ∧ (t.room r).infl = (s.room r).infl ∧ (t.room r).trell = (s.room r).trell
      ∧ (∀ k, w.tke = false ∨ k ≠ w.token.toNat → (t.room r).tok.getD k 0 = (s.room r).tok.getD k 0)
      ∧ (∀ k, c = .tNop r w ∨ c = .tEnd r w ∨ k ≠ w.a.toNat → (t.room r).sreg.getD k 0 = (s.room r).sreg.getD k 0)

/-- The frame of the instructions that store at issue: STS, DPUT, CAPS and SNAP change the bytes they store, at the address their
meaning computes, and no other byte of any memory; no scalar, no other room and no context changes (07 R233, R265, Table 7.4; 06
R219; 17 R575). -/
def Obligations.PantryStoresFrame : Prop :=
  ∀ (s t : State) (r : Nat) (w : TWord) (a : At) (c : Instr) (off n : Nat), plainWord w = true →
    (c = .tSts r w ∧ s.issueAt r 0x0A w = some a ∧ okS w.a = true ∧ okP w.b 8 8 = true ∧ w.c = 0 ∧ off = w.b.toNat ∧ n = 8
      ∨ c = .tDput r w ∧ s.issueAt r 0x0B w = some a ∧ okD w.a = true ∧ w.b.toNat % 8 = 0 ∧ w.b.toNat ≤ 0x78 ∧ okS w.c = true
          ∧ off = descTab + 128 * w.a.toNat + w.b.toNat ∧ n = 8
      ∨ c = .tCaps r w ∧ s.issueAt r 0xF0 w = some a ∧ okP w.a 8 64 = true ∧ w.b = 0 ∧ w.c = 0 ∧ off = w.a.toNat ∧ n = 64
      ∨ c = .tSnap r w ∧ s.issueAt r 0x92 w = some a ∧ w.a.toNat < 512 ∧ w.a.toNat % 256 ≤ 5 ∧ w.c = 0
          ∧ n = (snapBytes (s.fetched a) r (w.a.toNat % 256) (w.a.getLsbD 8)).length ∧ okP w.b 8 n = true ∧ off = w.b.toNat) →
    exec c s = .next t →
    t.hbm = s.hbm ∧ t.buttery = s.buttery ∧ t.hostMem = s.hostMem ∧ t.ctxs = s.ctxs
      ∧ (∀ q, q ≠ r → t.room q = s.room q)
      ∧ (∀ x, x < off ∨ off + n ≤ x → (t.room r).pantry.get x = (s.room r).pantry.get x)
      ∧ (t.room r).sreg = (s.room r).sreg ∧ (t.room r).infl = (s.room r).infl

/-- An instruction whose checks fail raises the fault of the first check that fails, and has none of its effect: the hearth's
instructions, VADAM, CVT, HRCLR, MOV, MOVB and SPMV; an undefined opcode raises OPCODE; END, NOP, SETS and DPUT raise OPERAND or DESCRIPTOR
for what they must leave 0 or within limits (06 R191, R192, R223; 07 R225 to R228). -/
def Obligations.FailedChecksRaiseTheirFault : Prop :=
  ∀ (s : State) (r : Nat) (w : TWord) (a : At) (f : FaultCode), s.specified [bRoom r] →
    let t := s.fetched a
    let raises (c : Instr) (f : FaultCode) := exec c s = .next (s.after (s.roomFault r a.pc f))
    (∀ c op, (c, op) ∈ [(Instr.tVadd r, 0x30#8), (.tVsub r, 0x31#8), (.tVmul r, 0x32#8), (.tVfma r, 0x33#8), (.tVmax r, 0x34#8),
        (.tVmin r, 0x35#8), (.tVexp2 r, 0x36#8), (.tVlog2 r, 0x37#8), (.tVrcp r, 0x38#8), (.tVrsq r, 0x39#8), (.tVsum r, 0x3A#8),
        (.tVlse r, 0x3B#8), (.tVlsem r, 0x3C#8), (.tVscl r, 0x3D#8)] →
      s.issueAt r op w = some a → firstFault (vecChecks op t a w) = some f → raises (c w) f)
    ∧ (s.issueAt r 0x3F w = some a → firstFault (adamChecks r t a w) = some f → raises (.tVadam r w) f)
    ∧ (s.issueAt r 0x40 w = some a → firstFault (cvtChecks t a w) = some f → raises (.tCvt r w) f)
    ∧ (s.issueAt r 0x41 w = some a → firstFault (hrclrChecks t a w) = some f → raises (.tHrclr r w) f)
    ∧ (s.issueAt r 0x10 w = some a → firstFault (movChecks t a w) = some f → raises (.tMov r w) f)
    ∧ (s.issueAt r 0x11 w = some a → firstFault (movbChecks t a w) = some f → raises (.tMovb r w) f)
    ∧ (s.issueAt r 0x28 w = some a → firstFault (spmvChecks t a w) = some f → raises (.tSpmv r w) f)
    ∧ (s.issueAt r 0x01 w = some a → w.a ≠ 0 ∨ w.b ≠ 0 ∨ w.c ≠ 0 → raises (.tNop r w) .operand)
    ∧ (s.issueAt r 0x02 w = some a → w.a ≠ 0 ∨ w.b ≠ 0 ∨ w.c ≠ 0 → raises (.tEnd r w) .operand)
    ∧ (s.issueAt r 0x07 w = some a → 16 ≤ w.a.toNat → raises (.tSets r w) .operand)
    ∧ (s.issueAt r 0x0B w = some a → plainWord w = true → 4096 ≤ w.a.toNat → raises (.tDput r w) .descriptor)
    ∧ (∀ op, definedOp op = false → s.issueAt r op w = some a → raises (.undefinedOpcode r op w) .opcode)

/-- A critical command whose code, serial or counter is not right is answered AUTH and changes no key, no counter, no fuse, no floor, no
firmware image, no debug unlock, no override and no RAS_OFF, whatever any RSV bit holds (19 R629, R630, R633). -/
def Obligations.UnsoundCriticalCommandsChangeNothingSecret : Prop :=
  ∀ (s t : State) (q : Req) (c : Req → Instr) (op : Nat),
    (c, op) ∈ [(Instr.fwCommit, 0x101), (.floorRaise, 0x102), (.keyRotate, 0x103), (.testOverride, 0x104), (.takeover, 0x105),
      (.rasDisable, 0x106), (.scanOut, 0x107), (.debugUnlock, 0x108), (.lifeErase, 0x109)] →
    s.cmdGoes q op 0 true t → s.cmdAllowed q = true → t.critSound q op = false →
    ∃ u : State, exec (c q) s = .next (s.after (u.answer q { status := cAUTH }))
      ∧ u.sec.cmdKey = s.sec.cmdKey ∧ u.sec.keyGen = s.sec.keyGen ∧ u.sec.counter = s.sec.counter ∧ u.sec.fuses = s.sec.fuses
      ∧ u.sec.floors = s.sec.floors ∧ u.sec.img = s.sec.img ∧ u.sec.imgState = s.sec.imgState ∧ u.sec.active = s.sec.active
      ∧ u.dbg.unlocked = s.dbg.unlocked ∧ u.tst.nextOver = s.tst.nextOver ∧ u.fab.num = s.fab.num ∧ u.life.slots = s.life.slots
      ∧ u.regBits rSTW_RISK_CTL 0 1 = s.regBits rSTW_RISK_CTL 0 1

/-- A cold and a warm reset: the device is in BOOT with its cause recorded, no context, no packet and no pending interrupt; the lifetime
store, keys, counter, fuses, floors, images, audit ring, repair record (but for its mark of rooms whose test the reset met) and signatures stay; HBM is lost by a cold reset or with POST_FULL
set, and debug unlock lasts until a cold reset (20 Tables 20.3, 20.4, 20.7, R656 to R660; 17 R577). -/
def Obligations.ResetsKeepWhatTheyMust : Prop :=
  ∀ (s : State), s.specified [bPWR] → s.devState ≠ stOFF →
    let kept (t : State) : Prop := t.devState = stBOOT ∧ t.pending = s.pending ∧ (∀ c, c < 16 → t.ctx c = none) ∧ t.fab.inbox = []
      ∧ t.buttery = [] ∧ t.life.slots = s.life.slots ∧ t.sec.cmdKey = s.sec.cmdKey ∧ t.sec.counter = s.sec.counter
      ∧ t.sec.fuses = s.sec.fuses ∧ t.sec.floors = s.sec.floors ∧ t.sec.img = s.sec.img ∧ t.sec.active = s.sec.active
      ∧ t.sec.audit = s.sec.audit ∧ t.tst.repair.map (fun x => { x with first := false }) = s.tst.repair.map (fun x => { x with first := false })
      ∧ t.tst.sigs = s.tst.sigs ∧ t.hostMem = s.hostMem
    (∃ t, exec .pwrResetCold s = .next t ∧ kept t ∧ t.hbm = [] ∧ t.dbg.unlocked = false ∧ t.regBits rPWR_STATUS 25 3 = lrCOLD)
    ∧ (s.regBit rSTW_TEST_CTL 1 = false →
      ∃ t, exec .pwrResetWarm s = .next t ∧ kept t ∧ t.hbm = s.hbm ∧ t.dbg.unlocked = s.dbg.unlocked
        ∧ t.regBits rPWR_STATUS 25 3 = lrWARM)
    ∧ (s.regBit rSTW_TEST_CTL 1 = true → ∃ t, exec .pwrResetWarm s = .next t ∧ kept t ∧ t.hbm = [])

/-- The root's load moves no island's replica backwards, whatever the replicas hold: one that was ahead holds, a gated one keeps its
count, every other takes the root's, as long as the 64-bit count does not wrap (16 R551, R553). -/
def Obligations.ReplicasNeverMoveBackwards : Prop :=
  ∀ (s : State) (ns : Nat), s.specified [bTB] → s.devState ≠ stOFF → 0 ≤ s.tb.frac → -1000000000 ≤ s.tb.rate →
    (s.tb.root.toNat : Int) + ((ns : Int) * (1000000000 + s.tb.rate) + s.tb.frac) / 1000000000 < 2 ^ 64 →
    ∃ t, exec (.tbRootLoad ns) s = .next t ∧ ∀ i, s.nowAt i ≤ t.nowAt i
end

