-- ==== Sys2Proof/Laws/Mem.lean ====
section
/-! SUPPORT. Memory: a read after a write, the canonical form and its keeping by every memory operation. -/

namespace Sys2Proof.Machine

namespace Mem

/-- Every listed address is above a bound. -/
def above (m : Mem) (a : Nat) : Prop := ∀ c ∈ m, a < c.1

theorem wf_cons {k : Nat} {b : Byte} {t : Mem} :
    Mem.wf ((k, b) :: t) = true ↔ b ≠ Mem.blank ∧ above t k ∧ t.wf = true := by
  induction t generalizing k b with
  | nil => simp [Mem.wf, above]
  | cons c t ih =>
    obtain ⟨k', b'⟩ := c
    simp only [Mem.wf, Bool.and_eq_true, bne_iff_ne, decide_eq_true_eq, above, List.mem_cons, forall_eq_or_imp]
    rw [ih]
    constructor
    · rintro ⟨⟨h1, h2⟩, h3, h4, h5⟩
      exact ⟨h1, ⟨h2, fun c hc => Nat.lt_trans h2 (h4 c hc)⟩, h3, h4, h5⟩
    · rintro ⟨h1, ⟨h2, h3⟩, h4, h5, h6⟩
      exact ⟨⟨h1, h2⟩, h4, h5, h6⟩

/-- An address below every listed one reads as blank. -/
theorem get_of_above {m : Mem} {k a : Nat} (h : above m k) (ha : a ≤ k) : m.get a = Mem.blank := by
  induction m with
  | nil => rfl
  | cons c t ih =>
    obtain ⟨j, b⟩ := c
    have hj := h (j, b) (List.mem_cons_self ..)
    simp only [get]
    rw [if_neg (by simp at hj; omega)]
    exact ih fun c hc => h c (List.mem_cons_of_mem _ hc)

/-- A write leaves every other address alone, whatever the memory. -/
theorem get_set_ne (m : Mem) {a x : Nat} (b : Byte) (h : x ≠ a) : (m.set a b).get x = m.get x := by
  induction m with
  | nil => simp only [set]; split <;> simp [get, Ne.symm h]
  | cons c t ih =>
    obtain ⟨k, v⟩ := c
    simp only [set]
    by_cases hk : k < a
    · simp only [hk, if_true, get, ih]
    · by_cases he : k = a
      · subst he
        by_cases hb : b = Mem.blank <;> simp [hb, get, Ne.symm h]
      · by_cases hb : b = Mem.blank <;> simp [hk, he, hb, get, Ne.symm h]

/-- A read after a write to the same address gives the value written. -/
theorem get_set_self {m : Mem} (hm : m.wf = true) (a : Nat) (b : Byte) : (m.set a b).get a = b := by
  induction m with
  | nil => simp only [set]; split <;> simp_all [get]
  | cons c t ih =>
    obtain ⟨k, v⟩ := c
    obtain ⟨-, h2, h3⟩ := wf_cons.mp hm
    simp only [set]
    by_cases hk : k < a
    · rw [if_pos hk]; simp only [get]; rw [if_neg (by omega)]; exact ih h3
    · rw [if_neg hk]
      by_cases hb : b = Mem.blank
      · simp only [hb, if_true]
        by_cases he : k = a
        · simp only [he, if_true]; exact get_of_above h2 (by omega)
        · simp only [he, if_false, get]; exact get_of_above h2 (by omega)
      · simp [hb, get]

theorem above_set {m : Mem} {j a : Nat} {b : Byte} (h : above m j) (ha : j < a) : above (m.set a b) j := by
  induction m with
  | nil => intro c hc; simp only [set] at hc; split at hc <;> simp_all
  | cons d t ih =>
    obtain ⟨k, v⟩ := d
    have hk := h (k, v) (List.mem_cons_self ..)
    have ht : above t j := fun c hc => h c (List.mem_cons_of_mem _ hc)
    intro c hc
    simp only [set] at hc
    split at hc
    · rcases List.mem_cons.mp hc with rfl | hc
      · exact hk
      · exact ih ht c hc
    · have rest : ∀ c ∈ (if k = a then t else (k, v) :: t), j < c.1 := by
        intro c hc; split at hc
        · exact ht c hc
        · exact h c hc
      split at hc
      · exact rest c hc
      · rcases List.mem_cons.mp hc with rfl | hc
        · exact ha
        · exact rest c hc

/-- A write of one byte keeps the canonical form. -/
theorem wf_set {m : Mem} (hm : m.wf = true) (a : Nat) (b : Byte) : (m.set a b).wf = true := by
  induction m with
  | nil => simp only [set]; split <;> simp_all [wf]
  | cons c t ih =>
    obtain ⟨k, v⟩ := c
    obtain ⟨h1, h2, h3⟩ := wf_cons.mp hm
    simp only [set]
    by_cases hk : k < a
    · rw [if_pos hk]; exact wf_cons.mpr ⟨h1, above_set h2 hk, ih h3⟩
    · rw [if_neg hk]
      have rest : Mem.wf (if k = a then t else (k, v) :: t) = true := by split <;> assumption
      have lower : b ≠ Mem.blank → above (if k = a then t else (k, v) :: t) a := by
        intro _ c hc
        split at hc
        · rename_i e; subst e; exact h2 c hc
        · rcases List.mem_cons.mp hc with rfl | hc
          · simp; omega
          · have := h2 c hc; omega
      by_cases hb : b = Mem.blank
      · simp only [hb, if_true]; exact rest
      · simp only [hb, if_false]; exact wf_cons.mpr ⟨hb, lower hb, rest⟩

/-- A write of bytes keeps the canonical form. -/
theorem wf_write {m : Mem} (hm : m.wf = true) (a : Nat) (bs : List Byte) : (m.write a bs).wf = true := by
  induction bs generalizing m a with
  | nil => exact hm
  | cons b t ih => exact ih (wf_set hm a b) (a + 1)

/-- A write of bytes leaves every address outside them alone. -/
theorem get_write_out (m : Mem) {a x : Nat} (bs : List Byte) (h : x < a ∨ a + bs.length ≤ x) : (m.write a bs).get x = m.get x := by
  induction bs generalizing m a with
  | nil => rfl
  | cons b t ih =>
    simp only [write]
    simp only [List.length_cons] at h
    rw [ih (m.set a b) (by omega), get_set_ne m b (by omega)]

/-- A byte written reads as it was written. -/
theorem get_write_in {m : Mem} (hm : m.wf = true) (a : Nat) (bs : List Byte) {i : Nat} (h : i < bs.length) :
    (m.write a bs).get (a + i) = bs.getD i 0#8 := by
  induction bs generalizing m a i with
  | nil => simp at h
  | cons b t ih =>
    simp only [write]
    cases i with
    | zero => rw [get_write_out _ _ (by omega), Nat.add_zero, get_set_self hm]; rfl
    | succ j =>
      have := ih (wf_set hm a b) (a + 1) (i := j) (by simpa using h)
      rw [show a + (j + 1) = a + 1 + j by omega, this]; rfl

theorem wf_filter {m : Mem} (hm : m.wf = true) (p : Host.Cell → Bool) : Mem.wf (m.filter p) = true := by
  induction m with
  | nil => rfl
  | cons c t ih =>
    obtain ⟨k, v⟩ := c
    obtain ⟨h1, h2, h3⟩ := wf_cons.mp hm
    rw [List.filter_cons]
    split
    · exact wf_cons.mpr ⟨h1, fun c hc => h2 c (List.mem_of_mem_filter hc), ih h3⟩
    · exact ih h3

/-- Erasing a range keeps the canonical form. -/
theorem wf_erase {m : Mem} (hm : m.wf = true) (a n : Nat) : (m.erase a n).wf = true := wf_filter hm _

theorem above_append {a b : Mem} {k : Nat} (ha : above a k) (hb : above b k) : above (a ++ b) k := fun c hc =>
  (List.mem_append.mp hc).elim (ha c) (hb c)

/-- Two canonical memories, the first below a bound that the second is not. -/
theorem wf_append {a b : Mem} (ha : a.wf = true) (hb : b.wf = true) (h : ∀ x ∈ a, ∀ y ∈ b, x.1 < y.1) : Mem.wf (a ++ b) = true := by
  induction a with
  | nil => exact hb
  | cons c t ih =>
    obtain ⟨k, v⟩ := c
    obtain ⟨h1, h2, h3⟩ := wf_cons.mp ha
    exact wf_cons.mpr ⟨h1, above_append h2 (h _ (List.mem_cons_self ..)), ih h3 fun x hx => h x (List.mem_cons_of_mem _ hx)⟩

theorem wf_shift {m : Mem} (hm : m.wf = true) {sa da : Nat} (h : ∀ c ∈ m, sa ≤ c.1) :
    Mem.wf (m.map fun c => (c.1 - sa + da, c.2)) = true := by
  induction m with
  | nil => rfl
  | cons c t ih =>
    obtain ⟨k, v⟩ := c
    obtain ⟨h1, h2, h3⟩ := wf_cons.mp hm
    refine wf_cons.mpr ⟨h1, ?_, ih h3 fun c hc => h c (List.mem_cons_of_mem _ hc)⟩
    intro c hc
    obtain ⟨d, hd, rfl⟩ := List.mem_map.mp hc
    have := h2 d hd
    have := h (k, v) (List.mem_cons_self ..)
    simp at *; omega

/-- Copying a range keeps the canonical form. -/
theorem wf_copy {dst src : Mem} (hd : dst.wf = true) (hs : src.wf = true) (sa da n : Nat) : (dst.copy src sa da n).wf = true := by
  unfold copy
  refine wf_append (wf_append (wf_filter hd _) (wf_shift (wf_filter hs _) ?_) ?_) (wf_filter hd _) ?_
  · intro c hc; have := List.mem_filter.mp hc; simp at this; omega
  · intro x hx y hy
    obtain ⟨d, hd', rfl⟩ := List.mem_map.mp hy
    have := List.mem_filter.mp hx; simp at this; dsimp; omega
  · intro x hx y hy
    have h2 := List.mem_filter.mp hy
    rcases List.mem_append.mp hx with hx | hx
    · have := List.mem_filter.mp hx; simp at *; omega
    · obtain ⟨d, hd', rfl⟩ := List.mem_map.mp hx
      have := List.mem_filter.mp hd'; simp at *; omega

/-- Little-endian fields keep the canonical form. -/
theorem wf_setLe {m : Mem} (hm : m.wf = true) (a n v : Nat) : (m.setLe a n v).wf = true := wf_write hm a _

theorem wf_nil : Mem.wf [] = true := rfl

end Mem

theorem leBytes_length (n v : Nat) : (leBytes n v).length = n := by
  induction n generalizing v with
  | zero => rfl
  | succ n ih => simp [leBytes, ih]

/-! Finite maps -/

theorem mapGet_mapSet_ne {α : Type} (l : List (Nat × α)) {k x : Nat} (v : Option α) (h : x ≠ k) :
    mapGet (mapSet l k v) x = mapGet l x := by
  induction l with
  | nil => cases v <;> simp [mapSet, mapGet, Ne.symm h]
  | cons c t ih =>
    obtain ⟨j, y⟩ := c
    simp only [mapSet]
    by_cases hj : j < k
    · simp only [hj, if_true, mapGet, ih]
    · by_cases he : j = k
      · subst he; cases v <;> simp [mapGet, Ne.symm h]
      · cases v <;> simp [hj, he, mapGet, Ne.symm h]

/-- A value put under a key is found under it. -/
theorem mapGet_mapSet_some {α : Type} (l : List (Nat × α)) (k : Nat) (v : α) : mapGet (mapSet l k (some v)) k = some v := by
  induction l with
  | nil => simp [mapSet, mapGet]
  | cons c t ih =>
    obtain ⟨j, y⟩ := c
    simp only [mapSet]
    by_cases hj : j < k
    · rw [if_pos hj]; simp only [mapGet]; rw [if_neg (by omega)]; exact ih
    · simp [hj, mapGet]

end Sys2Proof.Machine
end

