-- ==== Sys2Proof/Laws/Run.lean ====
section
/-! SUPPORT. What `run`, `live`, `issue` and `checked` do, said once. -/

namespace Sys2Proof.Machine

/-- A command of blocks that the manual specifies answers its effect. -/
theorem run_ok {bs : List Nat} {s : State} (h : s.specified bs) (t : State) : run bs s t = .next (s.after t) := by
  unfold State.specified at h
  simp [run, h]

/-- A command of a block whose RSV bits are off reset stops (00 R704). -/
theorem run_stop {bs : List Nat} {s : State} (h : bs.any s.rsvOpen = true) (t : State) : run bs s t = .fault .rsvUnspecified := by
  simp [run, h]

/-- What `run` can do at all. -/
theorem run_cases (bs : List Nat) (s t : State) : run bs s t = .fault .rsvUnspecified ∨ run bs s t = .next (s.after t) := by
  unfold run; split <;> simp

theorem live_ok {s : State} (h : s.working = true) (t : State) : s.live t = t := by simp [State.live, h]
theorem live_idle {s : State} (h : s.working = false) (t : State) : s.live t = s := by simp [State.live, h]

/-- Checks that all pass go on. -/
theorem checked_nil (k : Unit → Iss) : checked [] k = k () := rfl
theorem checked_pass {b : Bool} {f : FaultCode} {cs : List (Bool × FaultCode)} {k : Unit → Iss} (h : b = false) :
    checked ((b, f) :: cs) k = checked cs k := by subst h; rfl
theorem checked_stop {b : Bool} {f : FaultCode} {cs : List (Bool × FaultCode)} {k : Unit → Iss} (h : b = true) :
    checked ((b, f) :: cs) k = .fault f := by subst h; rfl

/-- Checks that all pass, and the first that does not. -/
theorem checked_ok {cs : List (Bool × FaultCode)} {k : Unit → Iss} (h : firstFault cs = none) : checked cs k = k () := by
  simp [checked, h]
theorem checked_bad {cs : List (Bool × FaultCode)} {k : Unit → Iss} {f : FaultCode} (h : firstFault cs = some f) :
    checked cs k = .fault f := by simp [checked, h]

/-- What `issueAt` says. -/
theorem issueAt_spec {s : State} {r : Nat} {op : Byte} {w : TWord} {a : At} (h : s.issueAt r op w = some a) :
    ∃ c sl li bs u, s.canIssue r = some (c, sl, li) ∧ (s.room r).seqr.pc % 16 = 0 ∧ s.fetchAt r c = .ok (some bs, u)
      ∧ leNum bs = (w.encode op).toNat ∧ s.accepts r op = true
      ∧ a = { room := r, c := c, sl := sl, li := li, pc := (s.room r).seqr.pc, uid := (s.room r).nextUid, op := op } := by
  unfold State.issueAt at h
  cases hc : s.canIssue r with
  | none => simp [hc] at h
  | some v =>
    obtain ⟨c, sl, li⟩ := v
    by_cases hp : (s.room r).seqr.pc % 16 = 0
    · cases hb : s.fetchAt r c with
      | error e => simp [hc, hp, hb] at h
      | ok v =>
        obtain ⟨_ | bs, u⟩ := v
        · simp [hc, hp, hb] at h
        by_cases hw : leNum bs = (w.encode op).toNat ∧ s.accepts r op = true
        · simp only [hc, hp, hb, hw, ne_eq, not_true_eq_false, if_false, if_true, and_self, Option.some.injEq] at h
          exact ⟨c, sl, li, bs, u, rfl, hp, hb, hw.1, hw.2, h.symm⟩
        · simp [hc, hp, hb, hw] at h
    · simp [hc, hp] at h

/-- A word that issues and whose rules give a next state. -/
theorem issue_ok {s t : State} {r : Nat} {op : Byte} {w : TWord} {a : At} {f : At → State → Iss}
    (h : s.issueAt r op w = some a) (hf : f a (s.fetched a) = .ok t) : s.issue r op w f = t := by
  obtain ⟨c, sl, li, bs, u, hc, hp, hb, hw, ha, rfl⟩ := issueAt_spec h
  simp [State.issue, hc, hp, hb, hw, ha, hf]

/-- A word that issues and whose rules give a fault. -/
theorem issue_fault {s : State} {r : Nat} {op : Byte} {w : TWord} {a : At} {fc : FaultCode} {f : At → State → Iss}
    (h : s.issueAt r op w = some a) (hf : f a (s.fetched a) = .fault fc) : s.issue r op w f = s.roomFault r a.pc fc := by
  obtain ⟨c, sl, li, bs, u, hc, hp, hb, hw, ha, rfl⟩ := issueAt_spec h
  simp [State.issue, hc, hp, hb, hw, ha, hf]

/-- A meaning whose effect is known. -/
theorem run_eq {bs : List Nat} {s t u : State} (h : s.specified bs) (e : t = u) : run bs s t = .next (s.after u) := by
  rw [run_ok h, e]

/-- A meaning that issues. -/
theorem run_issue {bs : List Nat} {s t : State} {r : Nat} {op : Byte} {w : TWord} {a : At} {f : At → State → Iss}
    (hs : s.specified bs) (h : s.issueAt r op w = some a) (hf : f a (s.fetched a) = .ok t) :
    run bs s (s.issue r op w f) = .next (s.after t) := run_eq hs (issue_ok h hf)

theorem run_issue_fault {bs : List Nat} {s : State} {r : Nat} {op : Byte} {w : TWord} {a : At} {fc : FaultCode} {f : At → State → Iss}
    (hs : s.specified bs) (h : s.issueAt r op w = some a) (hf : f a (s.fetched a) = .fault fc) :
    run bs s (s.issue r op w f) = .next (s.after (s.roomFault r a.pc fc)) := run_eq hs (issue_fault h hf)

/-- A meaning that acts only while the device works. -/
theorem run_live {bs : List Nat} {s t u : State} (h : s.specified bs) (hw : s.working = true) (e : t = u) :
    run bs s (s.live t) = .next (s.after u) := run_eq h ((live_ok hw t).trans e)

/-- A command that goes answers what its effect gives, or waits. -/
theorem cmdWait_goes {s t : State} {q : Req} {op used : Nat} {nsp : Bool} {f : State → State × Option Ans}
    (h : s.cmdGoes q op used nsp t) :
    s.cmdWait q op used nsp f = ((f t).2.map fun a => (f t).1.answer q a).getD (f t).1 := by
  obtain ⟨h0, h1, h2, h3, h4, h5, h6, h7, h8, h9⟩ := h
  have hb : ¬ (q.flags ≥ 2 ∨ q.len > 1984 ∨ (q.args.drop used).any (· ≠ 0) = true ∨ (q.isNsp = true ∧ (!nsp) = true)) := by
    rintro (h | h | h | ⟨h, h'⟩)
    · omega
    · omega
    · obtain ⟨x, hx, hx0⟩ := List.any_eq_true.mp h
      have := List.all_eq_true.mp h5 x hx
      simp_all
    · simp [h6 h] at h'
  unfold State.cmdWait
  rw [if_neg (by simp [h0, h1, h8, h9])]
  simp only [h2, if_neg hb, h7, Bool.not_true, Bool.false_eq_true, if_false]
  cases (f t).2 <;> rfl

/-- A command answered at once answers what its effect gives. -/
theorem cmd_goes {s t u : State} {q : Req} {op used : Nat} {nsp : Bool} {f : State → State × Ans} {a : Ans}
    (h : s.cmdGoes q op used nsp t) (hf : f t = (u, a)) : s.cmd q op used nsp f = u.answer q a := by
  simp [State.cmd, cmdWait_goes h, hf]

/-- The same inside `run`. -/
theorem run_req {bs : List Nat} {s t u : State} {q : Req} {op used : Nat} {nsp : Bool} {f : State → State × Ans} {a : Ans}
    (hs : s.specified bs) (h : s.cmdGoes q op used nsp t) (hf : f t = (u, a)) :
    run bs s (s.cmd q op used nsp f) = .next (s.after (u.answer q a)) := run_eq hs (cmd_goes h hf)

/-- An MGMT request that is taken and served answers OK with the service's data. -/
theorem mgmt_ok {s t u : State} {k : Packet} {ty p : Nat} {f : State → Option (State × List Byte)} {vest : Bool} {d : List Byte}
    (h : s.takeMgmt k [ty] = some (p, t)) (hv : t.devState ≠ stVESTIBULE ∨ vest = true) (hf : f t = some (u, d)) :
    s.mgmt k ty f vest = u.respond p k rsOK d := by
  unfold State.mgmt
  simp only [h]
  rw [if_neg (by rcases hv with h | h <;> simp [h])]
  simp only [hf]

/-- The same inside `run`. -/
theorem run_mgmt {bs : List Nat} {s t u : State} {k : Packet} {ty p : Nat} {f : State → Option (State × List Byte)} {vest : Bool}
    {d : List Byte} (hs : s.specified bs) (h : s.takeMgmt k [ty] = some (p, t)) (hv : t.devState ≠ stVESTIBULE ∨ vest = true)
    (hf : f t = some (u, d)) : run bs s (s.mgmt k ty f vest) = .next (s.after (u.respond p k rsOK d)) :=
  run_eq hs (mgmt_ok h hv hf)

/-- A sound critical command takes its counter, acts, and is audited and answered. -/
theorem run_crit {bs : List Nat} {s t u : State} {q : Req} {op : Nat} {f : State → List Byte → State × Ans} {a : Ans}
    (hs : s.specified bs) (h : s.critGoes q op t) (hf : f (t.critTaken q) (State.critArgs q) = (u, a)) :
    run bs s (s.critical q op true f) = .next (s.after ((u.critDone q op a).answer q a)) := by
  obtain ⟨hg, ha, hc⟩ := h
  refine run_eq hs ?_
  unfold State.critical
  have e : s.auditState q op = s := by simp [State.auditState, ha]
  rw [e]
  exact cmd_goes hg (by rw [if_pos hc, hf])

/-- Fewer blocks are specified too. -/
theorem specified_sub {s : State} {bs cs : List Nat} (h : s.specified bs) (hc : ∀ b ∈ cs, b ∈ bs) : s.specified cs := by
  unfold State.specified at *
  simp only [List.any_eq_false] at *
  exact fun x hx => h x (hc x hx)

/-- A context's command finds its context. -/
theorem onCtx_some {t : State} {q : Req} {x : Ctx} {f : Ctx → State × Ans} (h : t.ctx (q.arg 0) = some x) : t.onCtx q f = f x := by
  simp only [State.onCtx, h]

/-- Where a word issues from is in its room. -/
theorem issueAt_room {s : State} {r : Nat} {op : Byte} {w : TWord} {a : At} (h : s.issueAt r op w = some a) : a.room = r := by
  obtain ⟨c, sl, li, bs, u, -, -, -, -, -, rfl⟩ := issueAt_spec h
  rfl

end Sys2Proof.Machine
end

