-- ==== Sys2Proof/Laws/State.lean ====
section
/-! SUPPORT. What each named update of the state leaves alone, one lemma a field, and what it puts into its own field. -/

namespace Sys2Proof.Machine.State

variable (s : State)

/-! setReg -/

@[simp] theorem setReg_pending (o : Nat) (v : W32) : (s.setReg o v).pending = s.pending := rfl
@[simp] theorem setReg_rooms (o : Nat) (v : W32) : (s.setReg o v).rooms = s.rooms := rfl
@[simp] theorem setReg_ctxs (o : Nat) (v : W32) : (s.setReg o v).ctxs = s.ctxs := rfl
@[simp] theorem setReg_hbm (o : Nat) (v : W32) : (s.setReg o v).hbm = s.hbm := rfl
@[simp] theorem setReg_buttery (o : Nat) (v : W32) : (s.setReg o v).buttery = s.buttery := rfl
@[simp] theorem setReg_hostMem (o : Nat) (v : W32) : (s.setReg o v).hostMem = s.hostMem := rfl
@[simp] theorem setReg_mmu (o : Nat) (v : W32) : (s.setReg o v).mmu = s.mmu := rfl
@[simp] theorem setReg_vnt (o : Nat) (v : W32) : (s.setReg o v).vnt = s.vnt := rfl
@[simp] theorem setReg_tb (o : Nat) (v : W32) : (s.setReg o v).tb = s.tb := rfl
@[simp] theorem setReg_fab (o : Nat) (v : W32) : (s.setReg o v).fab = s.fab := rfl
@[simp] theorem setReg_dbg (o : Nat) (v : W32) : (s.setReg o v).dbg = s.dbg := rfl
@[simp] theorem setReg_prs (o : Nat) (v : W32) : (s.setReg o v).prs = s.prs := rfl
@[simp] theorem setReg_rck (o : Nat) (v : W32) : (s.setReg o v).rck = s.rck := rfl
@[simp] theorem setReg_life (o : Nat) (v : W32) : (s.setReg o v).life = s.life := rfl
@[simp] theorem setReg_col (o : Nat) (v : W32) : (s.setReg o v).col = s.col := rfl
@[simp] theorem setReg_host (o : Nat) (v : W32) : (s.setReg o v).host = s.host := rfl
@[simp] theorem setReg_res (o : Nat) (v : W32) : (s.setReg o v).res = s.res := rfl
@[simp] theorem setReg_tst (o : Nat) (v : W32) : (s.setReg o v).tst = s.tst := rfl
@[simp] theorem setReg_pwr (o : Nat) (v : W32) : (s.setReg o v).pwr = s.pwr := rfl
@[simp] theorem setReg_sec (o : Nat) (v : W32) : (s.setReg o v).sec = s.sec := rfl
@[simp] theorem setReg_out (o : Nat) (v : W32) : (s.setReg o v).out = s.out := rfl
@[simp] theorem setReg_free (o : Nat) (v : W32) : (s.setReg o v).free = s.free := rfl
@[simp] theorem setReg_room (o : Nat) (v : W32) (x : Nat) : (s.setReg o v).room x = s.room x := rfl
@[simp] theorem setReg_ctx (o : Nat) (v : W32) (x : Nat) : (s.setReg o v).ctx x = s.ctx x := rfl

/-! setRegBits -/

@[simp] theorem setRegBits_pending (o lo w v : Nat) : (s.setRegBits o lo w v).pending = s.pending := rfl
@[simp] theorem setRegBits_rooms (o lo w v : Nat) : (s.setRegBits o lo w v).rooms = s.rooms := rfl
@[simp] theorem setRegBits_ctxs (o lo w v : Nat) : (s.setRegBits o lo w v).ctxs = s.ctxs := rfl
@[simp] theorem setRegBits_hbm (o lo w v : Nat) : (s.setRegBits o lo w v).hbm = s.hbm := rfl
@[simp] theorem setRegBits_buttery (o lo w v : Nat) : (s.setRegBits o lo w v).buttery = s.buttery := rfl
@[simp] theorem setRegBits_hostMem (o lo w v : Nat) : (s.setRegBits o lo w v).hostMem = s.hostMem := rfl
@[simp] theorem setRegBits_mmu (o lo w v : Nat) : (s.setRegBits o lo w v).mmu = s.mmu := rfl
@[simp] theorem setRegBits_vnt (o lo w v : Nat) : (s.setRegBits o lo w v).vnt = s.vnt := rfl
@[simp] theorem setRegBits_tb (o lo w v : Nat) : (s.setRegBits o lo w v).tb = s.tb := rfl
@[simp] theorem setRegBits_fab (o lo w v : Nat) : (s.setRegBits o lo w v).fab = s.fab := rfl
@[simp] theorem setRegBits_dbg (o lo w v : Nat) : (s.setRegBits o lo w v).dbg = s.dbg := rfl
@[simp] theorem setRegBits_prs (o lo w v : Nat) : (s.setRegBits o lo w v).prs = s.prs := rfl
@[simp] theorem setRegBits_rck (o lo w v : Nat) : (s.setRegBits o lo w v).rck = s.rck := rfl
@[simp] theorem setRegBits_life (o lo w v : Nat) : (s.setRegBits o lo w v).life = s.life := rfl
@[simp] theorem setRegBits_col (o lo w v : Nat) : (s.setRegBits o lo w v).col = s.col := rfl
@[simp] theorem setRegBits_host (o lo w v : Nat) : (s.setRegBits o lo w v).host = s.host := rfl
@[simp] theorem setRegBits_res (o lo w v : Nat) : (s.setRegBits o lo w v).res = s.res := rfl
@[simp] theorem setRegBits_tst (o lo w v : Nat) : (s.setRegBits o lo w v).tst = s.tst := rfl
@[simp] theorem setRegBits_pwr (o lo w v : Nat) : (s.setRegBits o lo w v).pwr = s.pwr := rfl
@[simp] theorem setRegBits_sec (o lo w v : Nat) : (s.setRegBits o lo w v).sec = s.sec := rfl
@[simp] theorem setRegBits_out (o lo w v : Nat) : (s.setRegBits o lo w v).out = s.out := rfl
@[simp] theorem setRegBits_free (o lo w v : Nat) : (s.setRegBits o lo w v).free = s.free := rfl
@[simp] theorem setRegBits_room (o lo w v : Nat) (x : Nat) : (s.setRegBits o lo w v).room x = s.room x := rfl
@[simp] theorem setRegBits_ctx (o lo w v : Nat) (x : Nat) : (s.setRegBits o lo w v).ctx x = s.ctx x := rfl

/-! setRegBit -/

@[simp] theorem setRegBit_pending (o lo : Nat) (b : Bool) : (s.setRegBit o lo b).pending = s.pending := rfl
@[simp] theorem setRegBit_rooms (o lo : Nat) (b : Bool) : (s.setRegBit o lo b).rooms = s.rooms := rfl
@[simp] theorem setRegBit_ctxs (o lo : Nat) (b : Bool) : (s.setRegBit o lo b).ctxs = s.ctxs := rfl
@[simp] theorem setRegBit_hbm (o lo : Nat) (b : Bool) : (s.setRegBit o lo b).hbm = s.hbm := rfl
@[simp] theorem setRegBit_buttery (o lo : Nat) (b : Bool) : (s.setRegBit o lo b).buttery = s.buttery := rfl
@[simp] theorem setRegBit_hostMem (o lo : Nat) (b : Bool) : (s.setRegBit o lo b).hostMem = s.hostMem := rfl
@[simp] theorem setRegBit_mmu (o lo : Nat) (b : Bool) : (s.setRegBit o lo b).mmu = s.mmu := rfl
@[simp] theorem setRegBit_vnt (o lo : Nat) (b : Bool) : (s.setRegBit o lo b).vnt = s.vnt := rfl
@[simp] theorem setRegBit_tb (o lo : Nat) (b : Bool) : (s.setRegBit o lo b).tb = s.tb := rfl
@[simp] theorem setRegBit_fab (o lo : Nat) (b : Bool) : (s.setRegBit o lo b).fab = s.fab := rfl
@[simp] theorem setRegBit_dbg (o lo : Nat) (b : Bool) : (s.setRegBit o lo b).dbg = s.dbg := rfl
@[simp] theorem setRegBit_prs (o lo : Nat) (b : Bool) : (s.setRegBit o lo b).prs = s.prs := rfl
@[simp] theorem setRegBit_rck (o lo : Nat) (b : Bool) : (s.setRegBit o lo b).rck = s.rck := rfl
@[simp] theorem setRegBit_life (o lo : Nat) (b : Bool) : (s.setRegBit o lo b).life = s.life := rfl
@[simp] theorem setRegBit_col (o lo : Nat) (b : Bool) : (s.setRegBit o lo b).col = s.col := rfl
@[simp] theorem setRegBit_host (o lo : Nat) (b : Bool) : (s.setRegBit o lo b).host = s.host := rfl
@[simp] theorem setRegBit_res (o lo : Nat) (b : Bool) : (s.setRegBit o lo b).res = s.res := rfl
@[simp] theorem setRegBit_tst (o lo : Nat) (b : Bool) : (s.setRegBit o lo b).tst = s.tst := rfl
@[simp] theorem setRegBit_pwr (o lo : Nat) (b : Bool) : (s.setRegBit o lo b).pwr = s.pwr := rfl
@[simp] theorem setRegBit_sec (o lo : Nat) (b : Bool) : (s.setRegBit o lo b).sec = s.sec := rfl
@[simp] theorem setRegBit_out (o lo : Nat) (b : Bool) : (s.setRegBit o lo b).out = s.out := rfl
@[simp] theorem setRegBit_free (o lo : Nat) (b : Bool) : (s.setRegBit o lo b).free = s.free := rfl
@[simp] theorem setRegBit_room (o lo : Nat) (b : Bool) (x : Nat) : (s.setRegBit o lo b).room x = s.room x := rfl
@[simp] theorem setRegBit_ctx (o lo : Nat) (b : Bool) (x : Nat) : (s.setRegBit o lo b).ctx x = s.ctx x := rfl

/-! regCount -/

@[simp] theorem regCount_pending (o lo w n : Nat) : (s.regCount o lo w n).pending = s.pending := rfl
@[simp] theorem regCount_rooms (o lo w n : Nat) : (s.regCount o lo w n).rooms = s.rooms := rfl
@[simp] theorem regCount_ctxs (o lo w n : Nat) : (s.regCount o lo w n).ctxs = s.ctxs := rfl
@[simp] theorem regCount_hbm (o lo w n : Nat) : (s.regCount o lo w n).hbm = s.hbm := rfl
@[simp] theorem regCount_buttery (o lo w n : Nat) : (s.regCount o lo w n).buttery = s.buttery := rfl
@[simp] theorem regCount_hostMem (o lo w n : Nat) : (s.regCount o lo w n).hostMem = s.hostMem := rfl
@[simp] theorem regCount_mmu (o lo w n : Nat) : (s.regCount o lo w n).mmu = s.mmu := rfl
@[simp] theorem regCount_vnt (o lo w n : Nat) : (s.regCount o lo w n).vnt = s.vnt := rfl
@[simp] theorem regCount_tb (o lo w n : Nat) : (s.regCount o lo w n).tb = s.tb := rfl
@[simp] theorem regCount_fab (o lo w n : Nat) : (s.regCount o lo w n).fab = s.fab := rfl
@[simp] theorem regCount_dbg (o lo w n : Nat) : (s.regCount o lo w n).dbg = s.dbg := rfl
@[simp] theorem regCount_prs (o lo w n : Nat) : (s.regCount o lo w n).prs = s.prs := rfl
@[simp] theorem regCount_rck (o lo w n : Nat) : (s.regCount o lo w n).rck = s.rck := rfl
@[simp] theorem regCount_life (o lo w n : Nat) : (s.regCount o lo w n).life = s.life := rfl
@[simp] theorem regCount_col (o lo w n : Nat) : (s.regCount o lo w n).col = s.col := rfl
@[simp] theorem regCount_host (o lo w n : Nat) : (s.regCount o lo w n).host = s.host := rfl
@[simp] theorem regCount_res (o lo w n : Nat) : (s.regCount o lo w n).res = s.res := rfl
@[simp] theorem regCount_tst (o lo w n : Nat) : (s.regCount o lo w n).tst = s.tst := rfl
@[simp] theorem regCount_pwr (o lo w n : Nat) : (s.regCount o lo w n).pwr = s.pwr := rfl
@[simp] theorem regCount_sec (o lo w n : Nat) : (s.regCount o lo w n).sec = s.sec := rfl
@[simp] theorem regCount_out (o lo w n : Nat) : (s.regCount o lo w n).out = s.out := rfl
@[simp] theorem regCount_free (o lo w n : Nat) : (s.regCount o lo w n).free = s.free := rfl
@[simp] theorem regCount_room (o lo w n : Nat) (x : Nat) : (s.regCount o lo w n).room x = s.room x := rfl
@[simp] theorem regCount_ctx (o lo w n : Nat) (x : Nat) : (s.regCount o lo w n).ctx x = s.ctx x := rfl

/-! setRoom -/

@[simp] theorem setRoom_pending (r : Nat) (new : Room) : (s.setRoom r new).pending = s.pending := rfl
@[simp] theorem setRoom_regs (r : Nat) (new : Room) : (s.setRoom r new).regs = s.regs := rfl
@[simp] theorem setRoom_rooms (r : Nat) (new : Room) : (s.setRoom r new).rooms = s.rooms.set r new := rfl
@[simp] theorem setRoom_ctxs (r : Nat) (new : Room) : (s.setRoom r new).ctxs = s.ctxs := rfl
@[simp] theorem setRoom_hbm (r : Nat) (new : Room) : (s.setRoom r new).hbm = s.hbm := rfl
@[simp] theorem setRoom_buttery (r : Nat) (new : Room) : (s.setRoom r new).buttery = s.buttery := rfl
@[simp] theorem setRoom_hostMem (r : Nat) (new : Room) : (s.setRoom r new).hostMem = s.hostMem := rfl
@[simp] theorem setRoom_mmu (r : Nat) (new : Room) : (s.setRoom r new).mmu = s.mmu := rfl
@[simp] theorem setRoom_vnt (r : Nat) (new : Room) : (s.setRoom r new).vnt = s.vnt := rfl
@[simp] theorem setRoom_tb (r : Nat) (new : Room) : (s.setRoom r new).tb = s.tb := rfl
@[simp] theorem setRoom_fab (r : Nat) (new : Room) : (s.setRoom r new).fab = s.fab := rfl
@[simp] theorem setRoom_dbg (r : Nat) (new : Room) : (s.setRoom r new).dbg = s.dbg := rfl
@[simp] theorem setRoom_prs (r : Nat) (new : Room) : (s.setRoom r new).prs = s.prs := rfl
@[simp] theorem setRoom_rck (r : Nat) (new : Room) : (s.setRoom r new).rck = s.rck := rfl
@[simp] theorem setRoom_life (r : Nat) (new : Room) : (s.setRoom r new).life = s.life := rfl
@[simp] theorem setRoom_col (r : Nat) (new : Room) : (s.setRoom r new).col = s.col := rfl
@[simp] theorem setRoom_host (r : Nat) (new : Room) : (s.setRoom r new).host = s.host := rfl
@[simp] theorem setRoom_res (r : Nat) (new : Room) : (s.setRoom r new).res = s.res := rfl
@[simp] theorem setRoom_tst (r : Nat) (new : Room) : (s.setRoom r new).tst = s.tst := rfl
@[simp] theorem setRoom_pwr (r : Nat) (new : Room) : (s.setRoom r new).pwr = s.pwr := rfl
@[simp] theorem setRoom_sec (r : Nat) (new : Room) : (s.setRoom r new).sec = s.sec := rfl
@[simp] theorem setRoom_out (r : Nat) (new : Room) : (s.setRoom r new).out = s.out := rfl
@[simp] theorem setRoom_free (r : Nat) (new : Room) : (s.setRoom r new).free = s.free := rfl
@[simp] theorem setRoom_reg (r : Nat) (new : Room) (x : Nat) : (s.setRoom r new).reg x = s.reg x := rfl
@[simp] theorem setRoom_regBits (r : Nat) (new : Room) (x y z : Nat) : (s.setRoom r new).regBits x y z = s.regBits x y z := rfl
@[simp] theorem setRoom_regBit (r : Nat) (new : Room) (x y : Nat) : (s.setRoom r new).regBit x y = s.regBit x y := rfl
@[simp] theorem setRoom_devState (r : Nat) (new : Room) : (s.setRoom r new).devState = s.devState := rfl
@[simp] theorem setRoom_ctx (r : Nat) (new : Room) (x : Nat) : (s.setRoom r new).ctx x = s.ctx x := rfl

/-! modRoom -/

@[simp] theorem modRoom_pending (r : Nat) (f : Room → Room) : (s.modRoom r f).pending = s.pending := rfl
@[simp] theorem modRoom_regs (r : Nat) (f : Room → Room) : (s.modRoom r f).regs = s.regs := rfl
@[simp] theorem modRoom_rooms (r : Nat) (f : Room → Room) : (s.modRoom r f).rooms = s.rooms.set r (f (s.room r)) := rfl
@[simp] theorem modRoom_ctxs (r : Nat) (f : Room → Room) : (s.modRoom r f).ctxs = s.ctxs := rfl
@[simp] theorem modRoom_hbm (r : Nat) (f : Room → Room) : (s.modRoom r f).hbm = s.hbm := rfl
@[simp] theorem modRoom_buttery (r : Nat) (f : Room → Room) : (s.modRoom r f).buttery = s.buttery := rfl
@[simp] theorem modRoom_hostMem (r : Nat) (f : Room → Room) : (s.modRoom r f).hostMem = s.hostMem := rfl
@[simp] theorem modRoom_mmu (r : Nat) (f : Room → Room) : (s.modRoom r f).mmu = s.mmu := rfl
@[simp] theorem modRoom_vnt (r : Nat) (f : Room → Room) : (s.modRoom r f).vnt = s.vnt := rfl
@[simp] theorem modRoom_tb (r : Nat) (f : Room → Room) : (s.modRoom r f).tb = s.tb := rfl
@[simp] theorem modRoom_fab (r : Nat) (f : Room → Room) : (s.modRoom r f).fab = s.fab := rfl
@[simp] theorem modRoom_dbg (r : Nat) (f : Room → Room) : (s.modRoom r f).dbg = s.dbg := rfl
@[simp] theorem modRoom_prs (r : Nat) (f : Room → Room) : (s.modRoom r f).prs = s.prs := rfl
@[simp] theorem modRoom_rck (r : Nat) (f : Room → Room) : (s.modRoom r f).rck = s.rck := rfl
@[simp] theorem modRoom_life (r : Nat) (f : Room → Room) : (s.modRoom r f).life = s.life := rfl
@[simp] theorem modRoom_col (r : Nat) (f : Room → Room) : (s.modRoom r f).col = s.col := rfl
@[simp] theorem modRoom_host (r : Nat) (f : Room → Room) : (s.modRoom r f).host = s.host := rfl
@[simp] theorem modRoom_res (r : Nat) (f : Room → Room) : (s.modRoom r f).res = s.res := rfl
@[simp] theorem modRoom_tst (r : Nat) (f : Room → Room) : (s.modRoom r f).tst = s.tst := rfl
@[simp] theorem modRoom_pwr (r : Nat) (f : Room → Room) : (s.modRoom r f).pwr = s.pwr := rfl
@[simp] theorem modRoom_sec (r : Nat) (f : Room → Room) : (s.modRoom r f).sec = s.sec := rfl
@[simp] theorem modRoom_out (r : Nat) (f : Room → Room) : (s.modRoom r f).out = s.out := rfl
@[simp] theorem modRoom_free (r : Nat) (f : Room → Room) : (s.modRoom r f).free = s.free := rfl
@[simp] theorem modRoom_reg (r : Nat) (f : Room → Room) (x : Nat) : (s.modRoom r f).reg x = s.reg x := rfl
@[simp] theorem modRoom_regBits (r : Nat) (f : Room → Room) (x y z : Nat) : (s.modRoom r f).regBits x y z = s.regBits x y z := rfl
@[simp] theorem modRoom_regBit (r : Nat) (f : Room → Room) (x y : Nat) : (s.modRoom r f).regBit x y = s.regBit x y := rfl
@[simp] theorem modRoom_devState (r : Nat) (f : Room → Room) : (s.modRoom r f).devState = s.devState := rfl
@[simp] theorem modRoom_ctx (r : Nat) (f : Room → Room) (x : Nat) : (s.modRoom r f).ctx x = s.ctx x := rfl

/-! setCtx -/

@[simp] theorem setCtx_pending (c : Nat) (new : Option Ctx) : (s.setCtx c new).pending = s.pending := rfl
@[simp] theorem setCtx_regs (c : Nat) (new : Option Ctx) : (s.setCtx c new).regs = s.regs := rfl
@[simp] theorem setCtx_rooms (c : Nat) (new : Option Ctx) : (s.setCtx c new).rooms = s.rooms := rfl
@[simp] theorem setCtx_ctxs (c : Nat) (new : Option Ctx) : (s.setCtx c new).ctxs = s.ctxs.set c new := rfl
@[simp] theorem setCtx_hbm (c : Nat) (new : Option Ctx) : (s.setCtx c new).hbm = s.hbm := rfl
@[simp] theorem setCtx_buttery (c : Nat) (new : Option Ctx) : (s.setCtx c new).buttery = s.buttery := rfl
@[simp] theorem setCtx_hostMem (c : Nat) (new : Option Ctx) : (s.setCtx c new).hostMem = s.hostMem := rfl
@[simp] theorem setCtx_mmu (c : Nat) (new : Option Ctx) : (s.setCtx c new).mmu = s.mmu := rfl
@[simp] theorem setCtx_vnt (c : Nat) (new : Option Ctx) : (s.setCtx c new).vnt = s.vnt := rfl
@[simp] theorem setCtx_tb (c : Nat) (new : Option Ctx) : (s.setCtx c new).tb = s.tb := rfl
@[simp] theorem setCtx_fab (c : Nat) (new : Option Ctx) : (s.setCtx c new).fab = s.fab := rfl
@[simp] theorem setCtx_dbg (c : Nat) (new : Option Ctx) : (s.setCtx c new).dbg = s.dbg := rfl
@[simp] theorem setCtx_prs (c : Nat) (new : Option Ctx) : (s.setCtx c new).prs = s.prs := rfl
@[simp] theorem setCtx_rck (c : Nat) (new : Option Ctx) : (s.setCtx c new).rck = s.rck := rfl
@[simp] theorem setCtx_life (c : Nat) (new : Option Ctx) : (s.setCtx c new).life = s.life := rfl
@[simp] theorem setCtx_col (c : Nat) (new : Option Ctx) : (s.setCtx c new).col = s.col := rfl
@[simp] theorem setCtx_host (c : Nat) (new : Option Ctx) : (s.setCtx c new).host = s.host := rfl
@[simp] theorem setCtx_res (c : Nat) (new : Option Ctx) : (s.setCtx c new).res = s.res := rfl
@[simp] theorem setCtx_tst (c : Nat) (new : Option Ctx) : (s.setCtx c new).tst = s.tst := rfl
@[simp] theorem setCtx_pwr (c : Nat) (new : Option Ctx) : (s.setCtx c new).pwr = s.pwr := rfl
@[simp] theorem setCtx_sec (c : Nat) (new : Option Ctx) : (s.setCtx c new).sec = s.sec := rfl
@[simp] theorem setCtx_out (c : Nat) (new : Option Ctx) : (s.setCtx c new).out = s.out := rfl
@[simp] theorem setCtx_free (c : Nat) (new : Option Ctx) : (s.setCtx c new).free = s.free := rfl
@[simp] theorem setCtx_reg (c : Nat) (new : Option Ctx) (x : Nat) : (s.setCtx c new).reg x = s.reg x := rfl
@[simp] theorem setCtx_regBits (c : Nat) (new : Option Ctx) (x y z : Nat) : (s.setCtx c new).regBits x y z = s.regBits x y z := rfl
@[simp] theorem setCtx_regBit (c : Nat) (new : Option Ctx) (x y : Nat) : (s.setCtx c new).regBit x y = s.regBit x y := rfl
@[simp] theorem setCtx_devState (c : Nat) (new : Option Ctx) : (s.setCtx c new).devState = s.devState := rfl
@[simp] theorem setCtx_room (c : Nat) (new : Option Ctx) (x : Nat) : (s.setCtx c new).room x = s.room x := rfl

/-! modCtx -/

@[simp] theorem modCtx_pending (c : Nat) (f : Ctx → Ctx) : (s.modCtx c f).pending = s.pending := rfl
@[simp] theorem modCtx_regs (c : Nat) (f : Ctx → Ctx) : (s.modCtx c f).regs = s.regs := rfl
@[simp] theorem modCtx_rooms (c : Nat) (f : Ctx → Ctx) : (s.modCtx c f).rooms = s.rooms := rfl
@[simp] theorem modCtx_ctxs (c : Nat) (f : Ctx → Ctx) : (s.modCtx c f).ctxs = s.ctxs.set c ((s.ctx c).map f) := rfl
@[simp] theorem modCtx_hbm (c : Nat) (f : Ctx → Ctx) : (s.modCtx c f).hbm = s.hbm := rfl
@[simp] theorem modCtx_buttery (c : Nat) (f : Ctx → Ctx) : (s.modCtx c f).buttery = s.buttery := rfl
@[simp] theorem modCtx_hostMem (c : Nat) (f : Ctx → Ctx) : (s.modCtx c f).hostMem = s.hostMem := rfl
@[simp] theorem modCtx_mmu (c : Nat) (f : Ctx → Ctx) : (s.modCtx c f).mmu = s.mmu := rfl
@[simp] theorem modCtx_vnt (c : Nat) (f : Ctx → Ctx) : (s.modCtx c f).vnt = s.vnt := rfl
@[simp] theorem modCtx_tb (c : Nat) (f : Ctx → Ctx) : (s.modCtx c f).tb = s.tb := rfl
@[simp] theorem modCtx_fab (c : Nat) (f : Ctx → Ctx) : (s.modCtx c f).fab = s.fab := rfl
@[simp] theorem modCtx_dbg (c : Nat) (f : Ctx → Ctx) : (s.modCtx c f).dbg = s.dbg := rfl
@[simp] theorem modCtx_prs (c : Nat) (f : Ctx → Ctx) : (s.modCtx c f).prs = s.prs := rfl
@[simp] theorem modCtx_rck (c : Nat) (f : Ctx → Ctx) : (s.modCtx c f).rck = s.rck := rfl
@[simp] theorem modCtx_life (c : Nat) (f : Ctx → Ctx) : (s.modCtx c f).life = s.life := rfl
@[simp] theorem modCtx_col (c : Nat) (f : Ctx → Ctx) : (s.modCtx c f).col = s.col := rfl
@[simp] theorem modCtx_host (c : Nat) (f : Ctx → Ctx) : (s.modCtx c f).host = s.host := rfl
@[simp] theorem modCtx_res (c : Nat) (f : Ctx → Ctx) : (s.modCtx c f).res = s.res := rfl
@[simp] theorem modCtx_tst (c : Nat) (f : Ctx → Ctx) : (s.modCtx c f).tst = s.tst := rfl
@[simp] theorem modCtx_pwr (c : Nat) (f : Ctx → Ctx) : (s.modCtx c f).pwr = s.pwr := rfl
@[simp] theorem modCtx_sec (c : Nat) (f : Ctx → Ctx) : (s.modCtx c f).sec = s.sec := rfl
@[simp] theorem modCtx_out (c : Nat) (f : Ctx → Ctx) : (s.modCtx c f).out = s.out := rfl
@[simp] theorem modCtx_free (c : Nat) (f : Ctx → Ctx) : (s.modCtx c f).free = s.free := rfl
@[simp] theorem modCtx_reg (c : Nat) (f : Ctx → Ctx) (x : Nat) : (s.modCtx c f).reg x = s.reg x := rfl
@[simp] theorem modCtx_regBits (c : Nat) (f : Ctx → Ctx) (x y z : Nat) : (s.modCtx c f).regBits x y z = s.regBits x y z := rfl
@[simp] theorem modCtx_regBit (c : Nat) (f : Ctx → Ctx) (x y : Nat) : (s.modCtx c f).regBit x y = s.regBit x y := rfl
@[simp] theorem modCtx_devState (c : Nat) (f : Ctx → Ctx) : (s.modCtx c f).devState = s.devState := rfl
@[simp] theorem modCtx_room (c : Nat) (f : Ctx → Ctx) (x : Nat) : (s.modCtx c f).room x = s.room x := rfl

/-! modDbg -/

@[simp] theorem modDbg_pending (f : Dbg → Dbg) : (s.modDbg f).pending = s.pending := rfl
@[simp] theorem modDbg_regs (f : Dbg → Dbg) : (s.modDbg f).regs = s.regs := rfl
@[simp] theorem modDbg_rooms (f : Dbg → Dbg) : (s.modDbg f).rooms = s.rooms := rfl
@[simp] theorem modDbg_ctxs (f : Dbg → Dbg) : (s.modDbg f).ctxs = s.ctxs := rfl
@[simp] theorem modDbg_hbm (f : Dbg → Dbg) : (s.modDbg f).hbm = s.hbm := rfl
@[simp] theorem modDbg_buttery (f : Dbg → Dbg) : (s.modDbg f).buttery = s.buttery := rfl
@[simp] theorem modDbg_hostMem (f : Dbg → Dbg) : (s.modDbg f).hostMem = s.hostMem := rfl
@[simp] theorem modDbg_mmu (f : Dbg → Dbg) : (s.modDbg f).mmu = s.mmu := rfl
@[simp] theorem modDbg_vnt (f : Dbg → Dbg) : (s.modDbg f).vnt = s.vnt := rfl
@[simp] theorem modDbg_tb (f : Dbg → Dbg) : (s.modDbg f).tb = s.tb := rfl
@[simp] theorem modDbg_fab (f : Dbg → Dbg) : (s.modDbg f).fab = s.fab := rfl
@[simp] theorem modDbg_dbg (f : Dbg → Dbg) : (s.modDbg f).dbg = f s.dbg := rfl
@[simp] theorem modDbg_prs (f : Dbg → Dbg) : (s.modDbg f).prs = s.prs := rfl
@[simp] theorem modDbg_rck (f : Dbg → Dbg) : (s.modDbg f).rck = s.rck := rfl
@[simp] theorem modDbg_life (f : Dbg → Dbg) : (s.modDbg f).life = s.life := rfl
@[simp] theorem modDbg_col (f : Dbg → Dbg) : (s.modDbg f).col = s.col := rfl
@[simp] theorem modDbg_host (f : Dbg → Dbg) : (s.modDbg f).host = s.host := rfl
@[simp] theorem modDbg_res (f : Dbg → Dbg) : (s.modDbg f).res = s.res := rfl
@[simp] theorem modDbg_tst (f : Dbg → Dbg) : (s.modDbg f).tst = s.tst := rfl
@[simp] theorem modDbg_pwr (f : Dbg → Dbg) : (s.modDbg f).pwr = s.pwr := rfl
@[simp] theorem modDbg_sec (f : Dbg → Dbg) : (s.modDbg f).sec = s.sec := rfl
@[simp] theorem modDbg_out (f : Dbg → Dbg) : (s.modDbg f).out = s.out := rfl
@[simp] theorem modDbg_free (f : Dbg → Dbg) : (s.modDbg f).free = s.free := rfl
@[simp] theorem modDbg_reg (f : Dbg → Dbg) (x : Nat) : (s.modDbg f).reg x = s.reg x := rfl
@[simp] theorem modDbg_regBits (f : Dbg → Dbg) (x y z : Nat) : (s.modDbg f).regBits x y z = s.regBits x y z := rfl
@[simp] theorem modDbg_regBit (f : Dbg → Dbg) (x y : Nat) : (s.modDbg f).regBit x y = s.regBit x y := rfl
@[simp] theorem modDbg_devState (f : Dbg → Dbg) : (s.modDbg f).devState = s.devState := rfl
@[simp] theorem modDbg_room (f : Dbg → Dbg) (x : Nat) : (s.modDbg f).room x = s.room x := rfl
@[simp] theorem modDbg_ctx (f : Dbg → Dbg) (x : Nat) : (s.modDbg f).ctx x = s.ctx x := rfl

/-! modFab -/

@[simp] theorem modFab_pending (f : Fab → Fab) : (s.modFab f).pending = s.pending := rfl
@[simp] theorem modFab_regs (f : Fab → Fab) : (s.modFab f).regs = s.regs := rfl
@[simp] theorem modFab_rooms (f : Fab → Fab) : (s.modFab f).rooms = s.rooms := rfl
@[simp] theorem modFab_ctxs (f : Fab → Fab) : (s.modFab f).ctxs = s.ctxs := rfl
@[simp] theorem modFab_hbm (f : Fab → Fab) : (s.modFab f).hbm = s.hbm := rfl
@[simp] theorem modFab_buttery (f : Fab → Fab) : (s.modFab f).buttery = s.buttery := rfl
@[simp] theorem modFab_hostMem (f : Fab → Fab) : (s.modFab f).hostMem = s.hostMem := rfl
@[simp] theorem modFab_mmu (f : Fab → Fab) : (s.modFab f).mmu = s.mmu := rfl
@[simp] theorem modFab_vnt (f : Fab → Fab) : (s.modFab f).vnt = s.vnt := rfl
@[simp] theorem modFab_tb (f : Fab → Fab) : (s.modFab f).tb = s.tb := rfl
@[simp] theorem modFab_fab (f : Fab → Fab) : (s.modFab f).fab = f s.fab := rfl
@[simp] theorem modFab_dbg (f : Fab → Fab) : (s.modFab f).dbg = s.dbg := rfl
@[simp] theorem modFab_prs (f : Fab → Fab) : (s.modFab f).prs = s.prs := rfl
@[simp] theorem modFab_rck (f : Fab → Fab) : (s.modFab f).rck = s.rck := rfl
@[simp] theorem modFab_life (f : Fab → Fab) : (s.modFab f).life = s.life := rfl
@[simp] theorem modFab_col (f : Fab → Fab) : (s.modFab f).col = s.col := rfl
@[simp] theorem modFab_host (f : Fab → Fab) : (s.modFab f).host = s.host := rfl
@[simp] theorem modFab_res (f : Fab → Fab) : (s.modFab f).res = s.res := rfl
@[simp] theorem modFab_tst (f : Fab → Fab) : (s.modFab f).tst = s.tst := rfl
@[simp] theorem modFab_pwr (f : Fab → Fab) : (s.modFab f).pwr = s.pwr := rfl
@[simp] theorem modFab_sec (f : Fab → Fab) : (s.modFab f).sec = s.sec := rfl
@[simp] theorem modFab_out (f : Fab → Fab) : (s.modFab f).out = s.out := rfl
@[simp] theorem modFab_free (f : Fab → Fab) : (s.modFab f).free = s.free := rfl
@[simp] theorem modFab_reg (f : Fab → Fab) (x : Nat) : (s.modFab f).reg x = s.reg x := rfl
@[simp] theorem modFab_regBits (f : Fab → Fab) (x y z : Nat) : (s.modFab f).regBits x y z = s.regBits x y z := rfl
@[simp] theorem modFab_regBit (f : Fab → Fab) (x y : Nat) : (s.modFab f).regBit x y = s.regBit x y := rfl
@[simp] theorem modFab_devState (f : Fab → Fab) : (s.modFab f).devState = s.devState := rfl
@[simp] theorem modFab_room (f : Fab → Fab) (x : Nat) : (s.modFab f).room x = s.room x := rfl
@[simp] theorem modFab_ctx (f : Fab → Fab) (x : Nat) : (s.modFab f).ctx x = s.ctx x := rfl

/-! modPort -/

@[simp] theorem modPort_pending (p : Nat) (f : Port → Port) : (s.modPort p f).pending = s.pending := rfl
@[simp] theorem modPort_regs (p : Nat) (f : Port → Port) : (s.modPort p f).regs = s.regs := rfl
@[simp] theorem modPort_rooms (p : Nat) (f : Port → Port) : (s.modPort p f).rooms = s.rooms := rfl
@[simp] theorem modPort_ctxs (p : Nat) (f : Port → Port) : (s.modPort p f).ctxs = s.ctxs := rfl
@[simp] theorem modPort_hbm (p : Nat) (f : Port → Port) : (s.modPort p f).hbm = s.hbm := rfl
@[simp] theorem modPort_buttery (p : Nat) (f : Port → Port) : (s.modPort p f).buttery = s.buttery := rfl
@[simp] theorem modPort_hostMem (p : Nat) (f : Port → Port) : (s.modPort p f).hostMem = s.hostMem := rfl
@[simp] theorem modPort_mmu (p : Nat) (f : Port → Port) : (s.modPort p f).mmu = s.mmu := rfl
@[simp] theorem modPort_vnt (p : Nat) (f : Port → Port) : (s.modPort p f).vnt = s.vnt := rfl
@[simp] theorem modPort_tb (p : Nat) (f : Port → Port) : (s.modPort p f).tb = s.tb := rfl
@[simp] theorem modPort_dbg (p : Nat) (f : Port → Port) : (s.modPort p f).dbg = s.dbg := rfl
@[simp] theorem modPort_prs (p : Nat) (f : Port → Port) : (s.modPort p f).prs = s.prs := rfl
@[simp] theorem modPort_rck (p : Nat) (f : Port → Port) : (s.modPort p f).rck = s.rck := rfl
@[simp] theorem modPort_life (p : Nat) (f : Port → Port) : (s.modPort p f).life = s.life := rfl
@[simp] theorem modPort_col (p : Nat) (f : Port → Port) : (s.modPort p f).col = s.col := rfl
@[simp] theorem modPort_host (p : Nat) (f : Port → Port) : (s.modPort p f).host = s.host := rfl
@[simp] theorem modPort_res (p : Nat) (f : Port → Port) : (s.modPort p f).res = s.res := rfl
@[simp] theorem modPort_tst (p : Nat) (f : Port → Port) : (s.modPort p f).tst = s.tst := rfl
@[simp] theorem modPort_pwr (p : Nat) (f : Port → Port) : (s.modPort p f).pwr = s.pwr := rfl
@[simp] theorem modPort_sec (p : Nat) (f : Port → Port) : (s.modPort p f).sec = s.sec := rfl
@[simp] theorem modPort_out (p : Nat) (f : Port → Port) : (s.modPort p f).out = s.out := rfl
@[simp] theorem modPort_free (p : Nat) (f : Port → Port) : (s.modPort p f).free = s.free := rfl
@[simp] theorem modPort_reg (p : Nat) (f : Port → Port) (x : Nat) : (s.modPort p f).reg x = s.reg x := rfl
@[simp] theorem modPort_regBits (p : Nat) (f : Port → Port) (x y z : Nat) : (s.modPort p f).regBits x y z = s.regBits x y z := rfl
@[simp] theorem modPort_regBit (p : Nat) (f : Port → Port) (x y : Nat) : (s.modPort p f).regBit x y = s.regBit x y := rfl
@[simp] theorem modPort_devState (p : Nat) (f : Port → Port) : (s.modPort p f).devState = s.devState := rfl
@[simp] theorem modPort_room (p : Nat) (f : Port → Port) (x : Nat) : (s.modPort p f).room x = s.room x := rfl
@[simp] theorem modPort_ctx (p : Nat) (f : Port → Port) (x : Nat) : (s.modPort p f).ctx x = s.ctx x := rfl

/-! modRes -/

@[simp] theorem modRes_pending (f : Res → Res) : (s.modRes f).pending = s.pending := rfl
@[simp] theorem modRes_regs (f : Res → Res) : (s.modRes f).regs = s.regs := rfl
@[simp] theorem modRes_rooms (f : Res → Res) : (s.modRes f).rooms = s.rooms := rfl
@[simp] theorem modRes_ctxs (f : Res → Res) : (s.modRes f).ctxs = s.ctxs := rfl
@[simp] theorem modRes_hbm (f : Res → Res) : (s.modRes f).hbm = s.hbm := rfl
@[simp] theorem modRes_buttery (f : Res → Res) : (s.modRes f).buttery = s.buttery := rfl
@[simp] theorem modRes_hostMem (f : Res → Res) : (s.modRes f).hostMem = s.hostMem := rfl
@[simp] theorem modRes_mmu (f : Res → Res) : (s.modRes f).mmu = s.mmu := rfl
@[simp] theorem modRes_vnt (f : Res → Res) : (s.modRes f).vnt = s.vnt := rfl
@[simp] theorem modRes_tb (f : Res → Res) : (s.modRes f).tb = s.tb := rfl
@[simp] theorem modRes_fab (f : Res → Res) : (s.modRes f).fab = s.fab := rfl
@[simp] theorem modRes_dbg (f : Res → Res) : (s.modRes f).dbg = s.dbg := rfl
@[simp] theorem modRes_prs (f : Res → Res) : (s.modRes f).prs = s.prs := rfl
@[simp] theorem modRes_rck (f : Res → Res) : (s.modRes f).rck = s.rck := rfl
@[simp] theorem modRes_life (f : Res → Res) : (s.modRes f).life = s.life := rfl
@[simp] theorem modRes_col (f : Res → Res) : (s.modRes f).col = s.col := rfl
@[simp] theorem modRes_host (f : Res → Res) : (s.modRes f).host = s.host := rfl
@[simp] theorem modRes_res (f : Res → Res) : (s.modRes f).res = f s.res := rfl
@[simp] theorem modRes_tst (f : Res → Res) : (s.modRes f).tst = s.tst := rfl
@[simp] theorem modRes_pwr (f : Res → Res) : (s.modRes f).pwr = s.pwr := rfl
@[simp] theorem modRes_sec (f : Res → Res) : (s.modRes f).sec = s.sec := rfl
@[simp] theorem modRes_out (f : Res → Res) : (s.modRes f).out = s.out := rfl
@[simp] theorem modRes_free (f : Res → Res) : (s.modRes f).free = s.free := rfl
@[simp] theorem modRes_reg (f : Res → Res) (x : Nat) : (s.modRes f).reg x = s.reg x := rfl
@[simp] theorem modRes_regBits (f : Res → Res) (x y z : Nat) : (s.modRes f).regBits x y z = s.regBits x y z := rfl
@[simp] theorem modRes_regBit (f : Res → Res) (x y : Nat) : (s.modRes f).regBit x y = s.regBit x y := rfl
@[simp] theorem modRes_devState (f : Res → Res) : (s.modRes f).devState = s.devState := rfl
@[simp] theorem modRes_room (f : Res → Res) (x : Nat) : (s.modRes f).room x = s.room x := rfl
@[simp] theorem modRes_ctx (f : Res → Res) (x : Nat) : (s.modRes f).ctx x = s.ctx x := rfl

/-! modPwr -/

@[simp] theorem modPwr_pending (f : Pwr → Pwr) : (s.modPwr f).pending = s.pending := rfl
@[simp] theorem modPwr_regs (f : Pwr → Pwr) : (s.modPwr f).regs = s.regs := rfl
@[simp] theorem modPwr_rooms (f : Pwr → Pwr) : (s.modPwr f).rooms = s.rooms := rfl
@[simp] theorem modPwr_ctxs (f : Pwr → Pwr) : (s.modPwr f).ctxs = s.ctxs := rfl
@[simp] theorem modPwr_hbm (f : Pwr → Pwr) : (s.modPwr f).hbm = s.hbm := rfl
@[simp] theorem modPwr_buttery (f : Pwr → Pwr) : (s.modPwr f).buttery = s.buttery := rfl
@[simp] theorem modPwr_hostMem (f : Pwr → Pwr) : (s.modPwr f).hostMem = s.hostMem := rfl
@[simp] theorem modPwr_mmu (f : Pwr → Pwr) : (s.modPwr f).mmu = s.mmu := rfl
@[simp] theorem modPwr_vnt (f : Pwr → Pwr) : (s.modPwr f).vnt = s.vnt := rfl
@[simp] theorem modPwr_tb (f : Pwr → Pwr) : (s.modPwr f).tb = s.tb := rfl
@[simp] theorem modPwr_fab (f : Pwr → Pwr) : (s.modPwr f).fab = s.fab := rfl
@[simp] theorem modPwr_dbg (f : Pwr → Pwr) : (s.modPwr f).dbg = s.dbg := rfl
@[simp] theorem modPwr_prs (f : Pwr → Pwr) : (s.modPwr f).prs = s.prs := rfl
@[simp] theorem modPwr_rck (f : Pwr → Pwr) : (s.modPwr f).rck = s.rck := rfl
@[simp] theorem modPwr_life (f : Pwr → Pwr) : (s.modPwr f).life = s.life := rfl
@[simp] theorem modPwr_col (f : Pwr → Pwr) : (s.modPwr f).col = s.col := rfl
@[simp] theorem modPwr_host (f : Pwr → Pwr) : (s.modPwr f).host = s.host := rfl
@[simp] theorem modPwr_res (f : Pwr → Pwr) : (s.modPwr f).res = s.res := rfl
@[simp] theorem modPwr_tst (f : Pwr → Pwr) : (s.modPwr f).tst = s.tst := rfl
@[simp] theorem modPwr_pwr (f : Pwr → Pwr) : (s.modPwr f).pwr = f s.pwr := rfl
@[simp] theorem modPwr_sec (f : Pwr → Pwr) : (s.modPwr f).sec = s.sec := rfl
@[simp] theorem modPwr_out (f : Pwr → Pwr) : (s.modPwr f).out = s.out := rfl
@[simp] theorem modPwr_free (f : Pwr → Pwr) : (s.modPwr f).free = s.free := rfl
@[simp] theorem modPwr_reg (f : Pwr → Pwr) (x : Nat) : (s.modPwr f).reg x = s.reg x := rfl
@[simp] theorem modPwr_regBits (f : Pwr → Pwr) (x y z : Nat) : (s.modPwr f).regBits x y z = s.regBits x y z := rfl
@[simp] theorem modPwr_regBit (f : Pwr → Pwr) (x y : Nat) : (s.modPwr f).regBit x y = s.regBit x y := rfl
@[simp] theorem modPwr_devState (f : Pwr → Pwr) : (s.modPwr f).devState = s.devState := rfl
@[simp] theorem modPwr_room (f : Pwr → Pwr) (x : Nat) : (s.modPwr f).room x = s.room x := rfl
@[simp] theorem modPwr_ctx (f : Pwr → Pwr) (x : Nat) : (s.modPwr f).ctx x = s.ctx x := rfl

/-! modTst -/

@[simp] theorem modTst_pending (f : Tst → Tst) : (s.modTst f).pending = s.pending := rfl
@[simp] theorem modTst_regs (f : Tst → Tst) : (s.modTst f).regs = s.regs := rfl
@[simp] theorem modTst_rooms (f : Tst → Tst) : (s.modTst f).rooms = s.rooms := rfl
@[simp] theorem modTst_ctxs (f : Tst → Tst) : (s.modTst f).ctxs = s.ctxs := rfl
@[simp] theorem modTst_hbm (f : Tst → Tst) : (s.modTst f).hbm = s.hbm := rfl
@[simp] theorem modTst_buttery (f : Tst → Tst) : (s.modTst f).buttery = s.buttery := rfl
@[simp] theorem modTst_hostMem (f : Tst → Tst) : (s.modTst f).hostMem = s.hostMem := rfl
@[simp] theorem modTst_mmu (f : Tst → Tst) : (s.modTst f).mmu = s.mmu := rfl
@[simp] theorem modTst_vnt (f : Tst → Tst) : (s.modTst f).vnt = s.vnt := rfl
@[simp] theorem modTst_tb (f : Tst → Tst) : (s.modTst f).tb = s.tb := rfl
@[simp] theorem modTst_fab (f : Tst → Tst) : (s.modTst f).fab = s.fab := rfl
@[simp] theorem modTst_dbg (f : Tst → Tst) : (s.modTst f).dbg = s.dbg := rfl
@[simp] theorem modTst_prs (f : Tst → Tst) : (s.modTst f).prs = s.prs := rfl
@[simp] theorem modTst_rck (f : Tst → Tst) : (s.modTst f).rck = s.rck := rfl
@[simp] theorem modTst_life (f : Tst → Tst) : (s.modTst f).life = s.life := rfl
@[simp] theorem modTst_col (f : Tst → Tst) : (s.modTst f).col = s.col := rfl
@[simp] theorem modTst_host (f : Tst → Tst) : (s.modTst f).host = s.host := rfl
@[simp] theorem modTst_res (f : Tst → Tst) : (s.modTst f).res = s.res := rfl
@[simp] theorem modTst_tst (f : Tst → Tst) : (s.modTst f).tst = f s.tst := rfl
@[simp] theorem modTst_pwr (f : Tst → Tst) : (s.modTst f).pwr = s.pwr := rfl
@[simp] theorem modTst_sec (f : Tst → Tst) : (s.modTst f).sec = s.sec := rfl
@[simp] theorem modTst_out (f : Tst → Tst) : (s.modTst f).out = s.out := rfl
@[simp] theorem modTst_free (f : Tst → Tst) : (s.modTst f).free = s.free := rfl
@[simp] theorem modTst_reg (f : Tst → Tst) (x : Nat) : (s.modTst f).reg x = s.reg x := rfl
@[simp] theorem modTst_regBits (f : Tst → Tst) (x y z : Nat) : (s.modTst f).regBits x y z = s.regBits x y z := rfl
@[simp] theorem modTst_regBit (f : Tst → Tst) (x y : Nat) : (s.modTst f).regBit x y = s.regBit x y := rfl
@[simp] theorem modTst_devState (f : Tst → Tst) : (s.modTst f).devState = s.devState := rfl
@[simp] theorem modTst_room (f : Tst → Tst) (x : Nat) : (s.modTst f).room x = s.room x := rfl
@[simp] theorem modTst_ctx (f : Tst → Tst) (x : Nat) : (s.modTst f).ctx x = s.ctx x := rfl

/-! modSec -/

@[simp] theorem modSec_pending (f : Sec → Sec) : (s.modSec f).pending = s.pending := rfl
@[simp] theorem modSec_regs (f : Sec → Sec) : (s.modSec f).regs = s.regs := rfl
@[simp] theorem modSec_rooms (f : Sec → Sec) : (s.modSec f).rooms = s.rooms := rfl
@[simp] theorem modSec_ctxs (f : Sec → Sec) : (s.modSec f).ctxs = s.ctxs := rfl
@[simp] theorem modSec_hbm (f : Sec → Sec) : (s.modSec f).hbm = s.hbm := rfl
@[simp] theorem modSec_buttery (f : Sec → Sec) : (s.modSec f).buttery = s.buttery := rfl
@[simp] theorem modSec_hostMem (f : Sec → Sec) : (s.modSec f).hostMem = s.hostMem := rfl
@[simp] theorem modSec_mmu (f : Sec → Sec) : (s.modSec f).mmu = s.mmu := rfl
@[simp] theorem modSec_vnt (f : Sec → Sec) : (s.modSec f).vnt = s.vnt := rfl
@[simp] theorem modSec_tb (f : Sec → Sec) : (s.modSec f).tb = s.tb := rfl
@[simp] theorem modSec_fab (f : Sec → Sec) : (s.modSec f).fab = s.fab := rfl
@[simp] theorem modSec_dbg (f : Sec → Sec) : (s.modSec f).dbg = s.dbg := rfl
@[simp] theorem modSec_prs (f : Sec → Sec) : (s.modSec f).prs = s.prs := rfl
@[simp] theorem modSec_rck (f : Sec → Sec) : (s.modSec f).rck = s.rck := rfl
@[simp] theorem modSec_life (f : Sec → Sec) : (s.modSec f).life = s.life := rfl
@[simp] theorem modSec_col (f : Sec → Sec) : (s.modSec f).col = s.col := rfl
@[simp] theorem modSec_host (f : Sec → Sec) : (s.modSec f).host = s.host := rfl
@[simp] theorem modSec_res (f : Sec → Sec) : (s.modSec f).res = s.res := rfl
@[simp] theorem modSec_tst (f : Sec → Sec) : (s.modSec f).tst = s.tst := rfl
@[simp] theorem modSec_pwr (f : Sec → Sec) : (s.modSec f).pwr = s.pwr := rfl
@[simp] theorem modSec_sec (f : Sec → Sec) : (s.modSec f).sec = f s.sec := rfl
@[simp] theorem modSec_out (f : Sec → Sec) : (s.modSec f).out = s.out := rfl
@[simp] theorem modSec_free (f : Sec → Sec) : (s.modSec f).free = s.free := rfl
@[simp] theorem modSec_reg (f : Sec → Sec) (x : Nat) : (s.modSec f).reg x = s.reg x := rfl
@[simp] theorem modSec_regBits (f : Sec → Sec) (x y z : Nat) : (s.modSec f).regBits x y z = s.regBits x y z := rfl
@[simp] theorem modSec_regBit (f : Sec → Sec) (x y : Nat) : (s.modSec f).regBit x y = s.regBit x y := rfl
@[simp] theorem modSec_devState (f : Sec → Sec) : (s.modSec f).devState = s.devState := rfl
@[simp] theorem modSec_room (f : Sec → Sec) (x : Nat) : (s.modSec f).room x = s.room x := rfl
@[simp] theorem modSec_ctx (f : Sec → Sec) (x : Nat) : (s.modSec f).ctx x = s.ctx x := rfl

/-! emit -/

@[simp] theorem emit_pending (m : OutMsg) : (s.emit m).pending = s.pending := rfl
@[simp] theorem emit_regs (m : OutMsg) : (s.emit m).regs = s.regs := rfl
@[simp] theorem emit_rooms (m : OutMsg) : (s.emit m).rooms = s.rooms := rfl
@[simp] theorem emit_ctxs (m : OutMsg) : (s.emit m).ctxs = s.ctxs := rfl
@[simp] theorem emit_hbm (m : OutMsg) : (s.emit m).hbm = s.hbm := rfl
@[simp] theorem emit_buttery (m : OutMsg) : (s.emit m).buttery = s.buttery := rfl
@[simp] theorem emit_hostMem (m : OutMsg) : (s.emit m).hostMem = s.hostMem := rfl
@[simp] theorem emit_mmu (m : OutMsg) : (s.emit m).mmu = s.mmu := rfl
@[simp] theorem emit_vnt (m : OutMsg) : (s.emit m).vnt = s.vnt := rfl
@[simp] theorem emit_tb (m : OutMsg) : (s.emit m).tb = s.tb := rfl
@[simp] theorem emit_fab (m : OutMsg) : (s.emit m).fab = s.fab := rfl
@[simp] theorem emit_dbg (m : OutMsg) : (s.emit m).dbg = s.dbg := rfl
@[simp] theorem emit_prs (m : OutMsg) : (s.emit m).prs = s.prs := rfl
@[simp] theorem emit_rck (m : OutMsg) : (s.emit m).rck = s.rck := rfl
@[simp] theorem emit_life (m : OutMsg) : (s.emit m).life = s.life := rfl
@[simp] theorem emit_col (m : OutMsg) : (s.emit m).col = s.col := rfl
@[simp] theorem emit_host (m : OutMsg) : (s.emit m).host = s.host := rfl
@[simp] theorem emit_res (m : OutMsg) : (s.emit m).res = s.res := rfl
@[simp] theorem emit_tst (m : OutMsg) : (s.emit m).tst = s.tst := rfl
@[simp] theorem emit_pwr (m : OutMsg) : (s.emit m).pwr = s.pwr := rfl
@[simp] theorem emit_sec (m : OutMsg) : (s.emit m).sec = s.sec := rfl
@[simp] theorem emit_out (m : OutMsg) : (s.emit m).out = s.out ++ [m] := rfl
@[simp] theorem emit_free (m : OutMsg) : (s.emit m).free = s.free := rfl
@[simp] theorem emit_reg (m : OutMsg) (x : Nat) : (s.emit m).reg x = s.reg x := rfl
@[simp] theorem emit_regBits (m : OutMsg) (x y z : Nat) : (s.emit m).regBits x y z = s.regBits x y z := rfl
@[simp] theorem emit_regBit (m : OutMsg) (x y : Nat) : (s.emit m).regBit x y = s.regBit x y := rfl
@[simp] theorem emit_devState (m : OutMsg) : (s.emit m).devState = s.devState := rfl
@[simp] theorem emit_room (m : OutMsg) (x : Nat) : (s.emit m).room x = s.room x := rfl
@[simp] theorem emit_ctx (m : OutMsg) (x : Nat) : (s.emit m).ctx x = s.ctx x := rfl

/-! bump -/

@[simp] theorem bump_pending (fam unit idx n : Nat) : (s.bump fam unit idx n).pending = s.pending := rfl
@[simp] theorem bump_regs (fam unit idx n : Nat) : (s.bump fam unit idx n).regs = s.regs := rfl
@[simp] theorem bump_rooms (fam unit idx n : Nat) : (s.bump fam unit idx n).rooms = s.rooms := rfl
@[simp] theorem bump_ctxs (fam unit idx n : Nat) : (s.bump fam unit idx n).ctxs = s.ctxs := rfl
@[simp] theorem bump_hbm (fam unit idx n : Nat) : (s.bump fam unit idx n).hbm = s.hbm := rfl
@[simp] theorem bump_buttery (fam unit idx n : Nat) : (s.bump fam unit idx n).buttery = s.buttery := rfl
@[simp] theorem bump_hostMem (fam unit idx n : Nat) : (s.bump fam unit idx n).hostMem = s.hostMem := rfl
@[simp] theorem bump_mmu (fam unit idx n : Nat) : (s.bump fam unit idx n).mmu = s.mmu := rfl
@[simp] theorem bump_vnt (fam unit idx n : Nat) : (s.bump fam unit idx n).vnt = s.vnt := rfl
@[simp] theorem bump_tb (fam unit idx n : Nat) : (s.bump fam unit idx n).tb = s.tb := rfl
@[simp] theorem bump_fab (fam unit idx n : Nat) : (s.bump fam unit idx n).fab = s.fab := rfl
@[simp] theorem bump_prs (fam unit idx n : Nat) : (s.bump fam unit idx n).prs = s.prs := rfl
@[simp] theorem bump_rck (fam unit idx n : Nat) : (s.bump fam unit idx n).rck = s.rck := rfl
@[simp] theorem bump_life (fam unit idx n : Nat) : (s.bump fam unit idx n).life = s.life := rfl
@[simp] theorem bump_col (fam unit idx n : Nat) : (s.bump fam unit idx n).col = s.col := rfl
@[simp] theorem bump_host (fam unit idx n : Nat) : (s.bump fam unit idx n).host = s.host := rfl
@[simp] theorem bump_res (fam unit idx n : Nat) : (s.bump fam unit idx n).res = s.res := rfl
@[simp] theorem bump_tst (fam unit idx n : Nat) : (s.bump fam unit idx n).tst = s.tst := rfl
@[simp] theorem bump_pwr (fam unit idx n : Nat) : (s.bump fam unit idx n).pwr = s.pwr := rfl
@[simp] theorem bump_sec (fam unit idx n : Nat) : (s.bump fam unit idx n).sec = s.sec := rfl
@[simp] theorem bump_out (fam unit idx n : Nat) : (s.bump fam unit idx n).out = s.out := rfl
@[simp] theorem bump_free (fam unit idx n : Nat) : (s.bump fam unit idx n).free = s.free := rfl
@[simp] theorem bump_reg (fam unit idx n : Nat) (x : Nat) : (s.bump fam unit idx n).reg x = s.reg x := rfl
@[simp] theorem bump_regBits (fam unit idx n : Nat) (x y z : Nat) : (s.bump fam unit idx n).regBits x y z = s.regBits x y z := rfl
@[simp] theorem bump_regBit (fam unit idx n : Nat) (x y : Nat) : (s.bump fam unit idx n).regBit x y = s.regBit x y := rfl
@[simp] theorem bump_devState (fam unit idx n : Nat) : (s.bump fam unit idx n).devState = s.devState := rfl
@[simp] theorem bump_room (fam unit idx n : Nat) (x : Nat) : (s.bump fam unit idx n).room x = s.room x := rfl
@[simp] theorem bump_ctx (fam unit idx n : Nat) (x : Nat) : (s.bump fam unit idx n).ctx x = s.ctx x := rfl

/-! lifeAdd -/

@[simp] theorem lifeAdd_pending (item idx n : Nat) : (s.lifeAdd item idx n).pending = s.pending := rfl
@[simp] theorem lifeAdd_regs (item idx n : Nat) : (s.lifeAdd item idx n).regs = s.regs := rfl
@[simp] theorem lifeAdd_rooms (item idx n : Nat) : (s.lifeAdd item idx n).rooms = s.rooms := rfl
@[simp] theorem lifeAdd_ctxs (item idx n : Nat) : (s.lifeAdd item idx n).ctxs = s.ctxs := rfl
@[simp] theorem lifeAdd_hbm (item idx n : Nat) : (s.lifeAdd item idx n).hbm = s.hbm := rfl
@[simp] theorem lifeAdd_buttery (item idx n : Nat) : (s.lifeAdd item idx n).buttery = s.buttery := rfl
@[simp] theorem lifeAdd_hostMem (item idx n : Nat) : (s.lifeAdd item idx n).hostMem = s.hostMem := rfl
@[simp] theorem lifeAdd_mmu (item idx n : Nat) : (s.lifeAdd item idx n).mmu = s.mmu := rfl
@[simp] theorem lifeAdd_vnt (item idx n : Nat) : (s.lifeAdd item idx n).vnt = s.vnt := rfl
@[simp] theorem lifeAdd_tb (item idx n : Nat) : (s.lifeAdd item idx n).tb = s.tb := rfl
@[simp] theorem lifeAdd_fab (item idx n : Nat) : (s.lifeAdd item idx n).fab = s.fab := rfl
@[simp] theorem lifeAdd_dbg (item idx n : Nat) : (s.lifeAdd item idx n).dbg = s.dbg := rfl
@[simp] theorem lifeAdd_prs (item idx n : Nat) : (s.lifeAdd item idx n).prs = s.prs := rfl
@[simp] theorem lifeAdd_rck (item idx n : Nat) : (s.lifeAdd item idx n).rck = s.rck := rfl
@[simp] theorem lifeAdd_col (item idx n : Nat) : (s.lifeAdd item idx n).col = s.col := rfl
@[simp] theorem lifeAdd_host (item idx n : Nat) : (s.lifeAdd item idx n).host = s.host := rfl
@[simp] theorem lifeAdd_res (item idx n : Nat) : (s.lifeAdd item idx n).res = s.res := rfl
@[simp] theorem lifeAdd_tst (item idx n : Nat) : (s.lifeAdd item idx n).tst = s.tst := rfl
@[simp] theorem lifeAdd_pwr (item idx n : Nat) : (s.lifeAdd item idx n).pwr = s.pwr := rfl
@[simp] theorem lifeAdd_sec (item idx n : Nat) : (s.lifeAdd item idx n).sec = s.sec := rfl
@[simp] theorem lifeAdd_out (item idx n : Nat) : (s.lifeAdd item idx n).out = s.out := rfl
@[simp] theorem lifeAdd_free (item idx n : Nat) : (s.lifeAdd item idx n).free = s.free := rfl
@[simp] theorem lifeAdd_reg (item idx n : Nat) (x : Nat) : (s.lifeAdd item idx n).reg x = s.reg x := rfl
@[simp] theorem lifeAdd_regBits (item idx n : Nat) (x y z : Nat) : (s.lifeAdd item idx n).regBits x y z = s.regBits x y z := rfl
@[simp] theorem lifeAdd_regBit (item idx n : Nat) (x y : Nat) : (s.lifeAdd item idx n).regBit x y = s.regBit x y := rfl
@[simp] theorem lifeAdd_devState (item idx n : Nat) : (s.lifeAdd item idx n).devState = s.devState := rfl
@[simp] theorem lifeAdd_room (item idx n : Nat) (x : Nat) : (s.lifeAdd item idx n).room x = s.room x := rfl
@[simp] theorem lifeAdd_ctx (item idx n : Nat) (x : Nat) : (s.lifeAdd item idx n).ctx x = s.ctx x := rfl

/-! hbmSet -/

@[simp] theorem hbmSet_pending (a n v : Nat) : (s.hbmSet a n v).pending = s.pending := rfl
@[simp] theorem hbmSet_regs (a n v : Nat) : (s.hbmSet a n v).regs = s.regs := rfl
@[simp] theorem hbmSet_rooms (a n v : Nat) : (s.hbmSet a n v).rooms = s.rooms := rfl
@[simp] theorem hbmSet_ctxs (a n v : Nat) : (s.hbmSet a n v).ctxs = s.ctxs := rfl
@[simp] theorem hbmSet_hbm (a n v : Nat) : (s.hbmSet a n v).hbm = s.hbm.setLe a n v := rfl
@[simp] theorem hbmSet_buttery (a n v : Nat) : (s.hbmSet a n v).buttery = s.buttery := rfl
@[simp] theorem hbmSet_hostMem (a n v : Nat) : (s.hbmSet a n v).hostMem = s.hostMem := rfl
@[simp] theorem hbmSet_mmu (a n v : Nat) : (s.hbmSet a n v).mmu = s.mmu := rfl
@[simp] theorem hbmSet_vnt (a n v : Nat) : (s.hbmSet a n v).vnt = s.vnt := rfl
@[simp] theorem hbmSet_tb (a n v : Nat) : (s.hbmSet a n v).tb = s.tb := rfl
@[simp] theorem hbmSet_fab (a n v : Nat) : (s.hbmSet a n v).fab = s.fab := rfl
@[simp] theorem hbmSet_dbg (a n v : Nat) : (s.hbmSet a n v).dbg = s.dbg := rfl
@[simp] theorem hbmSet_prs (a n v : Nat) : (s.hbmSet a n v).prs = s.prs := rfl
@[simp] theorem hbmSet_rck (a n v : Nat) : (s.hbmSet a n v).rck = s.rck := rfl
@[simp] theorem hbmSet_life (a n v : Nat) : (s.hbmSet a n v).life = s.life := rfl
@[simp] theorem hbmSet_col (a n v : Nat) : (s.hbmSet a n v).col = s.col := rfl
@[simp] theorem hbmSet_host (a n v : Nat) : (s.hbmSet a n v).host = s.host := rfl
@[simp] theorem hbmSet_res (a n v : Nat) : (s.hbmSet a n v).res = s.res := rfl
@[simp] theorem hbmSet_tst (a n v : Nat) : (s.hbmSet a n v).tst = s.tst := rfl
@[simp] theorem hbmSet_pwr (a n v : Nat) : (s.hbmSet a n v).pwr = s.pwr := rfl
@[simp] theorem hbmSet_sec (a n v : Nat) : (s.hbmSet a n v).sec = s.sec := rfl
@[simp] theorem hbmSet_out (a n v : Nat) : (s.hbmSet a n v).out = s.out := rfl
@[simp] theorem hbmSet_free (a n v : Nat) : (s.hbmSet a n v).free = s.free := rfl
@[simp] theorem hbmSet_reg (a n v : Nat) (x : Nat) : (s.hbmSet a n v).reg x = s.reg x := rfl
@[simp] theorem hbmSet_regBits (a n v : Nat) (x y z : Nat) : (s.hbmSet a n v).regBits x y z = s.regBits x y z := rfl
@[simp] theorem hbmSet_regBit (a n v : Nat) (x y : Nat) : (s.hbmSet a n v).regBit x y = s.regBit x y := rfl
@[simp] theorem hbmSet_devState (a n v : Nat) : (s.hbmSet a n v).devState = s.devState := rfl
@[simp] theorem hbmSet_room (a n v : Nat) (x : Nat) : (s.hbmSet a n v).room x = s.room x := rfl
@[simp] theorem hbmSet_ctx (a n v : Nat) (x : Nat) : (s.hbmSet a n v).ctx x = s.ctx x := rfl

/-! hbmWrite -/

@[simp] theorem hbmWrite_pending (a : Nat) (bs : List Byte) : (s.hbmWrite a bs).pending = s.pending := rfl
@[simp] theorem hbmWrite_regs (a : Nat) (bs : List Byte) : (s.hbmWrite a bs).regs = s.regs := rfl
@[simp] theorem hbmWrite_rooms (a : Nat) (bs : List Byte) : (s.hbmWrite a bs).rooms = s.rooms := rfl
@[simp] theorem hbmWrite_ctxs (a : Nat) (bs : List Byte) : (s.hbmWrite a bs).ctxs = s.ctxs := rfl
@[simp] theorem hbmWrite_hbm (a : Nat) (bs : List Byte) : (s.hbmWrite a bs).hbm = s.hbm.write a bs := rfl
@[simp] theorem hbmWrite_buttery (a : Nat) (bs : List Byte) : (s.hbmWrite a bs).buttery = s.buttery := rfl
@[simp] theorem hbmWrite_hostMem (a : Nat) (bs : List Byte) : (s.hbmWrite a bs).hostMem = s.hostMem := rfl
@[simp] theorem hbmWrite_mmu (a : Nat) (bs : List Byte) : (s.hbmWrite a bs).mmu = s.mmu := rfl
@[simp] theorem hbmWrite_vnt (a : Nat) (bs : List Byte) : (s.hbmWrite a bs).vnt = s.vnt := rfl
@[simp] theorem hbmWrite_tb (a : Nat) (bs : List Byte) : (s.hbmWrite a bs).tb = s.tb := rfl
@[simp] theorem hbmWrite_fab (a : Nat) (bs : List Byte) : (s.hbmWrite a bs).fab = s.fab := rfl
@[simp] theorem hbmWrite_dbg (a : Nat) (bs : List Byte) : (s.hbmWrite a bs).dbg = s.dbg := rfl
@[simp] theorem hbmWrite_prs (a : Nat) (bs : List Byte) : (s.hbmWrite a bs).prs = s.prs := rfl
@[simp] theorem hbmWrite_rck (a : Nat) (bs : List Byte) : (s.hbmWrite a bs).rck = s.rck := rfl
@[simp] theorem hbmWrite_life (a : Nat) (bs : List Byte) : (s.hbmWrite a bs).life = s.life := rfl
@[simp] theorem hbmWrite_col (a : Nat) (bs : List Byte) : (s.hbmWrite a bs).col = s.col := rfl
@[simp] theorem hbmWrite_host (a : Nat) (bs : List Byte) : (s.hbmWrite a bs).host = s.host := rfl
@[simp] theorem hbmWrite_res (a : Nat) (bs : List Byte) : (s.hbmWrite a bs).res = s.res := rfl
@[simp] theorem hbmWrite_tst (a : Nat) (bs : List Byte) : (s.hbmWrite a bs).tst = s.tst := rfl
@[simp] theorem hbmWrite_pwr (a : Nat) (bs : List Byte) : (s.hbmWrite a bs).pwr = s.pwr := rfl
@[simp] theorem hbmWrite_sec (a : Nat) (bs : List Byte) : (s.hbmWrite a bs).sec = s.sec := rfl
@[simp] theorem hbmWrite_out (a : Nat) (bs : List Byte) : (s.hbmWrite a bs).out = s.out := rfl
@[simp] theorem hbmWrite_free (a : Nat) (bs : List Byte) : (s.hbmWrite a bs).free = s.free := rfl
@[simp] theorem hbmWrite_reg (a : Nat) (bs : List Byte) (x : Nat) : (s.hbmWrite a bs).reg x = s.reg x := rfl
@[simp] theorem hbmWrite_regBits (a : Nat) (bs : List Byte) (x y z : Nat) : (s.hbmWrite a bs).regBits x y z = s.regBits x y z := rfl
@[simp] theorem hbmWrite_regBit (a : Nat) (bs : List Byte) (x y : Nat) : (s.hbmWrite a bs).regBit x y = s.regBit x y := rfl
@[simp] theorem hbmWrite_devState (a : Nat) (bs : List Byte) : (s.hbmWrite a bs).devState = s.devState := rfl
@[simp] theorem hbmWrite_room (a : Nat) (bs : List Byte) (x : Nat) : (s.hbmWrite a bs).room x = s.room x := rfl
@[simp] theorem hbmWrite_ctx (a : Nat) (bs : List Byte) (x : Nat) : (s.hbmWrite a bs).ctx x = s.ctx x := rfl

/-! after -/

@[simp] theorem after_pending (t : State) : (s.after t).pending = s.pending := rfl
@[simp] theorem after_regs (t : State) : (s.after t).regs = t.regs := rfl
@[simp] theorem after_rooms (t : State) : (s.after t).rooms = t.rooms := rfl
@[simp] theorem after_ctxs (t : State) : (s.after t).ctxs = t.ctxs := rfl
@[simp] theorem after_hbm (t : State) : (s.after t).hbm = t.hbm := rfl
@[simp] theorem after_buttery (t : State) : (s.after t).buttery = t.buttery := rfl
@[simp] theorem after_hostMem (t : State) : (s.after t).hostMem = t.hostMem := rfl
@[simp] theorem after_mmu (t : State) : (s.after t).mmu = t.mmu := rfl
@[simp] theorem after_vnt (t : State) : (s.after t).vnt = t.vnt := rfl
@[simp] theorem after_tb (t : State) : (s.after t).tb = t.tb := rfl
@[simp] theorem after_fab (t : State) : (s.after t).fab = t.fab := rfl
@[simp] theorem after_dbg (t : State) : (s.after t).dbg = t.dbg := rfl
@[simp] theorem after_prs (t : State) : (s.after t).prs = t.prs := rfl
@[simp] theorem after_rck (t : State) : (s.after t).rck = t.rck := rfl
@[simp] theorem after_life (t : State) : (s.after t).life = t.life := rfl
@[simp] theorem after_col (t : State) : (s.after t).col = t.col := rfl
@[simp] theorem after_host (t : State) : (s.after t).host = t.host := rfl
@[simp] theorem after_res (t : State) : (s.after t).res = t.res := rfl
@[simp] theorem after_tst (t : State) : (s.after t).tst = t.tst := rfl
@[simp] theorem after_pwr (t : State) : (s.after t).pwr = t.pwr := rfl
@[simp] theorem after_sec (t : State) : (s.after t).sec = t.sec := rfl
@[simp] theorem after_out (t : State) : (s.after t).out = t.out := rfl
@[simp] theorem after_free (t : State) : (s.after t).free = t.free := rfl

end Sys2Proof.Machine.State
end

