-- ==== Sys2Proof/Laws/Ops.lean ====
section
/-! SUPPORT. What each shared operation can change, said once: everything it may touch, and that it touches no more. -/

namespace Sys2Proof.Machine.State

variable (s : State)

/-- A register stored is read back, and no other register changes. -/
theorem reg_setReg_ne {o x : Nat} (v : W32) (h : x ≠ o) : (s.setReg o v).reg x = s.reg x := by
  simp only [reg, setReg, mapGet_mapSet_ne _ _ h]

theorem reg_setRegBits_ne {o x lo w v : Nat} (h : x ≠ o) : (s.setRegBits o lo w v).reg x = s.reg x := reg_setReg_ne s _ h
theorem reg_setRegBit_ne {o x lo : Nat} {b : Bool} (h : x ≠ o) : (s.setRegBit o lo b).reg x = s.reg x := reg_setReg_ne s _ h
theorem reg_regCount_ne {o x lo w n : Nat} (h : x ≠ o) : (s.regCount o lo w n).reg x = s.reg x := reg_setReg_ne s _ h

/-- A room that exists is read back after its update; no other room changes. -/
theorem room_modRoom_self {r : Nat} (f : Room → Room) (h : r < s.rooms.length) : (s.modRoom r f).room r = f (s.room r) := by
  simp [room, modRoom, setRoom, List.getD, h]
theorem room_modRoom_ne {r q : Nat} (f : Room → Room) (h : q ≠ r) : (s.modRoom r f).room q = s.room q := by
  simp [room, modRoom, setRoom, List.getD, Ne.symm h]

/-- A trace record touches the debug state, and the count of lost records. -/
theorem trace_only (island unit ty : Nat) (c : Option Nat) (pay : List Byte) :
    ∃ d n, s.trace island unit ty c pay = { s with dbg := d, regs := n }
      ∧ ∀ x, x ≠ rDBG_TRACE_LOST → (s.trace island unit ty c pay).reg x = s.reg x := by
  simp only [trace]
  generalize (!match traceClass ty with
    | none => true
    | some k => s.regBit rDBG_TRACE_SRC k && (k ≠ 11 || s.dbg.unlocked)) = off
  split
  · exact ⟨s.dbg, s.regs, rfl, fun _ _ => rfl⟩
  · split
    · exact ⟨_, _, rfl, fun x hx => reg_regCount_ne _ hx⟩
    · exact ⟨_, _, rfl, fun _ _ => rfl⟩

/-- An instruction that completes touches the debug state, the count of lost records, and the token its word names. -/
theorem finish_only (r pc : Nat) (w : TWord) :
    ∃ d n, s.finish r pc w = { (if w.tke then s.addToken r w.token.toNat else s) with dbg := d, regs := n }
      ∧ ∀ x, x ≠ rDBG_TRACE_LOST → (s.finish r pc w).reg x = s.reg x := by
  obtain ⟨d, n, e, hr⟩ := s.trace_only r 15 tyCOMPLETE ((s.room r).lease.map (·.1))
    (leBytes 8 pc ++ leBytes 1 (if w.tke then w.token.toNat else 0))
  refine ⟨d, n, ?_, fun x hx => ?_⟩
  · simp only [finish, e, tokenOf]; split <;> rfl
  · rw [← hr x hx]; simp only [finish, tokenOf]; split <;> rfl

/-- The state an issued instruction acts on: its room's number and PC, the word it kept for its fetch, the trace and a counter. -/
theorem fetched_only (a : At) :
    ∃ m d n, s.fetched a = { s.modRoom a.room fun x => { x with nextUid := a.uid + 1, seqr := { x.seqr with pc := a.pc + 16 } } with
        mmu := m, dbg := d, regs := n }
      ∧ ∀ x, x ≠ rDBG_TRACE_LOST → (s.fetched a).reg x = s.reg x := by
  obtain ⟨d, n, e, hr⟩ := ((s.farDrop (.fetch a.room)).modRoom a.room fun x =>
    { x with nextUid := a.uid + 1, seqr := { x.seqr with pc := a.pc + 16 } }).trace_only
    a.room 15 tyISSUE (some a.c) (leBytes 8 a.pc ++ [a.op])
  refine ⟨(s.farDrop (.fetch a.room)).mmu, (s.fetched a).dbg, n, ?_, fun x hx => hr x hx⟩
  unfold fetched
  rw [e]; rfl

/-- A hold that begins touches its room's sequencer only. -/
theorem holdFor_only (r pc : Nat) (w : TWord) (h : Hold) :
    s.holdFor r pc w h = s.modRoom r fun x => { x with seqr := { x.seqr with hold := h, owed := some (pc, w) } } := rfl

/-- MSI-X touches the message log and the pending bits. -/
theorem msix_only (pf vec : Nat) : ∃ h o, s.msix pf vec = { s with host := h, out := o } := by
  simp only [msix]
  split <;> split <;> exact ⟨_, _, rfl⟩

/-- Taking a request touches the requests that are whole. -/
theorem takeReq_only {s t : State} {q : Req} (h : s.takeReq q = some t) : ∃ l, t = { s with host := { s.host with ready := l } } := by
  unfold takeReq at h
  split at h <;> split at h <;> simp only [Option.some.injEq, reduceCtorEq] at h
  · exact ⟨_, h.symm⟩
  · exact ⟨_, h.symm⟩
  · exact ⟨_, h.symm⟩

/-- A store in the pantry touches the bytes of its ranges and the free counter. -/
theorem settle_get (r uid : Nat) (rs : List (Nat × Nat)) (m : Mem) (x : Nat)
    (h : ∀ p ∈ rs, ∀ i, i < p.2 → pantOff (p.1 + i) ≠ x) : (s.settle r uid rs m).get x = m.get x := by
  unfold settle
  generalize hl : (rs.flatMap fun (a, n) => ((List.range n).map (a + ·)).filter fun va => s.racy r uid va && s.oldWins uid va) = l
  have hne : ∀ va ∈ l, pantOff va ≠ x := by
    intro va hva
    subst hl
    obtain ⟨p, hp, hva⟩ := List.mem_flatMap.mp hva
    obtain ⟨i, hi, rfl⟩ := List.mem_map.mp (List.mem_of_mem_filter hva)
    exact h p hp i (List.mem_range.mp hi)
  clear hl
  induction l generalizing m with
  | nil => rfl
  | cons va t ih =>
    rw [List.foldl_cons, ih _ fun v hv => hne v (List.mem_cons_of_mem _ hv), Mem.get_set_ne _ _ (Ne.symm (hne va (List.mem_cons_self ..)))]

theorem settle_wf (r uid : Nat) (rs : List (Nat × Nat)) {m : Mem} (h : m.wf = true) : (s.settle r uid rs m).wf = true := by
  unfold settle
  generalize (rs.flatMap fun (a, n) => ((List.range n).map (a + ·)).filter fun va => s.racy r uid va && s.oldWins uid va) = l
  induction l generalizing m with
  | nil => exact h
  | cons va t ih => exact ih (Mem.wf_set h _ _)

theorem pantStore_only (r uid off : Nat) (bs : List Byte) :
    ∃ p : Room → List (Nat × Mem), s.pantStore r uid off bs = { s.modRoom r fun x => { x with
      pantry := s.settle r uid [(ownBase + off, bs.length)] ((s.room r).pantry.write off bs), prior := p x } with free := s.free + 1 } :=
  ⟨_, rfl⟩

/-- An audit entry touches the audit ring. -/
theorem auditPut_only (op path source status counter : Nat) (args : List Byte) :
    ∃ a n, s.auditPut op path source status counter args = { s with sec := { s.sec with audit := a, auditSeq := n } } := ⟨_, _, rfl⟩

/-- An AUTH refusal touches the audit ring, its coalescing, and the count in SEC_STATUS. -/
theorem auditAuth_only (op : Nat) (q : Req) (counter : Nat) (args : List Byte) :
    ∃ a n l, s.auditAuth op q counter args
      = { s.regCount rSEC_STATUS 8 8 1 with sec := { s.sec with audit := a, auditSeq := n, auths := l } } := by
  have hs : (s.regCount rSEC_STATUS 8 8 1).sec = s.sec := rfl
  unfold auditAuth
  generalize s.regCount rSEC_STATUS 8 8 1 = u at hs ⊢
  rw [← hs]
  dsimp only
  split
  · exact ⟨_, u.sec.auditSeq, u.sec.auths, rfl⟩
  · obtain ⟨a, n, e⟩ := u.auditPut_only op (auditPath q).1 (auditPath q).2 cAUTH counter args
    rw [e]; exact ⟨a, n, _, rfl⟩

/-- The time base's two updates touch nothing else. -/
theorem advanceRoot_only (ns : Nat) : ∃ t, s.advanceRoot ns = { s with tb := t } := ⟨_, rfl⟩

/-- A count touches the debug state. -/
theorem bump_only (fam unit idx n : Nat) : ∃ d, s.bump fam unit idx n = { s with dbg := d } := ⟨_, rfl⟩

/-- A change of the debug state alone. -/
theorem foldl_dbg {α : Type} (f : State → α → State) (h : ∀ u a, ∃ d, f u a = { u with dbg := d }) (l : List α) :
    ∃ d, l.foldl f s = { s with dbg := d } := by
  induction l generalizing s with
  | nil => exact ⟨s.dbg, rfl⟩
  | cons a t ih =>
    obtain ⟨d, e⟩ := h s a
    obtain ⟨d', e'⟩ := ih (f s a)
    exact ⟨d', by rw [List.foldl_cons, e', e]⟩

/-- Counting the waits of the press and the racking engine touches the debug state. -/
theorem pressTime_only (ns : Nat) : ∃ d, s.pressTime ns = { s with dbg := d } := by
  have h1 : ∃ d, (if !s.working then s else (List.range 72).foldl (fun t u => match s.pressWait (u / 9) (u % 9) with
      | some k => t.bump fmPRESS u k ns
      | none => t) s) = { s with dbg := d } := by
    split
    · exact ⟨s.dbg, rfl⟩
    · refine foldl_dbg s _ (fun u a => ?_) _
      split
      · exact bump_only u _ _ _ _
      · exact ⟨u.dbg, rfl⟩
  have h2 : ∀ (k : Nat) (b : Bool) (u : State), (∃ d, u = { s with dbg := d }) →
      ∃ d, (if b then u.bump fmRACKING 0 k ns else u) = { s with dbg := d } := by
    rintro k b u ⟨d, rfl⟩
    split
    · obtain ⟨d', e⟩ := bump_only { s with dbg := d } fmRACKING 0 k ns
      exact ⟨d', e⟩
    · exact ⟨d, rfl⟩
  unfold pressTime
  dsimp only
  split
  · exact h1
  · exact h2 _ _ _ (h2 _ _ _ (h2 _ _ _ (h2 _ _ _ h1)))

/-- Time that passes touches the time base and the counters of waits. -/
theorem elapse_only (ns : Nat) : ∃ t d, s.elapse ns = { s with tb := t, dbg := d } := by
  obtain ⟨d, e⟩ := s.pressTime_only ns
  exact ⟨_, d, by rw [elapse, e]; rfl⟩

theorem loadReplicas_only : ∃ t, s.loadReplicas = { s with tb := t } := ⟨_, rfl⟩

/-- The device state is a field of a register. -/
theorem setDevState_only (v : Nat) : ∃ n, s.setDevState v = { s with regs := n } := ⟨_, rfl⟩

end Sys2Proof.Machine.State
end

