-- ==== Sys2Proof/Tests/Slice0.lean ====
section
/-! SUPPORT. The model's own tests: ill-formed commands that the check refuses, words written out from the spec's encoding, the
spec's worked numbers, and for every statement with hypotheses concrete states and operands that meet them. -/

namespace Sys2Proof.Tests
open Sys2Proof Sys2Proof.Machine
set_option Elab.async false

/-! WellFormed refuses an operand outside its range -/

theorem test_wf_room : (Instr.tNop 72 {}).wf = false ∧ (Instr.tNop 71 {}).wf = true := by decide
theorem test_wf_slot : (Instr.launchRangeStart 16 0).wf = false ∧ (Instr.launchRangeStart 0 64).wf = false := by decide
theorem test_wf_trellis : (Instr.tileFirstDigit 0 12).wf = false ∧ (Instr.tileFirstDigit 0 11).wf = true := by decide
theorem test_wf_rooms : (Instr.sliceIn 0 [3, 3]).wf = false ∧ (Instr.sliceIn 0 (List.range 69)).wf = false
    ∧ (Instr.sliceIn 0 [3, 4]).wf = true := by decide +kernel
theorem test_wf_port : (Instr.portDisable 32).wf = false := by decide
theorem test_wf_packet : (Instr.query { op := 256 }).wf = false ∧ (Instr.query { dst := 2 ^ 18 }).wf = false
    ∧ (Instr.query { tag := 2 ^ 16 }).wf = false ∧ (Instr.query { addr := 2 ^ 64 }).wf = false := by decide
theorem test_wf_packet_data : (Instr.write { data := List.replicate 4097 0 }).wf = false := by decide +kernel
theorem test_wf_request : (Instr.state { path := .pf1 16 }).wf = false ∧ (Instr.state { path := .nsp 0 (2 ^ 32) }).wf = false
    ∧ (Instr.state { path := .pf1 0, opcode := 2 ^ 16 }).wf = false
    ∧ (Instr.state { path := .pf1 0, args := [0, 0, 0, 0, 0, 0, 0] }).wf = false
    ∧ (Instr.state { path := .pf1 0, body := [0] }).wf = false ∧ (Instr.state { path := .pf1 0, opcode := 14 }).wf = true := by decide
theorem test_wf_flits : (Instr.nakFlit 0 { aseq := 4096 }).wf = false ∧ (Instr.idleFlit 0 { cfree := [0] }).wf = false
    ∧ (Instr.dataFlit 0 {}).wf = false ∧ (Instr.trainFlit 0 { bufs := [] }).wf = false
    ∧ (Instr.reservedFtypeFlit 0 16 {}).wf = false := by decide
theorem test_wf_hello : (Instr.hello 0 { num := some (2 ^ 18) } 0).wf = false ∧ (Instr.hello 0 {} 0).wf = true := by decide
theorem test_wf_sideband : (Instr.nspDatagram { bytes := List.replicate 23 0 }).wf = false ∧ (Instr.icmpv6Message { kind := 256 }).wf = false
    ∧ (Instr.pldmRequest { ty := 64 }).wf = false ∧ (Instr.i3cEntdaa 128).wf = false ∧ (Instr.mctpSetEndpointId 256).wf = false := by decide
theorem test_wf_pcie : (Instr.bar2Access 0 4 (some [0]) false).wf = false ∧ (Instr.bar2Access 0 4097 none false).wf = false
    ∧ (Instr.pcieConfigRequest 0 6 none).wf = false ∧ (Instr.pcieConfigRequest 2 4 none).wf = false
    ∧ (Instr.msixTableWrite 2 0 false).wf = false ∧ (Instr.flrPf0 [(16, [])]).wf = false := by decide
theorem test_wf_registers : (Instr.registerWrite { iface := 3 } 0 0).wf = false ∧ (Instr.registerWrite {} (2 ^ 26) 0).wf = false
    ∧ (Instr.rowmapWrite {} 0 12 false 0).wf = false := by decide
theorem test_wf_ranges : (Instr.traceRecord 140).wf = false ∧ (Instr.restoreRoom 0 72 0).wf = false ∧ (Instr.pressAdmit 0 8).wf = false ∧ (Instr.barrierRelease 0 0 1025).wf = false
    ∧ (Instr.demuxParse 0 0 64).wf = false ∧ (Instr.dpbReserve 2).wf = false
    ∧ (Instr.collatorWindowClose 0 7).wf = false ∧ (Instr.requestTimerExpiry (2 ^ 16)).wf = false
    ∧ (Instr.stopFlit 32 {}).wf = false ∧ (Instr.dataFlit 0 { bytes := [0] }).wf = false := by decide
theorem test_wf_scrub : (Instr.scrubPass { place := .hbm 0xC000000000 }).wf = false ∧ (Instr.scrubPass { place := .pantry 0 (2 ^ 24) }).wf = false
    ∧ (Instr.scrubPass { place := .buttery (384 * 2 ^ 20) }).wf = false := by decide
theorem test_wf_undefined : (Instr.undefinedOpcode 0 0x01 {}).wf = false ∧ (Instr.undefinedOpcode 0 0x0D {}).wf = true := by decide

/-! Tiruf words, written out from 07 Table 7.1 and the opcodes of Table 7.2: OPCODE [127:120], SEL [119:112], TKE [111],
TOKEN [110:107], MOD [106:96], A, B and C -/

theorem test_word_end : decodeTiruf 3 0x02000000000000000000000000000000 = .tEnd 3 {} := by decide +kernel
theorem test_word_br : decodeTiruf 0 0x03000000FFFFFFFF0000031200000000 = .tBr 0 { a := 0xFFFFFFFF, b := 0x312 } := by decide +kernel
theorem test_word_sets : decodeTiruf 0 0x07000000000000051111222233334444 = .tSets 0 { a := 5, b := 0x11112222, c := 0x33334444 } := by
  decide +kernel
theorem test_word_movb : decodeTiruf 1 0x1100A800000000010000000200000400 = .tMovb 1 { tke := true, token := 5, a := 1, b := 2, c := 0x400 } := by
  decide +kernel
theorem test_word_tmul : decodeTiruf 0 0x20070403000000010000000200000003
    = .tTmul 0 { sel := 7, mod := 0x403, a := 1, b := 2, c := 3 } := by decide +kernel
theorem test_word_tconv_close : decodeTiruf 0 0x27018000000000010000000200000003
    = .tTconvClose 0 { sel := 1, tke := true, a := 1, b := 2, c := 3 } := by decide +kernel
theorem test_word_vfma : decodeTiruf 0 0x33000000000000010000000200000003 = .tVfma 0 { a := 1, b := 2, c := 3 } := by decide +kernel
theorem test_word_cvt : decodeTiruf 0 0x4000F800000000010000000200000000 = .tCvt 0 { tke := true, token := 15, a := 1, b := 2 } := by
  decide +kernel
theorem test_word_draw : decodeTiruf 0 0x51000000000000010000000200000008 = .tDraw 0 { a := 1, b := 2, c := 8 } := by decide +kernel
theorem test_word_coll : decodeTiruf 0 0x60008800000000010000000200000003
    = .tColl 0 { tke := true, token := 1, a := 1, b := 2, c := 3 } := by decide +kernel
theorem test_word_lquery : decodeTiruf 0 0x71000000000000010000000200000040 = .tLquery 0 { a := 1, b := 2, c := 0x40 } := by decide +kernel
theorem test_word_check : decodeTiruf 0 0x80000001000000010000000200000003 = .tCheck 0 { mod := 1, a := 1, b := 2, c := 3 } := by
  decide +kernel
theorem test_word_snap : decodeTiruf 0 0x92000000000001050000004000000000 = .tSnap 0 { a := 0x105, b := 0x40 } := by decide +kernel
theorem test_word_caps : decodeTiruf 0 0xF0000000000000400000000000000000 = .tCaps 0 { a := 0x40 } := by decide +kernel
theorem test_word_undefined : decodeTiruf 0 0x0D000000000000000000000000000000 = .undefinedOpcode 0 0x0D {} := by decide +kernel

/-! A small running launch: room 0 of context 0 runs launch slot 0, its word at 0x1000 of its pantry, its descriptors in the
pantry's descriptor table -/

/-- Pages of 1 GiB at 0x40000000 and 0x80000000 for 0x5F00000000 and 0x40000000 of HBM, in the page table at 0x1000000. -/
def pages : Mem := [(0x1000008, 7#8), (0x100000C, 0x5F#8), (0x1000010, 7#8), (0x1000013, 0x40#8)]
/-- A context of one room whose registry and group table lie behind the second. -/
def ctx0 : Ctx :=
  { d := { ladders := 4, ptroot := 0x1000000, registry := 0x80820000, groups := 0x80830000, stats := 0x80840000, policy := 0x80850000, ledger := 0x5F00000000 }
    rooms := [0], size := 1, slots := List.replicate 64 {} }
/-- A READY module of number 5 with context 0. -/
def base : State :=
  { (State.reset.setDevState stREADY) with
    hbm := pages, ctxs := some ctx0 :: List.replicate 15 none, fab := { State.reset.fab with num := some 5 } }
/-- Bytes from an address as memory lists them. -/
def cells (a : Nat) (bs : List Byte) : Mem := (bs.zipIdx.filter fun x => x.1 ≠ 0#8).map fun x => (a + x.2, x.1)
/-- Room 0 runs, its next word is this one, and its pantry above holds these bytes. -/
def running (op : Byte) (w : TWord) (m : Mem := []) : State :=
  base.modRoom 0 fun x =>
    { x with
      pantry := cells 0x1000 (leBytes 16 (w.encode op).toNat) ++ m, lease := some (0, 0)
      seqr := { x.seqr with launch := some (0, 0), pc := ownBase + 0x1000 } }
/-- Where that word issues from. -/
def at0 (op : Byte) : At := { room := 0, c := 0, sl := 0, li := 0, pc := ownBase + 0x1000, uid := 0, op := op }

/-- Descriptor number n from its nonzero bytes. -/
def dsc (n : Nat) (l : List (Nat × Byte)) : Mem := l.map fun x => (descTab + 128 * n + x.1, x.2)
/-- A tensor at 0x1nn000 of the pantry: d0 elements in one row, its format, and more bytes of its descriptor. -/
def ten (n : Nat) (d0 fmt : Byte) (more : List (Nat × Byte) := []) : Mem :=
  dsc n ([(1, BitVec.ofNat 8 (16 * n)), (2, 0x10#8), (3, 0xFF#8), (4, 0xFF#8), (5, 0xFF#8), (0x40, d0), (0x44, 1#8), (0x48, 1#8), (0x4C, 1#8),
    (0x6E, 0x80#8), (0x6F, 0x3F#8), (0x70, fmt)] ++ more)
/-- Block and tile scales at 0x20n000 and 0x30n000, blocks of 32. -/
def scales (n : Nat) : List (Nat × Byte) :=
  [(9, BitVec.ofNat 8 (16 * n)), (10, 0x20#8), (11, 0xFF#8), (12, 0xFF#8), (13, 0xFF#8),
   (0x11, BitVec.ofNat 8 (16 * n)), (0x12, 0x30#8), (0x13, 0xFF#8), (0x14, 0xFF#8), (0x15, 0xFF#8), (0x71, 1#8)]

theorem okOf {ε α : Type} {x : Except ε α} {v : α} (h : x.toOption = some v) : x = .ok v := by
  cases x with
  | ok y => simp [Except.toOption] at h; simp [h]
  | error e => simp [Except.toOption] at h

/-- The next state of a command. -/
def after (c : Instr) (s : State) : State := match exec c s with
  | .next t => t
  | _ => State.reset

/-! Witnesses of the statements on Tiruf instructions -/

/-- The word issues from that state, whose behaviour is specified. -/
abbrev Issues (s : State) (op : Byte) (w : TWord) : Prop :=
  s.specified [bRoom 0, bDBG, bRNG, bCOL, bRCK, bVNTW, bVNTE] ∧ s.issueAt 0 op w = some (at0 op) ∧ okTok w = true

/-- FP32 and G16 tensors of 16 elements, one FP32 element, 32 N8 elements with their scales. -/
def fp (n : Nat) : Mem := ten n 16 0x13
def fp1 (n : Nat) : Mem := ten n 1 0x13
def g16 (n : Nat) : Mem := ten n 16 0x12
def n8 (n : Nat) : Mem := ten n 32 0x04 (scales n)
/-- The step ledger's header of context 0 in this phase: SEQ, PHASE and CHECK. -/
def header (ph : Nat) : Mem :=
  (0x5F00000000, 1#8) :: (if ph = 0 then [] else [(0x5F00000018, BitVec.ofNat 8 ph)]) ++
    cells 0x5F00000024 (if ph = 0 then [0x0A#8, 0x16#8, 0xF1#8, 0x33#8] else if ph = 1 then [0x36#8, 0xCD#8, 0xAD#8, 0x90#8]
      else [0xA1#8, 0xC2#8, 0xD1#8, 0x61#8])
def inPhase (s : State) (ph : Nat) : State := { s with hbm := header ph ++ s.hbm }

/-- Room 0 holds. -/
def held (h : Hold) : State := (running 1 {}).modRoom 0 fun x => { x with seqr := { x.seqr with hold := h } }

/-- Witnesses of ControlInstructionsComplete: each word issues with its unused fields 0; B of BR at 2047 less COND 7's codes, WAIT
at S 15, FENCE at class 2; a WAIT whose token is there and one whose is not; the holds that end. -/
theorem witness_control :
    Issues (running 1 {}) 1 {} ∧ Issues (running 2 {}) 2 {} ∧ Issues (running 3 { b := 0x6FF }) 3 { b := 0x6FF }
    ∧ (0x6FF : W32).toNat / 256 % 8 ≠ 7 ∧ Issues (running 4 { a := 15, b := 1 }) 4 { a := 15, b := 1 }
    ∧ okS 15 = true ∧ Issues (running 5 { a := 2 }) 5 { a := 2 } ∧ Issues (running 6 {}) 6 {} := by decide +kernel
theorem witness_barrier_group : ((running 6 {}).fetched (at0 6)).latchGroup 0 0 0 true = .ok none := okOf (by decide +kernel)
theorem witness_releases :
    (held (.wait 3 0)).working = true ∧ ((held (.wait 3 0)).room 0).seqr.hold = .wait 3 0
    ∧ waitDone (((held (.wait 3 0)).room 0).tok.getD 3 0) 0 = true
    ∧ ((held (.fence 1)).room 0).seqr.hold = .fence 1 ∧ ((held (.fence 1)).room 0).infl = [] := by decide +kernel

/-- Witnesses of ScalarInstructionsComplete, at the last scalar and the last offsets that DPUT and CAPS allow. -/
theorem witness_scalar :
    Issues (running 7 { a := 15 }) 7 { a := 15 } ∧ Issues (running 8 { a := 15, b := 15 }) 8 { a := 15, b := 15 }
    ∧ Issues (running 9 { a := 15, b := 0xFFFFF8 }) 9 { a := 15, b := 0xFFFFF8 } ∧ okS 15 = true ∧ okP 0xFFFFF8 8 8 = true
    ∧ Issues (running 10 { b := 0xFFFFF8 }) 10 { b := 0xFFFFF8 }
    ∧ Issues (running 11 { a := 4095, b := 0x78, c := 15 }) 11 { a := 4095, b := 0x78, c := 15 } ∧ okD 4095 = true
    ∧ Issues (running 12 { a := 15, b := 15 }) 12 { a := 15, b := 15 }
    ∧ Issues (running 0xF0 { a := 0xFFFFC0 }) 0xF0 { a := 0xFFFFC0 } ∧ okP 0xFFFFC0 8 64 = true
    ∧ Issues (running 0x0D {}) 0x0D {} ∧ definedOp 0x0D = false := by decide +kernel

/-- Witness of BarrierReleasesTheRange: the one room of the launch's range is at the barrier. -/
def atBarrier : State :=
  (held (.barrier 0 none 0 0)).modCtx 0 fun x => { x with slots := x.slots.set 0 { launch := some {
    lr := { entry := 0, dtab := 0, dtabCount := 0, first := 0, count := 1, flags := 0, tag := 0, args := [] }, seq := 1, running := true } } }
theorem witness_barrier : atBarrier.specified [bCOL] ∧ atBarrier.working = true
    ∧ atBarrier.allRooms 0 0 (State.atBarrier 0 0 0) = true := by decide +kernel

def w3 : TWord := { a := 1, b := 2, c := 3 }

theorem witness_movers :
    Issues (running 0x10 { a := 1, b := 2 } (fp 1 ++ fp 2)) 0x10 { a := 1, b := 2 }
    ∧ firstFault (movChecks ((running 0x10 { a := 1, b := 2 } (fp 1 ++ fp 2)).fetched (at0 0x10)) (at0 0x10) { a := 1, b := 2 }) = none
    ∧ Issues (running 0x11 { a := 1, b := 2, c := 1 } (fp 1 ++ fp 2)) 0x11 { a := 1, b := 2, c := 1 }
    ∧ firstFault (movbChecks ((running 0x11 { a := 1, b := 2, c := 1 } (fp 1 ++ fp 2)).fetched (at0 0x11)) (at0 0x11)
        { a := 1, b := 2, c := 1 }) = none
    ∧ Issues (running 0x28 w3 (g16 1 ++ g16 2 ++ fp1 3)) 0x28 w3
    ∧ firstFault (spmvChecks ((running 0x28 w3 (g16 1 ++ g16 2 ++ fp1 3)).fetched (at0 0x28))
        (at0 0x28) w3) = none := by decide +kernel

def wMul : TWord := { sel := 1, mod := 0x10, a := 1, b := 2, c := 3 }
def wConv : TWord := { sel := 0x8, mod := 0xF1, a := 1, b := 2, c := 3 }
def mulTab : Mem := g16 1 ++ g16 2 ++ fp1 3

/-- Witnesses of ProductsQueueTheirTiles: a TMUL of one trellis and one slot, and a TCONV.CLOSE of stride 1. -/
theorem witness_products :
    Issues (running 0x20 wMul mulTab) 0x20 wMul
    ∧ firstFault (tenAll ((running 0x20 wMul mulTab).fetched (at0 0x20)) (at0 0x20) 0x20 wMul) = none
    ∧ Issues (running 0x27 wConv mulTab) 0x27 wConv
    ∧ firstFault (tenAll ((running 0x27 wConv mulTab).fetched (at0 0x27)) (at0 0x27) 0x27 wConv) = none := by decide +kernel
theorem witness_products_place : ∃ u, ((((running 0x20 wMul mulTab).fetched (at0 0x20)).hdirPlace 0
    (((running 0x20 wMul mulTab).fetched (at0 0x20)).latch (at0 0x20) 1)).bind fun v => v.hdirPlace 0
    (((running 0x20 wMul mulTab).fetched (at0 0x20)).latch (at0 0x20) 3)) = some u :=
  Option.isSome_iff_exists.1 (by decide +kernel)

def wVec : TWord := { sel := 0x13, a := 1, b := 2, c := 3 }
def wVec1 : TWord := { sel := 0x13, a := 1, c := 3 }
abbrev VecOk (op : Byte) (w : TWord) (m : Mem) : Prop :=
  Issues (running op w m) op w ∧ firstFault (vecChecks op ((running op w m).fetched (at0 op)) (at0 op) w) = none
/-- Witnesses of HearthInstructionsWriteResults, one of each form: two tensors, three, one, a row's sum, scaling. -/
theorem witness_hearth :
    VecOk 0x30 wVec (fp 1 ++ fp 2 ++ fp 3) ∧ VecOk 0x33 wVec (fp 1 ++ fp 2 ++ fp 3) ∧ VecOk 0x36 wVec1 (fp 1 ++ fp 3)
    ∧ VecOk 0x3A wVec1 (fp 1 ++ fp1 3) ∧ VecOk 0x3B wVec1 (fp 1 ++ fp1 3)
    ∧ VecOk 0x3D { wVec with b := 15 } (fp 1 ++ fp 3) := by decide +kernel

def wCvt : TWord := { sel := 4, a := 1, b := 2 }
def cvtTab : Mem := ten 1 32 0x13 ++ n8 2
def wHr : TWord := { a := 1 }
def hrTab : Mem := ten 1 16 0x13 [(0x2A, 1#8), (0x2C, 0xFE#8), (0x2D, 0xFF#8), (0x68, 1#8), (0x78, 1#8)]
/-- Witnesses of UpdateAndLandingInstructionsComplete. -/
theorem witness_landing :
    Issues (running 0x40 wCvt cvtTab) 0x40 wCvt
    ∧ firstFault (cvtChecks ((running 0x40 wCvt cvtTab).fetched (at0 0x40)) (at0 0x40) wCvt) = none
    ∧ Issues (running 0x41 wHr hrTab) 0x41 wHr
    ∧ firstFault (hrclrChecks ((running 0x41 wHr hrTab).fetched (at0 0x41)) (at0 0x41) wHr) = none
    ∧ Issues (running 0x42 { a := 0x7FFF, b := 0xFFFFC4 }) 0x42 { a := 0x7FFF, b := 0xFFFFC4 }
    ∧ flgrcOk { a := 0x7FFF, b := 0xFFFFC4 } = true := by decide +kernel
theorem witness_landing_place :
    (∃ u, ((running 0x40 wCvt cvtTab).fetched (at0 0x40)).hdirPlace 0
      (((running 0x40 wCvt cvtTab).fetched (at0 0x40)).latch (at0 0x40) 2) = some u)
    ∧ ∃ u, ((running 0x41 wHr hrTab).fetched (at0 0x41)).hdirPlace 0
      (((running 0x41 wHr hrTab).fetched (at0 0x41)).latch (at0 0x41) 1) = some u :=
  ⟨Option.isSome_iff_exists.1 (by decide +kernel), Option.isSome_iff_exists.1 (by decide +kernel)⟩

def wAdam : TWord := { sel := 0x13, a := 1, b := 2, c := 0x40 }
def adamTab : Mem :=
  ten 1 32 0x12 ++ ten 2 32 0x12 [(0x72, 4#8)] ++ ten 3 32 0x22 ++ ten 4 32 0x20 (scales 4) ++ ten 5 32 0x21
def adam : State := inPhase (running 0x3F wAdam adamTab) phCOMMITTING
theorem witness_adam : Issues adam 0x3F wAdam := by decide +kernel
theorem witness_adam_checks : firstFault (adamChecks 0 (adam.fetched (at0 0x3F)) (at0 0x3F) wAdam) = none := by decide +kernel

/-- Registry entry 0 live with identifier 1 and one reference; group 1 with this module alone, by room 0. -/
def entry0 : Mem := [(0x40820000, 1#8), (0x40820004, 1#8), (0x40820006, 1#8)]
def group1 : Mem :=
  [(0x40830001, 0x10#8), (0x40830002, 0x83#8), (0x40830003, 0x80#8), (0x40830008, 1#8), (0x40830012, 1#8), (0x40831000, 5#8)]
def streamed (op : Byte) (w : TWord) (m : Mem := []) : State := { running op w m with hbm := pages ++ entry0 }
def bytes (n : Nat) : Mem := ten n 16 0x30
def wDraw : TWord := { a := 15, b := 1, c := 1 }
def e0 : RegEntry :=
  { id := 1, live := true, opened := false, closed := false, refs := 1, counter := 0, start := 0, gen := 0, startRefs := 0 }

/-- Witnesses of StreamInstructionsComplete: a handle of entry 0, and a SOPEN that joins the open stream. -/
theorem witness_streams :
    Issues (streamed 0x51 wDraw (bytes 1)) 0x51 wDraw
    ∧ ((streamed 0x51 wDraw (bytes 1)).fetched (at0 0x51)).handle 0
        (((streamed 0x51 wDraw (bytes 1)).fetched (at0 0x51)).sreg 0 15) = some (0, e0)
    ∧ firstFault (drawChecks (((streamed 0x51 wDraw (bytes 1)).fetched (at0 0x51)).latch (at0 0x51) 1) 1) = none
    ∧ Issues (streamed 0x52 { a := 15, b := 15 }) 0x52 { a := 15, b := 15 }
    ∧ Issues (streamed 0x53 { a := 15 }) 0x53 { a := 15 } ∧ Issues (streamed 0x54 { a := 15, b := 15 }) 0x54 { a := 15, b := 15 }
    ∧ Issues (streamed 0x50 { mod := 1, a := 1 }) 0x50 { mod := 1, a := 1 } := by decide +kernel
theorem witness_sopen : ((streamed 0x50 { mod := 1, a := 1 }).fetched (at0 0x50)).openEntry 0 1
    (((streamed 0x50 { mod := 1, a := 1 }).fetched (at0 0x50)).sreg 0 0).toNat true = .ok (0, { e0 with refs := 2 }) :=
  okOf (by decide +kernel)

def wColl : TWord := { sel := 0x13, mod := 0x100, a := 1, b := 1, c := 2 }
def coll : State := { running 0x60 wColl (fp 1 ++ fp 2) with hbm := pages ++ group1 }
def grp : Group := { idx := 0, count := 1, rank := 0, shape := 0, fanout := 0, root := 0, house := false, members := [(5, 0)], perm := [] }
theorem witness_group : (coll.fetched (at0 0x60)).latchGroup 0 0 1 true = .ok (some grp) := okOf (by decide +kernel)
theorem witness_barrier_table : (({ running 6 { a := 1 } with hbm := pages ++ group1 } : State).fetched (at0 6)).latchGroup 0 0 1 true
    = .ok (some grp) := okOf (by decide +kernel)
theorem witness_coll : Issues coll 0x60 wColl ∧ collOperandsOk wColl = true ∧ okD 1 = true ∧ okD 2 = true := by decide +kernel
theorem witness_coll_checks : firstFault (collChecks (coll.fetched (at0 0x60)) (at0 0x60) wColl grp) = none := by decide +kernel

/-- A rack job whose trainer is this module, and the open sample record of step 0. -/
def job : RackJob :=
  { key := 0, n := 1, micro := 1, fanout := 1, policy := 0, lookahead := 1, deadline := 0, recv := 0, slotBytes := 16, trainers := [5],
    producers := [5], cursor := 0 }
def wRack : TWord := { a := 15, b := 1, c := 1 }
def rack : State :=
  { running 0x61 wRack (bytes 1) with rck := { State.reset.rck with jobs := [(0, job)] }, hbm := pages ++ [(0x5F00050010, 1#8)] }
theorem witness_rack : Issues rack 0x61 wRack ∧ (rack.fetched (at0 0x61)).reshardOn 0 = false
    ∧ (rack.fetched (at0 0x61)).rackJob 0 = some job ∧ (rack.fetched (at0 0x61)).openSample 0 = some 0x5F00050000
    ∧ firstFault (rackChecks (rack.fetched (at0 0x61)) (at0 0x61) wRack job 0x5F00050000) = none := by decide +kernel

/-- A plan of one round that frees one page, a journal in the ledger region behind a 1 GiB page. -/
def planAt3 : Mem := [(0x103000, 1#8), (0x103004, 1#8), (0x103051, 0x10#8), (0x103054, 2#8)]
def wResh : TWord := { a := 1, b := 1, c := 3 }
def resh : State :=
  { running 0x62 wResh (planAt3 ++ dsc 1 [(2, 0x40#8), (3, 0x40#8), (0x42, 4#8), (0x44, 1#8), (0x48, 1#8), (0x4C, 1#8), (0x70, 0x30#8)]
      ++ ten 3 96 0x30) with hbm := pages ++ group1 }
def planBytes : List Byte := ((running 0x62 wResh planAt3).room 0).pantry.read 0x103000 96
theorem witness_resh : Issues resh 0x62 wResh ∧ ((resh.fetched (at0 0x62)).latch (at0 0x62) 1).check = none
    ∧ ((resh.fetched (at0 0x62)).latch (at0 0x62) 3).check = none := by decide +kernel
theorem witness_resh_group : (resh.fetched (at0 0x62)).latchGroup 0 0 1 true = .ok (some grp)
    ∧ reshPa (resh.fetched (at0 0x62)) 0 (at0 0x62) wResh = some 0x5F00400000 := ⟨okOf (by decide +kernel), by decide +kernel⟩
theorem witness_resh_plan : (match reshPlan (resh.fetched (at0 0x62)) 0 (at0 0x62) ((resh.fetched (at0 0x62)).latch (at0 0x62) 3).base with
    | .ok (some plan, u) => plan = planBytes && firstFault (reshChecks u (at0 0x62) wResh grp 0x5F00400000 plan) = none
    | _ => false) = true := by decide +kernel

/-- Witnesses of LadderInstructionsComplete, at the last entry of the range and 16 bytes of the pantry. -/
theorem witness_ladders :
    Issues (running 0x70 {}) 0x70 {} ∧ ((running 0x70 {}).fetched (at0 0x70)).joinGroup (at0 0x70) 0 = none
    ∧ Issues (running 0x71 { b := 4, c := 0xFFFFC0 }) 0x71 { b := 4, c := 0xFFFFC0 }
    ∧ 0 + 4 ≤ ((running 0x71 { b := 4, c := 0xFFFFC0 }).fetched (at0 0x71)).ladSize 0 ∧ okP 0xFFFFC0 16 (16 * 4) = true
    ∧ Issues (running 0x72 { a := 3, b := 0x40 }) 0x72 { a := 3, b := 0x40 }
    ∧ badLadder (BitVec.ofNat 128 (((running 0x72 { a := 3, b := 0x40 }).fetched (at0 0x72)).pantLe 0 0 0x40 16)) = false
    ∧ Issues (running 0x73 { a := 15, b := 15 }) 0x73 { a := 15, b := 15 } := by decide +kernel

/-- Witnesses of StepInstructionsHoldTheRoom: CHECK and ABORT in OPEN, COMMIT in CHECKED, ADVANCE in COMMITTING. -/
theorem witness_step :
    Issues (running 0x80 {} (ten 0 1 0x13)) 0x80 {} ∧ stpOperandsOk kCHECK {} = true
    ∧ ((running 0x80 {} (ten 0 1 0x13)).fetched (at0 0x80)).joinGroup (at0 0x80) 0 = none
    ∧ ((running 0x80 {} (ten 0 1 0x13)).fetched (at0 0x80)).badPhase 0 kCHECK 0 = false
    ∧ ((running 0x80 {} (ten 0 1 0x13)).fetched (at0 0x80)).badLoss 0 0 = false
    ∧ Issues (running 0x83 { mod := 1 }) 0x83 { mod := 1 } ∧ stpOperandsOk kABORT { mod := 1 } = true
    ∧ ((running 0x83 { mod := 1 }).fetched (at0 0x83)).badPhase 0 kABORT 0 = false := by decide +kernel
theorem witness_commit : Issues (inPhase (running 0x81 {}) phCHECKED) 0x81 {}
    ∧ ((inPhase (running 0x81 {}) phCHECKED).fetched (at0 0x81)).badPhase 0 kCOMMIT 0 = false := by decide +kernel
theorem witness_advance : Issues (inPhase (running 0x82 {}) phCOMMITTING) 0x82 {}
    ∧ ((inPhase (running 0x82 {}) phCOMMITTING).fetched (at0 0x82)).badPhase 0 kADVANCE 0 = false := by decide +kernel

/-- Witnesses of DebugInstructionsComplete: TRIG of both bits and SNAP of the last sort, each for all units. -/
theorem witness_debug :
    Issues (running 0x90 { a := 3 }) 0x90 { a := 3 } ∧ Issues (running 0x91 { a := 7 }) 0x91 { a := 7 }
    ∧ Issues (running 0x92 { a := 0x105 }) 0x92 { a := 0x105 }
    ∧ okP 0 8 (snapBytes ((running 0x92 { a := 0x105 }).fetched (at0 0x92)) 0 5 true).length = true := by decide +kernel

/-- A tile of a TMUL in flight in room 0, of one held row and one vector of 16 G16 elements. -/
def tile : TileJob := { uid := 7, ord := 0, rb := 0, vg := 0, slot := 0, mode := 0, segs := 1, loaded := 1 }
def tDesc (n : Nat) : Desc := Desc.parse (fun o => (g16 n).nat o) (descTab + 128 * n)
def tInfl : Infl := { Infl.mk0 with uid := 7, op := 0x20, descs := [tDesc 1, tDesc 2, tDesc 3], tilesLeft := 1 }
def trell (f : Trellis → Trellis) : State :=
  (base.modRoom 0 fun x => { x with infl := [tInfl] }).modTrellis 0 11 f

/-- Witnesses of TrellisEventsAct, on the last trellis of room 0. -/
theorem witness_trellis :
    let a := trell fun y => { y with flying := [{ tile with loaded := 0 }] }
    let b := trell fun y => { y with queue := [{ tile with loaded := 0, sbReady := false }] }
    a.specified [bRoom 0] ∧ a.working = true
    ∧ (a.trellis 0 11).nextLoad = some { tile with loaded := 0 } ∧ a.findInfl 0 7 = some tInfl
    ∧ (b.trellis 0 11).queue = [{ tile with loaded := 0, sbReady := false }] ∧ b.findInfl 0 7 = some tInfl := by decide +kernel
/-- One that needs a start token, with one left, and one that needs none. -/
theorem witness_first_digit :
    let s := trell fun y => { y with queue := [tile] }
    let i : State := { s with tb := { s.tb with root := 1001 }, pwr := { s.pwr with tokens := [(10, 7), (0, 0)] } }
    (s.trellis 0 11).queue = [tile] ∧ s.findInfl 0 7 = some tInfl ∧ headReady (s.room 0) (s.trellis 0 11) tile = true
    ∧ s.needsToken (s.trellis 0 11) = false ∧ i.needsToken (i.trellis 0 11) = true ∧ i.tokensLeft 0 = 1 ∧ i.admitsTile 0 11 = true
    ∧ s.admitsTile 0 11 = true ∧ badStart (prodOf s 0 7 tInfl) tInfl tile {} = false := by decide +kernel
theorem witness_slot_starts : slotStart tInfl tile {} = .starts := by rfl
theorem witness_tile_ends :
    let s := trell fun y => { y with flying := [tile], drains := [tile] }
    let p := trell fun y => { y with port := some (tile, {}) }
    (s.trellis 0 11).flying = [tile] ∧ s.findInfl 0 7 = some tInfl ∧ tile.segs ≤ tile.loaded
    ∧ ((s.freeShadow 0 11).trellis 0 11).flying.length = 1 ∧ (s.trellis 0 11).drains = [tile]
    ∧ (s.trellis 0 11).port = none ∧ (p.trellis 0 11).port = some (tile, {}) ∧ p.findInfl 0 7 = some tInfl := by decide +kernel

/-- A tasted tile of one output, whose narrow output is 0; and operands whose wide output is not. -/
def tasted (mode layer : Nat) (landed : Bool) (m : Mem := []) : TasteJob :=
  let p := prodOf ((trell id).modRoom 0 fun x => { x with pantry := m }) 0 7 tInfl
  let q := tasteJob p tInfl { tile with mode := mode } 11 {}
  { q with
    y := q.outs.map fun x => (x.1, x.2.1, .fin false 0), dest := { Desc.parse (fun o => (fp1 3).nat o) (descTab + 128 * 3) with layer := layer }, landed := landed }
def tasting (q : TasteJob) : State := base.modRoom 0 fun x => { x with lease := some (0, 0), taste := [q] }
def dis (q : TasteJob) : Fv := tasteDisagree (tastePairs q.y q.outs)
def some2 : Mem := [(0x101001, 0x3F#8), (0x102001, 0x3F#8)]
/-- The state in which the limit is read: the tile is out of the queue and counted. -/
def counted (s : State) (q : TasteJob) : State :=
  let v := ((((s.chargeMw (s.tileEst true)).modRoom 0 fun x => { x with taste := [] }).bump fmLANDING 0 2 1).addCounts 0 q.dest
    [(0x50, 1), (0x78, disUnits (dis q))])
  let a := v.statRec 0 q.dest.layer q.dest.ladder + 0x80
  if v.ctxLe 0 a 4 < disUnits (dis q) then v.ctxSetLe 0 a 4 (disUnits (dis q)) else v
def tasteLimit (s : State) (q : TasteJob) : Nat :=
  (counted s q).ctxLe 0 (((s.ctx 0).map (·.d.policy)).getD 0 + 0x38) 4
/-- Witnesses of RoomEngineEventsAct: tasted tiles. -/
theorem witness_tasting :
    let a := tasted 1 0 false
    let b := tasted 0 4 true
    let c := tasted 0 0 true
    let d := tasted 0 0 true some2
    (tasting a).specified [bRoom 0] ∧ (tasting a).working = true ∧ ((tasting a).room 0).taste = [a] ∧ (tasting a).admitsTaste 0 = true
    ∧ (tasting b).ladSize 0 ≤ b.dest.layer ∧ (tasting b).admitsTaste 0 = true ∧ c.dest.layer < (tasting c).ladSize 0
    ∧ (tasting c).admitsTaste 0 = true ∧ disAbove (dis c) (tasteLimit (tasting c) c) = false
    ∧ (tasting d).admitsTaste 0 = true
    ∧ disAbove (dis d) (tasteLimit (tasting d) d) = true := by decide +kernel

def inflOf (s : State) : Infl := (s.room 0).infl.headD Infl.mk0
def mvOf (s : State) : Mover := (inflOf s).mv.getD { unit := 0 }
theorem okEx {ε α : Type} {x : Except ε α} (h : x.toOption.isSome = true) : ∃ v, x = .ok v := by
  cases x with
  | ok y => exact ⟨y, rfl⟩
  | error e => cases h
/-- A MOV and an SPMV in flight, a MOV whose destination is module 6, and one that is paused with a record that agrees. -/
def wMov : TWord := { a := 1, b := 2 }
def moving : State := after (.tMov 0 wMov) (running 0x10 wMov (fp 1 ++ fp 2))
def spouting : State := after (.tSpmv 0 w3) (running 0x28 w3 (g16 1 ++ g16 2 ++ fp1 3))
def remote : State := moving.modInfl 0 (inflOf moving).uid fun i =>
  { i with
    descs := [i.descs.getD 0 (tDesc 1), { i.descs.getD 1 (tDesc 2) with attr := 128 }]
    mv := i.mv.map fun m => { m with units := [[(ownBase + 0x101000, 6 * 2 ^ 44, 64)]] } }
def word0 : List Byte := leBytes 16 (wMov.encode 0x10).toNat
def paused : State := moving.modInfl 0 (inflOf moving).uid fun i => { i with mv := i.mv.map fun m => { m with
  paused := true
  record := List.replicate 0x1C 0#8 ++ leBytes 4 (moverTotal i m) ++ List.replicate 8 0#8 ++ leBytes 4 (sha32 (word0 ++ m.raw)) ++ List.replicate 20 0#8 } }
/-- Witnesses of RoomEngineEventsAct: a mover's units here and elsewhere, and its resumption; an instruction whose effects are made. -/
theorem witness_mover_unit :
    let s := moving
    s.specified [bRoom 0] ∧ s.working = true ∧ s.findInfl 0 (inflOf s).uid = some (inflOf s) ∧ (inflOf s).mv = some (mvOf s)
    ∧ (s.room 0).lease = some (0, 0) ∧ State.moverGoes (mvOf s) = true ∧ (mvOf s).unit ≠ 2 ∧ (mvOf s).sent = false
    ∧ State.moverGoes (mvOf spouting) = true ∧ (mvOf spouting).unit = 2
    ∧ State.moverGoes { mvOf s with sent := true } = true := by decide +kernel
theorem witness_mover_data :
    (match moving.unitData 0 (inflOf moving).uid 0 (inflOf moving) (mvOf moving), moving.unitPlaces 0 0 (inflOf moving) (mvOf moving) with
    | .ok ds, .ok offs => (State.unitFar offs (ds.flatMap (·.2))).isEmpty
    | _, _ => false) = true
    ∧ (match remote.unitData 0 (inflOf remote).uid 0 (inflOf remote) (mvOf remote), remote.unitPlaces 0 0 (inflOf remote) (mvOf remote) with
    | .ok ds, .ok offs => !(State.unitFar offs (ds.flatMap (·.2))).isEmpty
    | _, _ => false) = true
    ∧ (spouting.unitData 0 (inflOf spouting).uid 0 (inflOf spouting) (mvOf spouting)).toOption.isSome = true := by decide +kernel
theorem witness_resume :
    (mvOf paused).paused = true ∧ (mvOf paused).wait = none ∧ (paused.room 0).seqr.stopped = false
    ∧ (match paused.farRead (.resume 0 (inflOf paused).uid) 0 (some 0) (inflOf paused).pc 16 .fetch with
      | .ok (some bs, _) => moverAgrees (inflOf paused) (mvOf paused) bs
      | _ => false) = true
    ∧ (inflOf paused).col = none ∧ paused.instResh 0 (inflOf paused).uid = none := by decide +kernel
theorem witness_instruction_complete :
    let s := tasting (tasted 1 0 false) |>.modRoom 0 fun x => { x with infl := [{ tInfl with ready := true }] }
    s.working = true ∧ s.findInfl 0 7 = some { tInfl with ready := true } ∧ (s.room 0).lease = some (0, 0) := by decide +kernel

/-- A RACK in flight of a slot that was dropped, and of one still empty past its deadline. -/
def racking (j : RackJob) : State :=
  let s : State := { rack with rck := { rack.rck with jobs := [(0, j)] }, tb := { rack.tb with root := 1 } }
  let t := after (.tRack 0 wRack) s
  { t with tb := { t.tb with root := 1001 } }
def rackOf (s : State) : RackOp := (inflOf s).rack.getD { first := 0, count := 0 }
/-- Witnesses of RoomEngineEventsAct: RACK's slots. -/
theorem witness_rack_copy :
    let j : RackJob := { job with arr := [{ g := 0, st := 2 }] }
    let s := racking j
    let k := rackOf s
    s.specified [bRoom 0, bRCK] ∧ s.findInfl 0 (inflOf s).uid = some (inflOf s) ∧ (s.room 0).lease = some (0, 0) ∧ s.rackJob 0 = some j
    ∧ (inflOf s).rack = some k ∧ (inflOf s).mv = some (mvOf s) ∧ (inflOf s).descs ≠ [] ∧ (mvOf s).paused = false ∧ (mvOf s).wait = none
    ∧ (mvOf s).asked = []
    ∧ ((((List.range k.count).map (k.first + ·)).filter fun m => !k.copied.contains m).findSome? fun m =>
      (State.rackWord j k (s.rackPos j m) m).map fun st => (m, st)) = some (0, 1) := by decide +kernel
theorem witness_rack_deadline :
    let s (p : Nat) := racking { job with deadline := 1, policy := p }
    let k := rackOf (s 0)
    (s 0).rackJob 0 = some { job with deadline := 1 } ∧ (s 1).rackJob 0 = some { job with deadline := 1, policy := 1 }
    ∧ (s 2).rackJob 0 = some { job with deadline := 1, policy := 2 } ∧ k.t + 1000 * 1 ≤ (s 0).now ∧ k = rackOf (s 1) ∧ k = rackOf (s 2)
    ∧ ((((List.range k.count).map (k.first + ·)).filter fun m => !k.copied.contains m).filter fun m =>
      (State.rackWord { job with deadline := 1 } k ((s 0).rackPos job m) m).isNone) = [0] := by decide +kernel

/-- A launch of context 0's one room in slot 0, held as given. -/
def joined (h : Hold) : State :=
  (held h).modCtx 0 fun x => { x with slots := x.slots.set 0 { launch := some {
    lr := { entry := 0, dtab := 0, dtabCount := 0, first := 0, count := 1, flags := 0, tag := 0, args := [] }, seq := 1, running := true } } }
/-- Witnesses of StepEventsAct: every room has arrived at each of the five joins; members at this step, and one at another. -/
theorem witness_joins :
    (joined (.publish 0)).working = true ∧ (joined (.publish 0)).specified [bCOL, bRCK, bRNG, bVNTW, bVNTE]
    ∧ (joined (.publish 0)).arrived 0 0 Hold.isPublish = true
    ∧ (joined (.stp kCOMMIT 0 0 0 false)).stpArrived 0 0 kCOMMIT = true ∧ (joined (.stp kCOMMIT 0 0 0 false)).commitHeld 0 = false
    ∧ (joined (.stp kADVANCE 0 0 0 false)).stpArrived 0 0 kADVANCE = true ∧ (joined (.stp kADVANCE 0 0 0 false)).evaluating 0 = false
    ∧ (joined (.stp kABORT 0 0 0 true)).stpArrived 0 0 kABORT = true ∧ (joined (.stp kABORT 0 0 0 true)).evaluating 0 = false
    ∧ ((joined .swapAck).room 0).seqr.hold = .swapAck ∧ (joined .swapAck).specified (vntBlocks 0)
    ∧ (joined (.stp kCOMMIT 0 0 0 false)).sameStep 0 [0, 0] = true ∧ (joined (.stp kCOMMIT 0 0 0 false)).sameStep 0 [0, 1] = false := by
  decide +kernel
theorem witness_check_join : (joined (.stp kCHECK 0 0 0 false)).stpArrived 0 0 kCHECK = true
    ∧ (joined (.stp kCHECK 0 0 0 false)).checkReady 0 = true := by decide +kernel

/-- A boundary after a publish: both wings hold the same pending entries, or the east wing's first differs. -/
def bounded (e : List (Nat × BitVec 128)) (fw : Bool) : State :=
  let s := base.modVnt 0 fun x => { x with published := true, firmware := fw, policy := List.replicate 64 0#8 }
  { s with vnt := [{}, { pend := e }] }
def wingOut (s : State) (w : Nat) : EvalOut := evalWing (s.vntOf 0).policy (s.vntOf 0).reduced (s.rangeEnts 0 (s.wing w).pend)
/-- Witnesses of StepEventsAct: wings that agree and wings that do not, and the firmware's turn. -/
theorem witness_evaluations :
    let a := bounded [] false
    let d := bounded [(0, 0x01)] false
    a.specified [bVNTW, bVNTE] ∧ a.working = true ∧ (a.vntOf 0).published = true ∧ (a.vntOf 0).done = false ∧ (a.vntOf 0).firmware = false
    ∧ (a.vntOf 0).lsets = [] ∧ (a.vntOf 0).kept = [] ∧ wingOut a 0 = wingOut a 1 ∧ wingOut d 0 ≠ wingOut d 1
    ∧ ((bounded [] true).vntOf 0).firmware = true := by decide +kernel

/-- A reshard that the steward runs, at each phase of its one round; one whose journal runs and that nothing drives. The journal's
last word is its CRC. -/
def reshAt (phase rounds : Byte) (arrive : Nat) : State :=
  let crc : W32 := match phase.toNat with
    | 0 => 0x19D5985D
    | 1 => 0x2803AD11
    | 2 => 0x1325E0A8
    | _ => 0x02BE9783
  { base with
    hbm := pages ++ cells 0x5F00400000 ([1#8, 0#8, 0#8, 0#8, 0#8, 0#8, 0#8, 0#8, 1#8, phase] ++ List.replicate 18 0#8 ++ leBytes 4 crc.toNat)
      ++ [(0x5F00431000, rounds)]
    col := { base.col with resh := [{ ctx := 0, pa := 0x5F00400000, inst := none, arrive := arrive }], reshDir := [(0, 0x5F00400000)] } }
def reshX (arrive : Nat) : Resh := { ctx := 0, pa := 0x5F00400000, inst := none, arrive := arrive }
/-- Witnesses of ReshardAndFragmentsAct: the reshard's phases. -/
theorem witness_reshard :
    (reshAt 0 1 0).specified [bCOL] ∧ (reshAt 0 1 0).devState ≠ stSTOPPED ∧ (reshAt 0 1 0).findResh 0 = some (reshX 0)
    ∧ (reshAt 0 1 0).journalState 0x5F00400000 = 1 ∧ (reshAt 0 1 0).reshHeld (reshX 0) = false ∧ (reshAt 0 1 0).jget 0x5F00400000 9 1 = 0
    ∧ (reshAt 1 1 2).jget 0x5F00400000 9 1 = 1
    ∧ some ((reshAt 1 1 2).reshMod 0x5F00400000 ((reshAt 1 1 2).jplan 0x5F00400000) 0) ≠ (reshAt 1 1 2).fab.num
    ∧ (reshAt 2 1 0).jget 0x5F00400000 9 1 = 2 ∧ (reshAt 3 1 2).jget 0x5F00400000 9 1 = 3
    ∧ ((reshAt 3 1 2).jplan 0x5F00400000).rounds ≤ 0 + 1 ∧ 0 + 1 < ((reshAt 3 2 2).jplan 0x5F00400000).rounds
    ∧ (reshAt 3 2 2).findResh 0 = some (reshX 2) := by decide +kernel
theorem witness_reshard_resume :
    let s : State := { reshAt 1 1 0 with col := { base.col with reshDir := [(0, 0x5F00400000)] } }
    mapGet s.col.reshDir 0 = some 0x5F00400000 ∧ s.journalState 0x5F00400000 = 1 ∧ s.findResh 0 = none
    ∧ s.devState ≠ stOFF ∧ s.devState ≠ stBOOT := by decide +kernel

/-- Witnesses of ReshardAndFragmentsAct: READY, a pause and data of a collective. -/
theorem witness_fragments :
    let k (arg : Nat) : Packet := { op := opCOLFRAG, dst := 5, src := 6, addr := 2 * 2 ^ 62, arg := arg }
    base.specified [bFAB, bCOL] ∧ base.devState = stREADY ∧ base.fragResh (k 0x400) = none ∧ base.fragResh (k 0x800) = none
    ∧ base.fragResh (k 0) = none ∧ State.colBad (k 0x400) = false ∧ State.colBad (k 0x800) = false ∧ State.colBad (k 0) = false
    ∧ (k 0x400).arg.testBit 10 = true ∧ (k 0x800).arg.testBit 10 = false ∧ (k 0x800).arg.testBit 11 = true := by decide +kernel
/-- The same of a reshard whose first member is module 6. -/
theorem witness_reshard_fragments :
    let s := ((reshAt 2 1 0).jput 0x5F00400000 0x18 4 1).hbmSet 0x5F00431040 1 6
    let k (arg : Nat) : Packet := { op := opCOLFRAG, dst := 5, src := 6, addr := 2 * 2 ^ 62, arg := arg }
    s.specified [bFAB, bCOL] ∧ s.devState = stREADY ∧ (∀ a ∈ [0, 0x400, 0x800, 2 ^ 47],
      s.fragResh (k a) = some (reshX 0) ∧ State.colBad (k a) = false ∧ ((s.fromInbox (k a)).2.reshRank (reshX 0) (k a)) = some 0) := by decide +kernel

/-- Room 0 leased to context 0 with these bytes, running nothing. -/
def leased (m : Mem := []) : State := base.modRoom 0 fun x => { x with lease := some (0, 0), pantry := m }
def lr1 : LaunchRec := { entry := 0, dtab := 0, dtabCount := 0, first := 0, count := 1, flags := 0, tag := 0, args := [] }
def launched (s : State) (l : LSlot) : State := s.modCtx 0 fun x => { x with slots := x.slots.set 63 l }

/-- Witnesses of LaunchEventsAct, on the last launch slot. -/
theorem witness_launch :
    let h := launched (leased) { held := some 1 }
    let a := launched (leased) { launch := some { lr := lr1, seq := 1 } }
    let r := launched (joined .none) { launch := some { lr := lr1, seq := 1, running := true, ended := [0] } }
    let e := r.modRoom 0 fun x => { x with seqr := { x.seqr with ended := true } }
    let f := launched (leased) { launch := some { lr := lr1, seq := 1, running := true, fault := some (4, 0, 0) } }
    h.specified [bSTW, bRoom 0] ∧ h.working = true ∧ (h.lslot 0 63).held = some 1 ∧ (h.lslot 0 63).launch = none
    ∧ a.mayStart 0 63 = true
    ∧ (e.room 0).seqr.launch = some (0, 0) ∧ (e.room 0).lease = some (0, 0) ∧ (e.room 0).seqr.ended = true ∧ (e.room 0).infl = []
    ∧ r.launch 0 63 = some { lr := lr1, seq := 1, running := true, ended := [0] } ∧ (State.rangeOf lr1).all [0].contains = true
    ∧ f.faultEnds 0 63 = true := by decide +kernel

/-- A request of the last command slot. -/
def pf1 (op : Nat) (args : List Nat) (body : List Byte := []) : Req :=
  { path := .pf1 15, opcode := op, len := body.length, args := args, body := body, seq := 1 }
theorem goes {s : State} {q : Req} {op used : Nat} {nsp : Bool}
    (h : (s.devState ≠ stOFF ∧ q.opcode = op ∧ q.path = .pf1 15 ∧ q.flags < 2 ∧ q.len ≤ 1984
      ∧ (q.args.drop used).all (· = 0) = true ∧ s.cmdAllowed q = true ∧ s.res.restore = none ∧ s.host.waiting = none)) : s.cmdGoes q op used nsp s := by
  obtain ⟨a, b, c, d, e, f, g⟩ := h
  refine ⟨a, b, ?_, d, e, f, ?_, g⟩
  · simp [State.takeReq, c]
  · simp [Req.isNsp, c]

/-- A context descriptor that may be created: root, SAVE, one room. -/
def ctxBody : List Byte :=
  leBytes 8 0x1000000 ++ List.replicate 24 0#8 ++ leBytes 8 0x5C00000000 ++ List.replicate 36 0#8 ++ leBytes 2 1 ++ leBytes 2 68
    ++ List.replicate 176 0#8
/-- Witnesses of ContextCommandsAct: the last context index with the most rooms, and context 0. -/
theorem witness_contexts :
    let q := pf1 1 [15] ctxBody
    let d := State.CtxDesc.parse (q.bodyAt 0 256)
    base.cmdGoes q 1 1 false base ∧ base.cmdGoes (pf1 2 [0]) 2 1 false base ∧ base.cmdGoes (pf1 3 [0]) 3 1 false base
    ∧ base.specified [bSTW, bVNTW, bVNTE] ∧ q.arg 0 < 16 ∧ ctxReserved (q.bodyAt 0 256) = false ∧ base.ctx (q.arg 0) = none
    ∧ base.badLease d (List.range 34).length = false ∧ base.freeLadder d.ladders = some 0 ∧ base.grantable (List.range 34) = true
    ∧ d.roomsMin ≤ (List.range 34).length ∧ (List.range 34).length ≤ d.roomsMax ∧ base.ctx 0 = some ctx0
    ∧ ctx0.slots.all (fun l => l.launch.isNone) = true :=
  ⟨goes (by decide +kernel), goes (by decide +kernel), goes (by decide +kernel), by decide +kernel⟩

/-- Two contexts whose ROOMS_MIN together exceed 68, both with launches, one sliced out. -/
def contest : State :=
  let x : Ctx := { ctx0 with d := { ctx0.d with roomsMin := 68 }, slots := [{ held := none, launch := some { lr := lr1, seq := 1 } }] }
  { leased with ctxs := some x :: some { x with slicedOut := true } :: List.replicate 14 none }
/-- Context 0 of a higher turn sliced out with a launch, alone. -/
def outside : State := { base with ctxs := some { ctx0 with rooms := [], slicedOut := true, slots := [{ launch := some { lr := lr1, seq := 1 } }] } :: List.replicate 15 none }
/-- Witnesses of PreemptionActs: a context that gives way, its room at its point and not; expired quanta; a context that comes in. -/
theorem witness_preempt :
    (leased).specified [bSTW, bRoom 0] ∧ (leased).working = true ∧ ((leased).room 0).lease.isSome = true ∧ ((leased).room 0).role ≠ 3
    ∧ ((leased).stopRoom 0).atPoint 0 = true ∧ ((leased).stopRoom 0).faulted 0 = false
    ∧ base.grantable [69] = true ∧ base.allFree [69] = true ∧ 0 < ctx0.rooms.length ∧ base.ctx 0 = some ctx0 := by decide +kernel
theorem witness_quantum :
    let s : State := { contest with tb := { contest.tb with root := 2000000 } }
    let a : State := { leased with tb := { base.tb with root := 2000000 } }
    s.ctx 0 = contest.ctx 0 ∧ (s.ctx 0).map (fun x => decide (x.quantum.1 + x.quantum.2 ≤ s.now)) = some true ∧ s.contended = true
    ∧ s.equalWaits 0 = true ∧ (a.ctx 0).map (fun x => decide (x.quantum.1 + x.quantum.2 ≤ a.now)) = some true ∧ a.contended = false := by
  decide +kernel
theorem witness_slices :
    let s := contest.modCtx 0 fun x => { x with rotate := true }
    let b := s.modRoom 0 fun x => { x with infl := [{ Infl.mk0 with uid := 7 }] }
    s.givesWay 0 = true ∧ (s.ctx 0).map (·.slicedOut) = some false
    ∧ ([0].all fun r => (s.stopRoom 0).atPoint r && !(s.stopRoom 0).faulted r) = true ∧ b.givesWay 0 = true
    ∧ ([0].all fun r => (b.stopRoom 0).atPoint r && !(b.stopRoom 0).faulted r) = false
    ∧ (outside.ctx 0).map (fun x => (x.slicedOut, x.size)) = some (true, 1) ∧ outside.nextIn 0 = true ∧ outside.grantable [69] = true
    ∧ outside.allFree [69] = true := by decide +kernel

/-- Witnesses of FaultResolutionActs. -/
def waiting (st : WaitSt) (who : Waiter := .press 0) : WaitF :=
  { wid := 3, ctx := 0, who := who, st := st, va := 0, cause := 1, level := 3, pte := 0, access := 1, unit := 6 }
def faulty (st : WaitSt) (who : Waiter := .press 0) : State :=
  { base with mmu := { base.mmu with waits := [waiting st who] }, tb := { base.tb with root := 100000000 } }
theorem witness_faults :
    (faulty .steward).specified [bSTW, bMMU] ∧ (faulty .steward).working = true
    ∧ (faulty .steward).findWait 3 = some (waiting .steward) ∧ (faulty (.filling 0 0 0)).findWait 3 = some (waiting (.filling 0 0 0))
    ∧ (faulty (.host 9)).findWait 3 = some (waiting (.host 9)) ∧ (waiting (.host 9)).handed = true
    ∧ (waiting (.host 9)).handT + (faulty (.host 9)).faultTmoNs ≤ (faulty (.host 9)).now
    ∧ (waiting (.host 9) .window).who = .window ∧ (waiting (.host 9) .window).t + (faulty (.host 9) .window).faultTmoNs
      ≤ (faulty (.host 9) .window).now
    ∧ (waiting (.filling 0 0 0) .window).t + (faulty (.filling 0 0 0) .window).faultTmoNs ≤ (faulty (.filling 0 0 0) .window).now
    ∧ (faulty (.host 9)).mmu.waits.find? (fun w => w.st = .host 9) = some (waiting (.host 9)) := by decide +kernel
theorem witness_fault_commands :
    base.cmdGoes (pf1 0xA [4096, 4096]) 0xA 2 false base ∧ base.cmdGoes (pf1 0xA [4096, 0]) 0xA 2 false base
    ∧ base.cmdGoes (pf1 0xB [9, 1]) 0xB 2 false base ∧ base.cmdGoes (pf1 0xC [0, 246]) 0xC 2 false base :=
  ⟨goes (by decide +kernel), goes (by decide +kernel), goes (by decide +kernel), goes (by decide +kernel)⟩

/-- A press job record: clip table and statistics behind the second page, one clip, one frame of one N8 pixel patch; `k` frames a block. -/
def pressRec (k : Nat := 1) : List Byte :=
  leBytes 8 0x80870000 ++ leBytes 4 1 ++ leBytes 4 1 ++ leBytes 8 0x80880000 ++ leBytes 2 k ++ leBytes 1 1 ++ List.replicate 9 0#8
    ++ leBytes 2 2 ++ leBytes 2 2 ++ leBytes 4 0 ++ leBytes 4 0 ++ leBytes 2 2 ++ leBytes 2 2
    ++ leBytes 1 k ++ leBytes 1 1 ++ leBytes 1 1 ++ leBytes 1 4 ++ leBytes 1 0x20 ++ List.replicate 71 0#8
/-- A clip of one sample, 64 KiB from this address, an address of this kind. -/
def clip (src : Nat) (glob : Byte) : List Byte :=
  leBytes 8 src ++ leBytes 8 65536 ++ List.replicate 16 0#8 ++ [1#8] ++ List.replicate 18 0#8 ++ [glob] ++ List.replicate 12 0#8
def near1 : List Byte := clip 0x80900000 0
def pJob (k : Nat := 1) : PressJob := { rec' := pressRec k, maxSize := 65536 }
def pJobRack : RackJob := { job with horizons := [(5, 1)] }
def pressing (xs : List Sample) (q : List (List (Nat × Nat)) := [[], []]) (k : Nat := 1) : State :=
  let s := leased
  { s with
    hbm := pages ++ cells 0x40870000 near1, prs := { s.prs with jobs := [(0, pJob k)], samples := xs, dpbQ := q }
    rck := { s.rck with jobs := [(0, pJobRack)] } }
def seq1 : SeqHdr :=
  { codec := 0, profile := 0, level := 0, highTier := false, extension := false, width := 2, height := 2, maxDec := 1, bits := 8, chroma := 1
    grain := false, siting := none, fullRange := false, matrix := none, transfer := 1, durNum := 1, durDen := 25 }
def smp : Sample := { id := 9, ctx := 0, g := 0, idx := 0, epoch := 0, cluster := 0, clip := 0, entry := near1 }

/-- Witnesses of PressStagesAct: the last cluster admits, and each stage has its unit. -/
theorem witness_admit :
    let s := pressing []
    s.specified [bPRS, bRCK] ∧ s.working = true ∧ s.pressJob 0 = some pJob ∧ s.rackJob 0 = some pJobRack
    ∧ s.couldAdmit 0 = true ∧ s.pressTurn 0 = true ∧ (pJob).bad.contains 0 = false
    ∧ s.startByte 0 near1 0 = .val (0, 0) := by decide +kernel
theorem witness_clip : (pressing []).findClip 0 ((pressing []).pressNew 0 7 pJobRack).idx = .val (some (0, near1)) := by decide +kernel
/-- A page of module 6 behind 0xC0000000, and a clip table there. -/
def farPages : Mem := pages ++ [(0x1000018, 0x27#8), (0x100001D, 0x60#8)]
def pJobFar : PressJob := { pJob with rec' := leBytes 8 0xC0000000 ++ (pressRec).drop 8 }
def pressingFar : State := { pressing [] with hbm := farPages, prs := { (pressing []).prs with jobs := [(0, pJobFar)] } }
theorem witness_ask :
    let s := pressingFar
    s.pressJob 0 = some pJobFar ∧ s.rackJob 0 = some pJobRack ∧ s.couldAdmit 0 = true ∧ s.pressTurn 0 = true
    ∧ s.findClip 0 (s.pressNew 0 7 pJobRack).idx = .ask 0xC0000000 64 := by decide +kernel
/-- Chunks here, on module 6, and at an address that does not translate. -/
def fetches (src : Nat) (glob : Byte) : State × Sample :=
  let x := { smp with entry := clip src glob }
  (pressing [x], x)
def pieces (y : State × Sample) : Option (List (Nat × Loc × Nat)) := (y.1.fetchSpan 0 y.2).toOption
theorem witness_fetch :
    let a := fetches 0x80900000 0
    let b := fetches (6 * 2 ^ 44) 1
    let c := fetches 0 0
    a.1.sample 0 9 = some a.2 ∧ State.Sample.toFetch a.2 = true ∧ a.1.chunksHeld 0 < 256 ∧ State.Sample.toFetch b.2 = true
    ∧ State.Sample.toFetch c.2 = true ∧ ((pieces a).map fun ls => ls.all fun x => !(x.2.1 matches .glob _)) = some true
    ∧ pieces b = some [(0, .glob (6 * 2 ^ 44), 65536)] ∧ pieces c = none := by decide +kernel
theorem witness_demux :
    let x := { smp with fetched := 1, units := some [] }
    let y := { smp with fetched := 1 }
    (pressing [x]).sample 0 9 = some x ∧ x.held = none ∧ x.parsed < x.fetched ∧ x.parsedAll = false
    ∧ ((pressing [x]).routeUnits 63 [] x).units = some [] ∧ (pressing [y]).sample 0 9 = some y ∧ y.units = none := by decide +kernel
theorem witness_dpb :
    let s := pressing [smp] [[(9, 0)], [(8, 0)]]
    s.prs.dpbQ.getD 0 [] = [(9, 0)] ∧ s.prs.dpbQ.getD 1 [] = [(8, 0)] ∧ s.dpbUsed 0 + 0 ≤ s.dpbPool ∧ s.dpbUsed 1 + 0 ≤ s.dpbPool
    ∧ (s.prs.samples.find? fun z => z.id = 9) = some smp ∧ (s.prs.samples.find? fun z => z.id = 8) = none := by decide +kernel
theorem witness_decode :
    let x := { smp with core := some 63, auQ := [1] }
    let y := { x with seq := some seq1, dpb := some 0 }
    let z := { smp with seq := some seq1, audioQ := [1], pcm := 64, capQ := [1] }
    (pressing [x]).sample 0 9 = some x ∧ (pressing [x]).coreFenced 63 = false ∧ x.seq = none ∧ (pressing [y]).sample 0 9 = some y ∧ y.ready = []
    ∧ (pressing [z]).sample 0 9 = some z ∧ z.pcm ≠ 0 ∧ z.pcm + (pressing [z]).unitsElse z (·.pcm) ≤ 32 * 2 ^ 20 := by decide +kernel
theorem witness_tensorize :
    let x := { smp with seq := some seq1, outQ := [{ chunks := 1, au := 0, n := 0 }] }
    let s (k : Nat) := pressing [x] [[], []] k
    (s 1).sample 0 9 = some x ∧ (s 2).sample 0 9 = some x ∧ x.frames < fieldLe ((s 1).jobRec 0) 0x18 2 ∧ x.frames < fieldLe ((s 2).jobRec 0) 0x18 2
    ∧ (s 1).blocksUsed + State.blockSize ((s 1).jobRec 0) ≤ 16384 ∧ (s 2).blocksUsed + State.blockSize ((s 2).jobRec 0) ≤ 16384
    ∧ ((s 1).cropOrigin x).1 + fieldLe ((s 1).jobRec 0) 0x24 2 ≤ seq1.width ∧ ((s 1).cropOrigin x).2 + fieldLe ((s 1).jobRec 0) 0x26 2 ≤ seq1.height
    ∧ ((s 2).cropOrigin x).1 + fieldLe ((s 2).jobRec 0) 0x24 2 ≤ seq1.width ∧ ((s 2).cropOrigin x).2 + fieldLe ((s 2).jobRec 0) 0x26 2 ≤ seq1.height
    ∧ 1 < fieldLe ((s 2).jobRec 0) 0x34 1 ∧ fieldLe ((s 1).jobRec 0) 0x34 1 ≤ 1 := by decide +kernel
theorem witness_assemble :
    let x : Sample := { smp with frames := 1, parsedAll := true, seq := some seq1 }
    let s := pressing [x]
    s.sample 0 9 = some x ∧ s.wholeSample x = true ∧ (pressing [smp]).wholeSample smp = false
    ∧ (((s.stageSample 0 { x with blocks := 0 }).pressFinish { x with blocks := 0 } false false).sample 0 9).isSome = false := by decide +kernel
theorem witness_limiter : let b : StageBusy := { cluster := 0, stage := 7, busy := 1000, out := false }
    b ∈ [b] ∧ b.stage < 8 := by decide +kernel

/-- Witnesses of JobCommandsAct: records behind the second page, and an address that does not translate. -/
def openAt : State := { base with hbm := pages ++ cells 0x40860000 pressRec }
theorem witness_jobs :
    openAt.cmdGoes (pf1 4 [0, 0x80860000]) 4 2 false openAt ∧ (pressing []).cmdGoes (pf1 5 [0]) 5 1 false (pressing [])
    ∧ base.cmdGoes (pf1 6 [0]) 6 2 false base ∧ base.cmdGoes (pf1 6 [0, 0x80860000]) 6 2 false base
    ∧ rack.cmdGoes (pf1 7 [0]) 7 1 false rack ∧ openAt.specified [bSTW, bPRS, bRCK]
    ∧ openAt.ctx 0 = some ctx0 ∧ openAt.pressJob 0 = none ∧ (pressing []).pressJob 0 = some pJob ∧ base.rackJob 0 = none
    ∧ rack.rackJob 0 = some job ∧ pressBad pressRec = none :=
  ⟨goes (by decide +kernel), goes (by decide +kernel), goes (by decide +kernel), goes (by decide +kernel), goes (by decide +kernel), by decide +kernel⟩
theorem witness_job_record : ((openAt.farRead (.job 0) 0 none 0x80860000 128).toOption.map (·.1)) = some (some pressRec) := by decide +kernel
/-- A rack job record of one trainer and one producer, both this module, and one of no address. -/
def rackRec : List Byte :=
  leBytes 8 0 ++ leBytes 8 1 ++ leBytes 8 0 ++ leBytes 2 1 ++ leBytes 2 1 ++ leBytes 2 1 ++ [1#8, 0#8, 1#8] ++ List.replicate 7 0#8
    ++ leBytes 8 0x80A00000 ++ leBytes 4 4096 ++ List.replicate 76 0#8
def rackAt : State := { base with hbm := pages ++ group1 ++ cells 0x40860000 rackRec }
def rackRead (s : State) (va : Nat) : Option (Option (List Byte)) := (s.farRead (.job 0) 0 none va 128).toOption.map (·.1)
theorem witness_rack_record : rackRead base 0 = none ∧ rackRec.length = 128 ∧ rackRead rackAt 0x80860000 = some (some rackRec)
    ∧ rackRead { base with hbm := farPages } 0xC0000000 = some none
    ∧ ((rackAt.rackBad 0 rackRec (rackAt.pressMax 0)).find? (·.1)) = none
    ∧ ((rackAt.rackBad 0 (List.replicate 128 0#8) (rackAt.pressMax 0)).find? (·.1)) = some (true, 1) := by decide +kernel

/-- Witnesses of RackTransfersAct: DATA, CREDIT and DROPPED of module 5's producer. -/
theorem witness_rack_transfers :
    let k (arg : Nat) : Packet := { op := opRACK, dst := 5, src := 5, arg := arg }
    rack.specified [bFAB, bRCK] ∧ rack.working = true ∧ rack.devState ≠ stDRAINING
    ∧ (rack.fromInbox (k rkDATA)).2.rackFor (k rkDATA) = some (0, job) ∧ (rack.fromInbox (k rkCREDIT)).2.rackFor (k rkCREDIT) = some (0, job)
    ∧ (rack.fromInbox (k rkDROPPED)).2.rackFor (k rkDROPPED) = some (0, job)
    ∧ (rack.fromInbox (k rkDROPPED)).2.rackSlot job 0 = some 0 := by decide +kernel

/-- A job that receives at 0x80A00000, and the first and last piece of a sample of eight bytes. -/
def jobR : RackJob := { job with recv := 0x80A00000, slotBytes := 4096 }
def rackR : State := { rack with hbm := pages ++ rack.hbm, rck := { rack.rck with jobs := [(0, jobR)] } }
def landK : Packet :=
  { op := opRACK, dst := 5, src := 5, arg := rkDATA, addr := 0,
    data := leBytes 8 (rackSample jobR 0) ++ List.replicate 48 0#8 ++ leBytes 4 64 ++ List.replicate 4 0#8 }
theorem witness_rack_landing :
    let t := (rackR.fromInbox landK).2
    t.rackFor landK = some (0, jobR) ∧ t.rackJob 0 = some jobR ∧ t.rackStopped = false ∧ t.rackSlot jobR 0 = some 0 ∧ jobR.arr = []
    ∧ 64 ≤ jobR.slotBytes ∧ landK.data.length = 64 ∧ fieldLe landK.data 0 8 = rackSample jobR 0 ∧ fieldLe landK.data 0x38 4 = 64
    ∧ (((t.farWrite (.racking 0 0 0) 0 none 0x80A00000 landK.data).toOption).map (·.1)) = some true := by decide +kernel
theorem witness_rack_send :
    let x : Staged := { ctx := 0, g := 0, size := 64, bytes := List.replicate 64 0#8 }
    let s : State := { rackR with rck := { rackR.rck with stage := [x] } }
    s.rackJob 0 = some jobR ∧ (s.rck.stage.find? fun y => y.ctx = 0 && y.g = (0 : W64).toNat && !y.sent) = some x := by decide +kernel

/-- A neighbour, a hello, a port in UP, a message that has arrived on the last port. -/
def hello1 : Hello := { serial := 2, num := some 6 }
def partner1 : Partner := { serial := 2, num := some 6, nearHello := true }
def fabricked (st : Nat) : State :=
  let s := { base with
    tb := { base.tb with root := 100000 }
    fab := { base.fab with partners := [partner1], ports := base.fab.ports.set 31 { hello := some (hello1, 0) } } }
  s.setRegBits (rFAB_PORT 31) 28 4 st
/-- Witnesses of DiscoveryActs, on the last port. -/
theorem witness_discovery :
    let s := fabricked psUP
    let j : State := { base with fab := { base.fab with num := none, manager := some (2, 6) } }
    s.specified [bFAB] ∧ s.devState ≠ stOFF ∧ s.portState 31 = psUP ∧ (s.port 31).hello = some (hello1, 0)
    ∧ 0 + 5 * s.helloNs ≤ s.now ∧ s.fab.partners[0]? = some partner1 ∧ partner1.health ≠ hLOST ∧ partner1.annT + 5 * s.helloNs ≤ s.now
    ∧ j.working = true ∧ j.fab.assigned = false ∧ j.fab.manager = some (2, 6) := by decide +kernel

def msg (ty : Nat) (data : List Byte) : Packet := { op := opMGMT, dst := 5, src := 6, arg := ty, data := data }
def arrived (s : State) (k : Packet) : State := { s with fab := { s.fab with inbox := [(31, k)] } }
abbrev MsgGoes (s : State) (ty : Nat) (data : List Byte) : Prop :=
  let k := msg ty data
  let s := arrived s k
  (s.fromInbox k).1 = 31 ∧ (s.fromInbox k).2 = { s with fab := { s.fab with inbox := [] } }
  ∧ s.mgmtGoes k ty (s.fromInbox k).1 (s.fromInbox k).2
theorem inbox1 (s : State) (k : Packet) :
    (arrived s k).fromInbox k = (31, { s with fab := { s.fab with inbox := [] } }) := by
  unfold State.fromInbox arrived; simp [State.modFab]
theorem mgoes {s : State} {ty : Nat} {data : List Byte}
    (h : ty % 65536 = ty ∧ s.devState ≠ stOFF ∧ s.fab.num = some 5 ∧ s.devState ≠ stVESTIBULE) : MsgGoes s ty data := by
  obtain ⟨c, d, e, f⟩ := h
  have hd : (arrived s (msg ty data)).devState = s.devState := rfl
  refine ⟨by rw [inbox1], by rw [inbox1]; rfl, ?_, ?_⟩
  · unfold State.takeMgmt
    rw [if_pos ⟨rfl, rfl, by simp [msg, c], by rw [hd]; exact d, Or.inr (Or.inr e)⟩]
  · rw [inbox1]; exact f

/-- Witnesses of ManagerMessagesAct: module 0, the last 120 route entries, one announced and one withdrawn partner. -/
theorem witness_manager :
    MsgGoes { base with ctxs := List.replicate 16 none } 3 (leBytes 4 0) ∧ MsgGoes base 4 (leBytes 2 3976 ++ leBytes 2 120 ++ leBytes 240 0x0101)
    ∧ MsgGoes base 5 (leBytes 32 9) ∧ MsgGoes base 6 (leBytes 8 9) ∧ MsgGoes base 8 (leBytes 2 0 ++ leBytes 2 127) :=
  ⟨mgoes (by decide +kernel), mgoes (by decide +kernel),
   mgoes (by decide +kernel), mgoes (by decide +kernel),
   mgoes (by decide +kernel)⟩
theorem witness_manager_bodies :
    base.fitsHouse 0 = true ∧ mgmtTypes.contains 0x99 = false
    ∧ ([Partner.parse (leBytes 32 9)].foldl (fun acc x => acc.bind fun u => u.announce1 6 x) (some base)).isSome = true
    ∧ (fieldLe (leBytes 8 9) 0 8 ≠ 0) := by decide +kernel
theorem witness_unknown : (arrived base (msg 0x99 [])).takeMgmt (msg 0x99 []) [0x99]
    = some ((arrived base (msg 0x99 [])).fromInbox (msg 0x99 [])) := by
  unfold State.takeMgmt; exact if_pos (by decide +kernel)

/-- Context 0 protected: its group 1 is of buddies, it has one entry and snaps at every commit. -/
def guarded : State :=
  { leased with hbm := pages ++ group1 ++ [(base.protAt 0 + 8, 255#8), (base.protAt 0 + 0x10, 1#8), (base.protAt 0 + 0x18, 1#8), (base.protAt 0 + 0x1C, 1#8)] }
def due : State := inPhase guarded phOPEN
/-- Witnesses of SnapshotsAct. -/
theorem witness_snap_due : due.snapFree 0 = true ∧ due.snapDue 0 = true ∧ due.digestDue 0 = true ∧ (due.stepHdr 0).phase = phOPEN := by
  decide +kernel
theorem witness_snapshots :
    let g : Snap := { ctx := 0, gen := 0, commits := 0, risk := false }
    let s : State := { due with res := { due.res with snaps := [g], due := [0] } }
    due.working = true ∧ due.specified [bSTW, bFAB] ∧ s.res.due.contains 0 = true
    ∧ s.curSnap 0 = some g ∧ g.reading = true := by decide +kernel
def offer : List Byte := leBytes 8 0 ++ leBytes 4 5 ++ leBytes 1 0 ++ leBytes 4 1 ++ leBytes 1 0 ++ leBytes 8 255
theorem witness_offer : MsgGoes guarded 0x20 offer ∧ guarded.buddyCtx 5 = some 0
    ∧ State.firstFit (guarded.protLe 0 8 8) (fieldLe offer 18 8) [] = some 0 :=
  ⟨mgoes (by decide +kernel), by decide +kernel, by decide +kernel⟩
def piece : HeldPiece := { ctx := 0, src := 6, gen := 0, idx := 0, size := 1, off := 0 }
def holder : State := { guarded with res := { guarded.res with held := [piece] } }
theorem witness_seal : MsgGoes holder 0x21 (List.replicate 46 0#8) ∧ holder.anyProt = true
    ∧ holder.res.held.any (fun h => h.src = 6 && h.gen = 0 && h.idx = 0) = true ∧ MsgGoes holder 0x22 (leBytes 4 6) :=
  ⟨mgoes (by decide +kernel), by decide +kernel, by decide +kernel, mgoes (by decide +kernel)⟩

/-- Witnesses of ResilienceEventsAct. -/
def suspected (o d : Bool) (last : Nat) : State :=
  { base with tb := { base.tb with root := 10000000000 }, res := { base.res with
      suspects := [{ mod := 6, cls := 0, count := 1, first := 0, last := last, opened := o, deferred := d }] } }
theorem witness_suspects :
    (suspected true false 0).working = true ∧ (suspected true false 0).specified [bFAB, bSTW]
    ∧ (suspected true false 0).findSuspect 6 0 = some { mod := 6, cls := 0, count := 1, first := 0, last := 0, opened := true, deferred := false }
    ∧ 0 + 10 ^ 7 ≤ (suspected true false 0).now ∧ (suspected true false 0).mayReport 0 = true
    ∧ ((suspected false true 0).findSuspect 6 0).map (·.deferred) = some true
    ∧ 0 + 10 ^ 10 ≤ (suspected false false 0).now
    ∧ ((suspected false false 0).findSuspect 6 0).map (fun x => (x.opened, x.deferred)) = some (false, false) := by decide +kernel
theorem witness_collator_messages : MsgGoes base 0x23 (leBytes 4 0x80000006) ∧ (fieldLe (leBytes 4 0x80000006) 0 4).testBit 31 = true
    ∧ MsgGoes base 0x25 [] ∧ MsgGoes base 0x26 [] :=
  ⟨mgoes (by decide +kernel), by decide +kernel, mgoes (by decide +kernel),
   mgoes (by decide +kernel)⟩
theorem witness_digest : due.ctx 0 = some ctx0 ∧ ctx0.digest = none := by decide +kernel

/-- Witnesses of RecoveryCommandsAct: a protected context, and one whose reshard runs. -/
def resharding : State :=
  { base with
    hbm := [(0x5F00400000, 1#8), (0x5F00400008, 1#8), (0x5F0040001C, 0x5D#8), (0x5F0040001D, 0x98#8), (0x5F0040001E, 0xD5#8), (0x5F0040001F, 0x19#8)]
    col := { base.col with reshDir := [(0, 0x5F00400000)] } }
theorem witness_recovery :
    guarded.cmdGoes (pf1 8 [0]) 8 1 false guarded ∧ guarded.ctx 0 = some ctx0 ∧ guarded.prot 0 = true
    ∧ resharding.cmdGoes (pf1 9 [0]) 9 1 false resharding ∧ mapGet resharding.col.reshDir 0 = some 0x5F00400000
    ∧ resharding.journalState 0x5F00400000 = 1 ∧ resharding.specified [bSTW, bFAB] :=
  ⟨goes (by decide +kernel), by decide +kernel, by decide +kernel, goes (by decide +kernel), by decide +kernel, by decide +kernel, by decide +kernel⟩


/-- Another member of the buddy group, and none. -/
def paired : State := { guarded with hbm := guarded.hbm.write 0x40831000 [6#8] }
theorem witness_paired : paired.cmdGoes (pf1 8 [0]) 8 1 false paired ∧ paired.ctx 0 = some ctx0 := ⟨goes (by decide +kernel), by decide +kernel⟩
theorem witness_buddies : (guarded.groupMods 0 (guarded.protLe 0 0x10 2)).eraseDups.filter (fun m => some m ≠ guarded.fab.num) = []
    ∧ (paired.groupMods 0 (paired.protLe 0 0x10 2)).eraseDups.filter (fun m => some m ≠ paired.fab.num) = [6] ∧ paired.prot 0 = true := by
  decide +kernel

/-! RESTORE of one empty piece: the image stores nothing but the ladders' zeros, and the registry's writes do not translate. -/
theorem putItems_nil (c : Nat) (is : List SnapItem) (s : State) (h : ∀ i ∈ is, ∀ t : State, t.putItem c i [] = t) :
    s.putItems c is [] = (s, []) := by
  unfold State.putItems
  induction is with
  | nil => rfl
  | cons i r ih =>
    simp only [List.foldl_cons, List.take_nil, List.drop_nil, h i (by simp)]
    exact ih fun j hj => h j (by simp [hj])
theorem putItem_hbm (c a n : Nat) (t : State) : t.putItem c (.hbm a n) [] = t := rfl
theorem putItem_va (c a n : Nat) (t : State) : t.putItem c (.va a n) [] = t := rfl
theorem putImage_nil (s : State) (c : Nat) : s.putImage c [] = (s.putItems c (s.setTail c) []).1 := by
  unfold State.putImage
  have h1 : s.putItems c (s.setHead c) [] = (s, []) := putItems_nil c _ s fun i hi t => by
    simp only [State.setHead, List.mem_cons, List.not_mem_nil, or_false] at hi
    rcases hi with rfl | rfl | rfl | rfl | rfl <;> first | exact putItem_hbm .. | exact putItem_va ..
  have h2 : s.putItems c (s.setGroups c) [] = (s, []) := putItems_nil c _ s fun i hi t => by
    simp only [State.setGroups, List.mem_flatMap] at hi
    obtain ⟨k, -, hi⟩ := hi
    split at hi
    · cases hi
    · rcases List.mem_cons.1 hi with rfl | hi
      · exact putItem_va ..
      · split at hi
        · cases hi
        · simp only [List.mem_singleton] at hi; subst hi; exact putItem_va ..
  rw [h1]; simp only []; rw [h2]; simp only []
  generalize hq : s.putItems c (s.setTail c) [] = q
  obtain ⟨u, b⟩ := q
  have hb : b = [] := by
    have : ∀ (is : List SnapItem) (v : State), (v.putItems c is []).2 = [] := by
      intro is
      unfold State.putItems
      induction is with
      | nil => intro v; rfl
      | cons i r ih => intro v; simp only [List.foldl_cons, List.drop_nil, List.take_nil]; exact ih _
    have := this (s.setTail c) s
    rw [hq] at this; exact this
  subst hb
  rw [putItems_nil c _ u fun i hi t => by
    simp only [State.classTwo, List.mem_map] at hi
    obtain ⟨x, -, rfl⟩ := hi; exact putItem_va ..]
theorem writeVa_high (s : State) (c va : Nat) (bs : List Byte) (x : Ctx) (hc : s.ctx c = some x) (hv : 2 ^ 48 ≤ va) (hb : bs ≠ []) :
    s.ctxWrite c va bs = s := by
  have hl : bs.length ≠ 0 := by simpa using hb
  have hx (a : Nat) (ha : 2 ^ 48 ≤ a) : s.xlat c none a .wr = .error { cause := cAPERTURE } := by
    unfold State.xlat; rw [hc]; exact if_pos ha
  have he (l : List (Nat × Nat)) (e : Nat × XErr) :
      l.foldl (fun acc (a, k) => match acc with
        | .error e => .error e
        | .ok ls => match s.xlat c none a .wr false false with
          | .error e => .error (a, e)
          | .ok l => (s.resolve a l k .wr).map fun more => ls ++ more) (.error e : Except (Nat × XErr) (List (Nat × Loc × Nat))) = .error e := by
    induction l with
    | nil => rfl
    | cons y r ih => exact ih
  have : ∃ e, s.vaSpan c none va bs.length .wr = .error e := by
    unfold State.vaSpan State.vaPieces State.pieces
    rw [if_neg hl]
    simp only [List.foldl_cons, hx va hv]
    exact ⟨_, he _ _⟩
  obtain ⟨e, h⟩ := this
  unfold State.ctxWrite
  rw [h]
theorem putRegistry_high (s : State) (c : Nat) (es : List RegEntry) (x : Ctx) (hc : s.ctx c = some x) (hk : s.kernel c = none)
    (hv : 2 ^ 48 ≤ x.d.registry) : s.putRegistry c es = s := by
  have hp (i : Nat) (e : RegEntry) : s.putEntry c i e = s := by
    unfold State.putEntry
    rw [hk]
    simp only [Option.isSome_none, Bool.false_eq_true, if_false]
    refine writeVa_high s c _ _ x hc ?_ ?_
    · unfold State.regAddr; rw [hc]; simp only [Option.map_some, Option.getD_some]; omega
    · unfold RegEntry.bytes; simp [leBytes]
  unfold State.putRegistry
  generalize es.zipIdx = l
  induction l with
  | nil => rfl
  | cons y r ih =>
    simp only [List.foldl_cons, hp, ite_self]
    exact ih
/-- A protected context in OPEN with no entry or one of class 1, whose registry lies past the address space. -/
def restoreAt (n : Nat) : State :=
  let s := { base with ctxs := some { ctx0 with d := { ctx0.d with registry := 2 ^ 48 } } :: List.replicate 15 none }
  let a := s.protAt 0
  inPhase { s with hbm := pages ++ [(a + 0x10, 1#8)] ++ (if n = 0 then [] else [(a + 0x1C, 1#8), (a + 0x108, 8#8), (a + 0x110, 1#8), (a + 0x112, 1#8), (a + 0x114, 2#8)]) } phOPEN
def restored (n : Nat) : State := (((restoreAt n).putItems 0 ((restoreAt n).setTail 0) []).1).modCtx 0 fun x => { x with crossed := none }
theorem restored_facts : ∀ n ∈ [0, 1], (restoreAt n).snapK 0 = 1 ∧ snapDecode 1 [(0, [])] = some [[]] ∧ unstripe [[]] = []
    ∧ ((restored n).stepHdr 0).valid = true ∧ ((restored n).stepHdr 0).commits = 0 ∧ (restored n).matchCopy 0 = none
    ∧ (restored n).drawSeq 0 0 = 0 ∧ (restored n).drawSeq 0 1 = 0 ∧ (restored n).kernel 0 = none
    ∧ ((restored n).ctx 0).map (·.d.registry) = some (2 ^ 48) ∧ ((restored n).stepHdr 0).phase = phOPEN := by decide +kernel
theorem restoreGen1 (n : Nat) (hn : n ∈ [0, 1]) : (restoreAt n).restoreGen 0 0 [(0, [])] = some (restored n) := by
  obtain ⟨h1, h2, h3, h4, h5, h6, h7, h8, h9, h10, h11⟩ := restored_facts n hn
  obtain ⟨x, hx, hr⟩ := Option.map_eq_some_iff.1 h10
  unfold State.restoreGen
  simp only [h1, h2, h3, putImage_nil]
  rw [show (((restoreAt n).putItems 0 ((restoreAt n).setTail 0) []).1).modCtx 0 (fun x => { x with crossed := none }) = restored n from rfl, h4, h5, h11]
  rw [if_neg (by simp)]
  unfold State.reconcile
  simp only [h6, h5, h7, h8, and_self, if_true]
  rw [putRegistry_high _ _ _ x hx h9 (by omega)]
/-- Witnesses of RecoveryCommandsAct: a group of two members and none; an empty piece that restores, and one whose number of pieces does
not; the last range of a re-fetch. -/
def piece0 : RestPiece := { loc := { holder := 6, gen := 0, idx := 0, commits := 0, off := 0, sha := sha256 [] }, left := 0 }
def restX : Restoring := { q := pf1 8 [0], ctx := 0, pieces := [piece0], src := some 6, left := 1 }
theorem witness_restore (n : Nat) (hn : n ∈ [0, 1]) :
    restX.pieces = piece0 :: [] ∧ (restoreAt n).restoreGen restX.ctx piece0.loc.commits (restX.pieces.map fun p => (p.loc.idx, p.bytes)) = some (restored n) :=
  ⟨rfl, by
    have : restX.pieces.map (fun p => (p.loc.idx, p.bytes)) = [(0, [])] := by simp [restX, piece0, RestPiece.bytes]
    rw [this]; exact restoreGen1 n hn⟩
theorem witness_restore_none :
    let x := { restX with pieces := [{ piece0 with loc := { piece0.loc with idx := 10 } }] }
    (restoreAt 0).restoreGen x.ctx 0 (x.pieces.map fun p => (p.loc.idx, p.bytes)) = none
    ∧ State.pickPieces ((restoreAt 0).snapK x.ctx) x.found = none := by
  have h : (restoreAt 0).snapK 0 = 1 := (restored_facts 0 (by simp)).1
  have h2 : snapDecode 1 [(10, [])] = none := by decide +kernel
  refine ⟨?_, ?_⟩
  · have : ([{ piece0 with loc := { piece0.loc with idx := 10 } }] : List RestPiece).map (fun p => (p.loc.idx, p.bytes)) = [(10, [])] := by
      simp [piece0, RestPiece.bytes]
    unfold State.restoreGen
    simp only [restX, this, h, h2]
  · simp [restX, State.pickPieces]
theorem witness_restore_range :
    let t := { restoreAt 1 with res := { (restoreAt 1).res with restore := some restX } }
    t.res.restore = some restX ∧ restX.src = some 6 ∧ restX.left = 1 ∧ t.protRanges 0 1 true ≠ []
    ∧ ((t.ctxWrite 0 0 []).modRest fun y => { y with left := 0 }).protRanges 0 1 true ≠ [] := by
  have h : (restoreAt 1).protRanges 0 1 true ≠ [] := by decide +kernel
  exact ⟨rfl, rfl, rfl, h, h⟩

/-- A hello with this module's number and another serial, and one of another number. -/
theorem witness_hello :
    let s := fabricked psUP
    let twin : Hello := { serial := 9, num := some 5 }
    s.specified [bFAB] ∧ s.portUp 31 = true ∧ twin.num = s.fab.num ∧ twin.serial ≠ s.serial ∧ s.fab.taken = none
    ∧ (s.helloPartner 31 twin).fab.num = some 5 ∧ (s.helloPartner 31 twin).fab.taken = none
    ∧ hello1.num ≠ (s.helloPartner 31 hello1).fab.num := by decide +kernel
/-- The risk level rises by the measured rise, falls after the decay time, and stays before it. -/
def risky (t : Nat) : State :=
  ({ base with tb := { base.tb with root := 10 ^ 11 }, res := { base.res with riseT := t } }).setRegBits rSTW_RISK 29 3 3
theorem witness_risk :
    (risky 0).working = true ∧ (risky 0).specified [bFAB, bSTW] ∧ (risky 0).regBits rSTW_RISK 29 3 = 3
    ∧ 3 ≤ State.levelOf ((risky 0).contribs 20) ∧ State.levelOf ((risky 0).contribs 0) < 3
    ∧ ((((risky 0).contribs 0).zipIdx).any fun (x, i) => decide ((risky 0).res.contrib.getD i 0 < x)) = false
    ∧ (risky 0).res.riseT + (risky 0).decayNs ≤ (risky 0).now
    ∧ (risky (10 ^ 11)).now < (risky (10 ^ 11)).res.riseT + (risky (10 ^ 11)).decayNs
    ∧ State.levelOf ((risky (10 ^ 11)).contribs 0) < (risky (10 ^ 11)).regBits rSTW_RISK 29 3 := by decide +kernel

/-- Witnesses of RecordCommandsAnswer, at the last group and past the last opcode. -/
theorem witness_records :
    base.cmdGoes (pf1 0xD [0, 1023]) 0xD 2 true base ∧ base.cmdGoes (pf1 0xE []) 0xE 0 true base ∧ base.cmdGoes (pf1 0xF [0]) 0xF 1 true base
    ∧ base.cmdGoes (pf1 0x10 [0]) 0x10 1 true base ∧ base.specified [bSTW, bCOL] ∧ base.devState ≠ stOFF
    ∧ knownOps.contains (pf1 0xFFFF []).opcode = false ∧ base.takeReq (pf1 0xFFFF []) = some base :=
  ⟨goes (by decide +kernel), goes (by decide +kernel), goes (by decide +kernel), goes (by decide +kernel),
   by decide +kernel, by decide +kernel, by decide +kernel, rfl⟩

/-- An NSP datagram: header, and a part of one byte of a request of `total` bytes. -/
def gram (total : Nat) : NspDatagram :=
  { src := 1, bytes := leBytes 2 0x534E ++ [1#8, 0#8] ++ leBytes 4 7 ++ leBytes 2 0xE ++ leBytes 2 0 ++ leBytes 4 0 ++ leBytes 4 total
      ++ leBytes 2 1 ++ leBytes 2 0 ++ [9#8] }
/-- Witnesses of SidebandActs: a kept answer, a whole request, a first part of two; the last sensor. -/
theorem witness_sideband :
    let a : State := { base with host := { base.host with kept := [(1, 7, 0xE, [0#8])], i3cAddr := some 9, eid := some 8 } }
    let y (n : Nat) : NspPart := { src := 1, reqId := 7, opcode := 0xE, total := n, parts := [(0, [9#8])] }
    base.specified [bSTW] ∧ base.sideband = true ∧ (gram 1).sound = true ∧ (gram 2).sound = true ∧ base.nspWaits (gram 1) = false
    ∧ (a.host.kept.find? fun x => x.1 = 1 ∧ x.2.1 = 7) = some (1, 7, 0xE, [0#8])
    ∧ fieldLe (gram 1).bytes 4 4 = 7 ∧ (base.host.kept.find? fun x => x.1 = 1 ∧ x.2.1 = 7) = none
    ∧ (base.host.parts.find? fun x => x.src = 1 ∧ x.reqId = 7) = none ∧ (y 1).whole = some [9#8] ∧ (y 2).whole = none
    ∧ base.host.parts.length < 8 ∧ a.sideband = true ∧ a.host.i3cAddr = some 9 ∧ a.host.eid = some 8 := by decide +kernel

/-- Witnesses of PciExpressActs: the last four bytes of device memory. -/
theorem witness_pcie :
    base.specified [bSTW] ∧ base.working = true ∧ base.devState ≠ stVESTIBULE ∧ base.devState ≠ stTEST ∧ base.devState ≠ stBOOT
    ∧ (hbmEnd - 4) + 4 ≤ base.host.bar2Gib * 2 ^ 30 ∧ base.barOrigin + (hbmEnd - 4) + 4 ≤ hbmEnd ∧ base.pwr.perst = false := by
  decide +kernel

/-- Witnesses of DebugBlockActs: the counters run under the sampling mode. -/
theorem witness_debug_block : base.specified [bDBG] ∧ base.devState ≠ stOFF
    ∧ (base.setRegBits rDBG_CNT_CTL 30 2 2).regBits rDBG_CNT_CTL 30 2 = 2 := by decide +kernel

/-- An image of one chunk of n bytes, all 0, whose manifest is held. -/
def manifest (n : Nat) (digest : List Byte) : List Byte :=
  List.replicate 6 0#8 ++ leBytes 2 1 ++ List.replicate 8 0#8 ++ leBytes 4 n ++ List.replicate 108 0#8 ++ digest
def zeroSha : List Byte := leBytes 32 0x1DA0AF1706A31185763837B33F1D90782C0A78BBE644A59C987AB3FF9C0B346E
def imaged (n : Nat) : State :=
  { base with sec := { base.sec with imgState := 2, imgId := leBytes 32 5, img := { manifest := manifest n zeroSha }, endorsement := [0#8] } }
/-- Witnesses of TransferCommandsAct: the longest image, a part of an open chunk, a chunk of one byte to fetch. -/
theorem witness_transfers :
    base.cmdGoes (pf1 0x201 [0, 512 * 65536, 1] (leBytes 32 5)) 0x201 3 true base ∧ base.sec.imgState = 0
    ∧ (imaged 2048).cmdGoes (pf1 0x202 [0, 0, 0, 5] (leBytes 33 0)) 0x202 4 true (imaged 2048)
    ∧ (imaged 2048).chunkWant 0 0 = some (2048, zeroSha) ∧ fieldLe (imaged 2048).sec.imgId 0 8 = 5
    ∧ State.partBytes { kind := 0, chunk := 0, digest := leBytes 32 0, parts := mapSet [] 0 (some [0#8]) } 2048 = none
    ∧ (imaged 1).cmdGoes (pf1 0x203 [0, 0, 0, 1]) 0x203 4 false (imaged 1) ∧ (imaged 1).chunkWant 0 0 = some (1, zeroSha)
    ∧ sha256 ((imaged 1).hostMem.read 0 1) = zeroSha
    ∧ (imaged 1).cmdGoes (pf1 0x204 [1]) 0x204 1 true (imaged 1) ∧ (imaged 1).cmdGoes (pf1 0x205 [0]) 0x205 1 true (imaged 1)
    ∧ (imaged 1).cmdGoes (pf1 0x210 [0] (leBytes 32 1)) 0x210 1 true (imaged 1) ∧ (imaged 1).cmdGoes (pf1 0x211 [0]) 0x211 1 true (imaged 1)
    ∧ 0 < (Config.slhPublic (imaged 1).sec.idSeed ++ (imaged 1).sec.endorsement).length :=
  ⟨goes (by decide +kernel), by decide +kernel, goes (by decide +kernel), by decide +kernel, by decide +kernel, by decide +kernel,
   goes (by decide +kernel), by decide +kernel, by decide +kernel, goes (by decide +kernel), goes (by decide +kernel),
   goes (by decide +kernel), goes (by decide +kernel), by simp [imaged]⟩

/-- A critical command's body: counter 1, serial 1, its arguments, and the code that HMAC-SHA-256 gives under the reset key. -/
def crit (op code : Nat) (args : List Byte) : Req :=
  pf1 op [] (leBytes 8 1 ++ leBytes 8 1 ++ leBytes 4 args.length ++ leBytes 12 0 ++ leBytes 16 code ++ args)
theorem cgoes {s : State} {q : Req} {op : Nat}
    (h : s.devState ≠ stOFF ∧ q.opcode = op ∧ q.path = .pf1 15 ∧ q.flags < 2 ∧ q.len ≤ 1984
      ∧ (q.args.drop 0).all (· = 0) = true ∧ s.cmdAllowed q = true ∧ s.res.restore = none ∧ s.host.waiting = none) (k : s.critSound q op = true) : s.critGoes q op s :=
  ⟨goes h, h.2.2.2.2.2.2.1, k⟩
/-- A state in which each critical command has its own conditions. -/
def ready : State :=
  { base with
    ctxs := List.replicate 16 none
    sec := { base.sec with imgState := 3, active := { manifest := List.replicate 12 0#8 ++ [1#8] } }
    fab := { base.fab with slotId := 8, partners := [{ serial := 2, num := some 8, health := hLOST }] } }
def emptySha : List Byte := leBytes 32 0x55B852781B9995A44C939B64E441AE2724B96F99C8F4FB9A141CFC9842C4B0E3
/-- Witnesses of CriticalCommandsAct. -/
theorem witness_critical :
    ready.critGoes (crit 0x101 0xF1C73424020D1633ABDDAE47E56565A1 emptySha) 0x101 ready
    ∧ ready.critGoes (crit 0x102 0xB0478AF80E3DC2A3CB0F116786F38F47 (leBytes 4 1)) 0x102 ready
    ∧ ready.critGoes (crit 0x103 0xB1D89454869B48AFFA7AFB09B089D22D (leBytes 32 0)) 0x103 ready
    ∧ ready.critGoes (crit 0x105 0x81F3DACAEAF1DC1A7CE7580971ABF6EF (leBytes 4 8 ++ [0#8])) 0x105 ready
    ∧ ready.critGoes (crit 0x106 0x3A09EFEE5D1B45DA2057ABCB757F9461 [1#8]) 0x106 ready :=
  ⟨cgoes (by decide +kernel) (by decide +kernel), cgoes (by decide +kernel) (by decide +kernel),
   cgoes (by decide +kernel) (by decide +kernel), cgoes (by decide +kernel) (by decide +kernel),
   cgoes (by decide +kernel) (by decide +kernel)⟩
theorem witness_critical_others :
    ready.critGoes (crit 0x104 0x401BE97BD3166C62435A20CAFD50B29D [0xAE#8]) 0x104 ready
    ∧ ready.critGoes (crit 0x108 0x34053C19655E3576F654680972763F85 []) 0x108 ready
    ∧ ready.critGoes (crit 0x109 0x33F92B13FA797AD4D69563F1ABA1DF03 []) 0x109 ready :=
  ⟨cgoes (by decide +kernel) (by decide +kernel), cgoes (by decide +kernel) (by decide +kernel),
   cgoes (by decide +kernel) (by decide +kernel)⟩
theorem witness_critical_conditions :
    sha256 ready.sec.img.manifest = emptySha ∧ ready.floor ≤ ready.sec.img.field 0xC 4 ∧ ready.sec.fuses < 64 ∧ ready.floor < fieldLe (leBytes 4 1) 0 4
    ∧ fieldLe (leBytes 4 1) 0 4 ≤ ready.sec.active.field 0xC 4 ∧ fieldLe [0xAE#8] 0 1 &&& 0x51 = 0 ∧ ready.mayTakeOver 8 0 = true
    ∧ ready.regBits rSTW_RISK_CTL 0 1 ≠ 1 := by decide +kernel
/-- The scan-out of a stopped module comes over NSP. -/
def scan : Req := { crit 0x107 0x3E1A66462E4509BAC6A14FA1AA190F58 (List.replicate 296 0#8) with path := .nsp 1 7 }
theorem takeNsp {s : State} {q : Req} {a b : Nat} (h : q.path = .nsp a b) :
    State.takeReq { s with host := { s.host with ready := [q] } } q = some { s with host := { s.host with ready := [] } } := by
  unfold State.takeReq; rw [h]; simp
def stopped : State := base.setDevState stSTOPPED
theorem witness_scan : State.critGoes { stopped with host := { stopped.host with ready := [scan] } } scan 0x107
    { stopped with host := { stopped.host with ready := [] } } :=
  ⟨⟨by decide +kernel, rfl, takeNsp rfl, by decide +kernel, by decide +kernel,
    by decide +kernel, fun _ => rfl, by decide +kernel⟩, by decide +kernel, by decide +kernel⟩


theorem witness_other_stores :
    (imaged 1).cmdGoes (pf1 0x204 [0]) 0x204 1 true (imaged 1) ∧ (imaged 1).cmdGoes (pf1 0x205 [1]) 0x205 1 true (imaged 1)
    ∧ (imaged 1).sec.imgState = 2 :=
  ⟨goes (by decide +kernel), goes (by decide +kernel), rfl⟩
/-- The trace store in each of its states, with a trigger counted or none, and a record that waits on the last island. -/
def traced (st n lost : Nat) : State :=
  ({ base with dbg := { base.dbg with
      trigs := n, queues := [(isMgmt, [base.mkRec isMgmt 0 tyTRIGGER none []])], qlost := natPut [] isMgmt lost } }).setRegBits
    rDBG_TRACE_STATUS 29 3 st
theorem witness_trace :
    (traced tsFULL 0 0).specified [bDBG] ∧ (traced tsFULL 0 0).devState ≠ stOFF ∧ (traced tsFULL 0 0).traceState = tsFULL
    ∧ (traced tsARMED 0 0).traceState = tsARMED ∧ (traced tsARMED 1 0).dbg.trigs ≠ 0 ∧ (traced tsPOST 1 0).traceState = tsPOST
    ∧ ((mapGet (traced tsARMED 0 0).dbg.queues isMgmt).getD []).length = 1
    ∧ natGet (traced tsARMED 0 0).dbg.qlost isMgmt = 0 ∧ natGet (traced tsARMED 0 1).dbg.qlost isMgmt = 1
    ∧ (base.setRegBits rDBG_CNT_CTL 30 2 1).regBits rDBG_CNT_CTL 30 2 = 1 ∧ base.working = true := by decide +kernel

/-- Witnesses of TimeEventsAct: the last room stretched, the last spare idle, a parent that is aligned, one exchange. -/
theorem witness_time :
    let s := base.modRoom 71 fun x => { x with stretch := 1 }
    let a := { base with ctxs := List.replicate 16 none }.setReg rTB_CTL 0x80000000
    let m := base.setReg rTB_STATUS 0x80000000 |>.setReg rTB_CTL 0x80000000
    s.specified [bTB] ∧ s.specified [bRoom 71] ∧ s.devState ≠ stOFF ∧ (s.room 71).gated = false
    ∧ s.regBits (rRM_STRETCH_CTL 71) 0 8 < 256 ∧ (s.room 71).stretch ≠ 0
    ∧ base.working = true ∧ (base.room 71).role = 1 ∧ (base.room 71).lease = none ∧ (∀ t ∈ base.tst.tests, t.room ≠ 71)
    ∧ base.mayWake 139 = true ∧ a.devState = stREADY ∧ (∀ y ∈ a.ctxs, y = none) ∧ a.aligned = false ∧ a.parentAligned = true
    ∧ bestStamp [{ t1 := 1, t2 := 2, t3 := 3, t4 := 4 }] = some { t1 := 1, t2 := 2, t3 := 3, t4 := 4 }
    ∧ m.aligned = true ∧ m.parentAligned = true := by decide +kernel
theorem witness_parent : (base.setReg rTB_CTL 0x80000000).parent ≠ .none := by
  intro h
  have : (match (base.setReg rTB_CTL 0x80000000).parent with | .none => true | _ => false) = false := by decide +kernel
  rw [h] at this; cases this

/-- Witnesses of SupplyAndResetsAct: a module with no rail, on each rail, and with power; PERST_MODE both ways. -/
theorem witness_supply :
    let f (n : Nat) : State := { base.setDevState stOFF with pwr := { base.pwr with rail := n } }
    (f 0).specified [bPWR] ∧ (f 0).devState = stOFF ∧ (f 0).pwr.rail = 0 ∧ (f 0).pwr.locked = false
    ∧ (f 3).devState = stOFF ∧ 0 < (f 3).pwr.rail ∧ (f 3).pwr.rail < 4 ∧ (f 4).devState = stOFF ∧ 4 ≤ (f 4).pwr.rail
    ∧ base.devState ≠ stOFF ∧ base.regBit rPWR_CTL 28 = false ∧ (base.setRegBit rPWR_CTL 28 true).regBit rPWR_CTL 28 = true
    ∧ ({ room := 110 } : Sensors).room ≥ 110 := by decide +kernel

/-- Witnesses of PowerManagementActs: each threshold met exactly. -/
theorem witness_power :
    let d := (base.setDevState stDRAINING)
    let d2 : State := { d with tb := { d.tb with root := 60000000000 } }
    let x := base.setReg rPWR_DRAW 3101
    let r := base.modRoom 71 fun x => { x with stretch := 8 }
    base.specified [bPWR] ∧ base.devState = stREADY ∧ d.devState = stDRAINING ∧ d.regBit rPWR_STATUS 24 = false ∧ d.openLaunches = []
    ∧ d2.devState = stDRAINING ∧ d2.regBit rPWR_STATUS 24 = false ∧ d2.pwr.drainT + d2.drainNs ≤ d2.now
    ∧ 3100 < x.regBits rPWR_DRAW 0 16 ∧ 0 < min 8 (r.regBits (rRM_STRETCH_CTL 71) 8 4)
    ∧ min 8 (r.regBits (rRM_STRETCH_CTL 71) 8 4) ≤ (r.room 71).stretch ∧ ({ plate := 65 } : Sensors).plate ≥ 65 := by decide +kernel

/-- Witnesses of RegisterCommandsAct. -/
theorem witness_registers :
    let s : State := { base with mmu := { base.mmu with inval := some (0, 0) }, host := { base.host with pend1 := [3] } }
    s.devState ≠ stOFF ∧ s.regOpen 0 0 = false ∧ s.regOpen rMMU_INVAL_CTL 0x80000000 = false ∧ s.specified [bMMU] ∧ s.mmu.inval = some (0, 0)
    ∧ s.regOpen (rTR_ROWMAP_LO 71 11) 0 = false ∧ s.regOpen (rTR_ROWMAP_HI 71 11) 0 = false ∧ 3 ∈ s.host.pend1
    ∧ s.invalOpen false (fun c => c = 0) 0 (2 ^ 48) = false := by decide +kernel

/-- Window 0 opens HBM from 0 for all accesses. -/
def windowed : State :=
  { base with
    hbm := [(windowBase + 9, 0x10#8), (windowBase + 16, 0x1D#8)]
    fab := { base.fab with reqs := [{ tag := 4, who := .mgmt, pkt := { op := opMGMT, dst := 6 } }] } }
def rd : Packet := { op := opREAD, dst := 5, src := 6, arg := 4096 }
def wr : Packet := { op := opWRITE, dst := 5, src := 6, arg := 1, data := List.replicate 16 1#8 }
def at' : Packet := { op := opATOMIC, dst := 5, src := 6, addr := 4088, arg := 6, data := List.replicate 16 1#8 }
theorem taken {s : State} {k : Packet} {op : Nat} (h : k.op = op ∧ k.rsp = false ∧ s.fab.num = some k.dst ∧ s.devState ≠ stOFF) :
    (arrived s k).takePacket k op = some (31, { s with fab := { s.fab with inbox := [] } }) := by
  obtain ⟨a, b, c, d⟩ := h
  have hd : (arrived s k).devState = s.devState := rfl
  unfold State.takePacket
  rw [if_pos ⟨a, by simp [b], c, by rw [hd]; exact d⟩, inbox1]
/-- Witnesses of TransactionsAct: a whole page read, one byte written, the last atomic of a page, the timers and hops. -/
theorem witness_transactions :
    (arrived windowed rd).takePacket rd opREAD = some (31, windowed) ∧ (arrived windowed wr).takePacket wr opWRITE = some (31, windowed)
    ∧ (arrived windowed at').takePacket at' opATOMIC = some (31, windowed) ∧ windowed.specified [bFAB, bTB] ∧ windowed.devState = stREADY
    ∧ 0 < rd.arg % 8192 ∧ rd.addr % 4096 + rd.arg % 8192 ≤ 4096 ∧ wr.dataWords = cdiv (wr.arg % 8192) 16
    ∧ at'.addr % 4096 + 8 ≤ 4096 ∧ at'.addr % 8 = 0 ∧ at'.arg % 16 ≤ 6 :=
  ⟨taken (by decide +kernel), taken (by decide +kernel), taken (by decide +kernel), by decide +kernel⟩
theorem witness_window : windowed.winSpan rd.addr 4096 .rd = .ok [(0, .hbm 0, 4096)] ∧ windowed.winSpan wr.addr 1 .wr = .ok [(0, .hbm 0, 1)]
    ∧ windowed.winSpan at'.addr 8 .atomic = .ok [(4088, .hbm 4088, 8)] ∧ State.farOf [(0, .hbm 0, 4096)] = none
    ∧ State.farOf [(4088, .hbm 4088, 8)] = none ∧ windowed.unserved rd.addr 4096 = false :=
  ⟨okOf (by decide +kernel), okOf (by decide +kernel), okOf (by decide +kernel), by decide +kernel, by decide +kernel, by decide +kernel⟩

/-- A request, its response, and a packet for another module that a route entry sends to port 31. -/
def asked : FabReq := { tag := 4, who := .mgmt, pkt := { op := opMGMT, dst := 6 } }
def answer1 : Packet := { op := opMGMT, rsp := true, tag := 4, dst := 5, src := 6 }
def through : Packet := { op := opMGMT, dst := 63, src := 6 }
def routed : State :=
  let s := base.setRegBits (rFAB_PORT 31) 28 4 psUP
  { s with fab := { s.fab with route := [(0, 0x8000)] } }
theorem witness_timer :
    windowed.fab.reqs.find? (fun q => q.tag = 4) = some asked ∧ windowed.timerHeld asked = false
    ∧ (windowed.fab.inbox.any fun x => x.2.rsp && x.2.tag = 4) = false ∧ asked.echoTag = none ∧ asked.expiries + 1 ≤ windowed.retryMax
    ∧ through.vl = 0 ∧ some through.dst ≠ routed.fab.num ∧ (arrived routed through).fab.inbox.contains (31, through) = true
    ∧ routed.nearPort through = none ∧ routed.farPort through = some 31 ∧ (arrived windowed answer1).fab.inbox.any (fun x => x.2 = answer1) = true
    ∧ answer1.rsp = true ∧ windowed.fab.reqs.find? (fun q => q.tag = answer1.tag && q.pkt.op = answer1.op) = some asked
    ∧ answer1.status = rsOK ∧ (arrived windowed { through with op := opECHO, dst := 5, arg := 1 }).devState ≠ stOFF
    ∧ (windowed.setReg rTB_STATUS 0x80000000).aligned = true := by decide +kernel
theorem witness_echo : (arrived windowed { op := opECHO, dst := 5 }).takePacket { op := opECHO, dst := 5 } opECHO = some (31, windowed)
    ∧ (arrived windowed { op := opECHO, dst := 5, arg := 1 }).takePacket { op := opECHO, dst := 5, arg := 1 } opECHO = some (31, windowed) :=
  ⟨taken (by decide +kernel), taken (by decide +kernel)⟩

/-- Witnesses of ScrubFindingsAct: none; one symbol of a sector and one bit of a word; two symbols and two bits. -/
theorem witness_scrub :
    let h (l : List Nat) : ScrubFinding := { place := .hbm 0, flips := l }
    let p (l : List Nat) : ScrubFinding := { place := .pantry 71 0xFFFFFF, flips := l }
    base.specified [bSTW] ∧ base.working = true ∧ (h []).flips = [] ∧ (∀ b ∈ (h [248, 255]).flips, b / 8 = 31)
    ∧ 0 ∈ (h [0, 8]).flips ∧ 8 ∈ (h [0, 8]).flips ∧ 0 / 8 ≠ 8 / 8 ∧ (p [63]).flips = [63] ∧ 0 ∈ (p [0, 63]).flips ∧ 63 ∈ (p [0, 63]).flips := by
  decide +kernel
theorem witness_scrub_place (a : Nat) : (Loc.pantry 71 0xFFFFFF) ≠ .hbm a := by intro h; cases h

/-- Port 31 in a state. -/
def port (st : Nat) : State := base.setRegBits (rFAB_PORT 31) 28 4 st
/-- Witnesses of PortStatesAct and FlitsAct, on the last port. -/
theorem witness_ports : (port psDOWN).specified [bFAB, bDBG] ∧ (port psDOWN).devState ≠ stOFF ∧ (port psDOWN).portState 31 = psDOWN
    ∧ (port psTRAINING).portState 31 = psTRAINING ∧ (port psFEC_LOCK).portState 31 = psFEC_LOCK ∧ (port psRETRAIN).portState 31 = psRETRAIN
    ∧ (port psUP).portState 31 = psUP ∧ (port psINIT).portState 31 = psINIT := by decide +kernel
theorem leNum_leBytes4 (n : Nat) (h : n < 2 ^ 32) : leNum (leBytes 4 n) = n := by
  simp only [leBytes, leNum, BitVec.toNat_ofNat]; omega
def flitBody : List Byte := List.replicate 240 0#8
def flitOf (head : Nat) (body : List Byte) : DataFlit :=
  { bytes := leBytes 12 head ++ leBytes 4 (crc32c (leBytes 12 head ++ body)).toNat ++ body }
def flit1 : DataFlit := flitOf 0x101 flitBody
def stopBody : List Byte := leBytes 16 (7 * 2 ^ 64 + 2 ^ 34 + 5 * 2 ^ 16 + 65535) ++ List.replicate 224 0#8
theorem good_flit (h : Nat) (b : List Byte) : (flitOf h b).good = true := by
  have h1 : (flitOf h b).bytes.take 12 = leBytes 12 h := rfl
  have h2 : (flitOf h b).bytes.drop 16 = b := rfl
  have h3 : ((flitOf h b).bytes.drop 12).take 4 = leBytes 4 (crc32c (leBytes 12 h ++ b)).toNat := rfl
  unfold DataFlit.good
  rw [h1, h2, h3, leNum_leBytes4 _ (BitVec.isLt _)]
  simp [flitOf]
theorem witness_good_flits : flit1.good = true ∧ (flitOf 3 stopBody).good = true := ⟨good_flit .., good_flit ..⟩
theorem witness_stop_flit : (flitOf 3 stopBody).isType 3 = true ∧ stopFields (flitOf 3 stopBody) = (65535, 5, true, 7) := by decide +kernel
theorem witness_flits :
    let u : State := { port psUP with fab := { (port psUP).fab with
      ports := (port psUP).fab.ports.set 31 { nakSent := true, replay := [{ vl := 0, words := 0, payload := [], pkt := {} }] } } }
    let i : State := { port psINIT with fab := { (port psINIT).fab with ports := (port psINIT).fab.ports.set 31 { trainSent := true } } }
    u.portUp 31 = true ∧ (u.port 31).nakSent = true ∧ (u.port 31).replay ≠ []
    ∧ i.portState 31 = psINIT ∧ ((i.modPort 31 fun q => { q with trainSeen := true, bufs := [0, 0, 0, 0] }).port 31).trainSent = true
    ∧ flit1.bytes.length = 256 ∧ flit1.isType 1 = true ∧ ({ flit1 with fecOk := false } : DataFlit).good = false ∧ flit1.seq = ((port psUP).port 31).aseq + 1
    ∧ base.fab.stops.contains (65535, 5) = false ∧ base.dbg.stopDriven = false ∧ base.dbg.stopRel = none
    ∧ ({ base with dbg := { base.dbg with stopDriven := true } } : State).dbg.stopDriven = true := by decide +kernel

/-- Witnesses of BootActs: the four states of the image staging. -/
theorem witness_boot :
    let b := { base with sec := { base.sec with imgState := 4 } }.setDevState stBOOT
    let c : State := { b with sec := { b.sec with imgState := 5, journal := 0, img := { manifest := List.replicate 6 0#8 ++ [1#8, 0#8] } } }
    let d : State := { c with sec := { c.sec with journal := 1 } }
    b.specified [bPWR] ∧ b.devState = stBOOT ∧ b.sec.imgState = 4 ∧ c.sec.imgState = 5 ∧ c.sec.journal < c.sec.img.field 6 2
    ∧ d.sec.img.field 6 2 ≤ d.sec.journal ∧ base.sec.imgState ≠ 4 ∧ base.sec.imgState ≠ 5 := by decide +kernel

/-- The factory image by the first slot's key. -/
def booting : State :=
  { base with sec := { base.sec with
      imgState := 0, factory := true, signers := [sha256 (List.replicate 48 0#8), []]
      active := { manifest := List.replicate 0x15 0#8 ++ [1#8] ++ List.replicate 100 0#8 } } }.setDevState stBOOT
theorem witness_boot_complete : booting.devState = stBOOT ∧ booting.specified [bPWR] ∧ booting.sec.imgState ≠ 4 ∧ booting.sec.imgState ≠ 5
    ∧ booting.activeOk = true ∧ booting.signSlot = some (booting.sec.active.field 0x15 1 - 1) := by decide +kernel

def n8Desc : Desc := Desc.parse (fun o => (n8 4).nat o) (descTab + 128 * 4)
/-- A kept tile. -/
def keptJob : TasteJob :=
  { uid := 0, ord := 0, mode := 0, trellis := 0, dest := n8Desc, buf := [], h := n8Desc, s := n8Desc, fr := 0, stride := 0, ms := [], ns := []
    sigma := [], start := [] }
def kept0 : Replay := { id := 3, ctx := 0, step := 0, room := 0, uid := 0, ord := 0, y := [], job := keptJob }
/-- A pack kernel whose output of one byte is what it wants. -/
def kern1 : KRun := { pack := 1, kid := 1, seed := 0, prog := [], image := [], out := (0, 1), want := sha256 [0#8] }
/-- Room 71 spare and idle for 6 hours; room 0 under a due test while leased; replays of the open step. -/
def testing (st : Nat) : State :=
  { leased with
    tb := { base.tb with root := 21600000000000 }
    tst := { base.tst with
      stage := 1, tests := [{ room := 0, origin := 2, st := st }], repair := base.tst.repair.set 71 { role := 1, pass := 1 }
      replays := [kept0] } }
/-- Witnesses of TestsAct. -/
theorem witness_tests :
    let s := testing 0
    let q : State := { s with ctxs := some { ctx0 with needQuick := true } :: List.replicate 15 none }
    s.specified [bSTW, bRoom 0] ∧ s.specified [bRoom 71] ∧ s.working = true
    ∧ (s.setDevState stTEST).devState = stTEST ∧ ((s.setDevState stTEST).stageActs 1 {}).devState = stTEST
    ∧ s.regBits rSTW_TEST_CTL 24 8 ≠ 0 ∧ s.oldestRoom = some 1 ∧ (s.room 70).role = rlSPARE ∧ s.findTest 70 = none
    ∧ (s.recOf 70).pass + s.spareNs ≤ s.now ∧ s.findTest 0 = some { room := 0, origin := 2 } ∧ s.spareReady 71 = true
    ∧ (s.room 0).lease = some (0, 0) ∧ (s.stopRoom 0).atPoint 0 = true ∧ (s.stopRoom 0).faulted 0 = false
    ∧ (testing 1).findTest 0 = some { room := 0, origin := 2, st := 1 } ∧ q.ctx 0 = some { ctx0 with needQuick := true }
    ∧ (s.tst.replays.filter fun p => p.ctx = 0 && p.step = (s.stepHdr 0).step) ≠ [] ∧ (s.stepHdr 0).phase = phOPEN
    ∧ s.tst.replays.find? (fun p => p.id = 3) = some kept0 ∧ kept0.runs = [] ∧ kept0.room ≠ 1 ∧ s.admitsReplay 1 0 = true
    ∧ (List.range 72).all q.admitsAny = true ∧ q.fits 0 (72 * q.testEst) = true := by decide +kernel
/-- A test's built-in sets pass and no kernel is left; its last pack kernel passes. -/
theorem witness_test_done :
    let s := testing 1
    let x : Ift := { room := 0, origin := 2, st := 1 }
    let y : Ift := { x with krun := some kern1 }
    let u : State := { s with tst := { s.tst with tests := [y] }, rooms := s.rooms.set 0 { s.room 0 with seqr := { ended := true } } }
    s.findTest 0 = some x ∧ s.admitsTest 0 = true ∧ (s.chargeMw s.testEst).nextKernel x = none
    ∧ u.working = true ∧ u.specified [bSTW, bRoom 0] ∧ u.findTest 0 = some y ∧ ((u.room 0).seqr.ended && (u.room 0).infl.isEmpty && (u.room 0).taste.isEmpty) = true
    ∧ sha256 ((u.room 0).pantry.read 0 1) = kern1.want ∧ u.nextKernel y = none := by decide +kernel
theorem witness_defer :
    let s : State := { testing 0 with
      tb := { base.tb with root := 3600000000000 }, rooms := (List.range 72).map fun r => if r = 0 then { role := 0, lease := some (0, 0) } else { role := 0 } }
    s.findTest 0 = some { room := 0, origin := 2 } ∧ 0 + s.deferNs ≤ s.now ∧ (List.range 72).any s.spareReady = false
    ∧ (s.room 0).lease = some (0, 0) ∧ (s.stopRoom 0).atPoint 0 = true ∧ (s.stopRoom 0).faulted 0 = false := by decide +kernel

/-! Witnesses of the statements on steps, words, frames, faults and resets -/

theorem witness_queue : ({ base with pending := [.stopWrite] } : State).pending = .stopWrite :: [] ∧ base.pending = []
    ∧ ({ base with pending := [.stopWrite] } : State).queueWf := by decide +kernel
theorem witness_step_goes : ∃ t, step base = .next t := ⟨_, rfl⟩
/-- A room, the power block, the fabric, the steward, debug and time base with an RSV bit off its reset value. -/
theorem witness_rsv : (base.setReg (rRM_STRETCH_CTL 3) 0xFFFFFFFF).rsvOpen (bRoom 3) = true
    ∧ (base.setReg rPWR_CTL 0xFFFFFFFF).rsvOpen bPWR = true ∧ (base.setReg rFAB_CTL 0xFFFFFFFF).rsvOpen bFAB = true
    ∧ (base.setReg rSTW_TEST_CTL 0xFFFFFFFF).rsvOpen bSTW = true ∧ (base.setReg rDBG_CNT_CTL 0xFFFFFFFF).rsvOpen bDBG = true
    ∧ (base.setReg rTB_CTL 0xFFFFFFFF).rsvOpen bTB = true := by decide +kernel
theorem witness_sc8 : (1 : Nat) < 256 ∧ 0xFE < 256
    ∧ (⟨n8Desc, fun _ => 0x00, pantOff⟩ : View).d.scaled = true ∧ (⟨n8Desc, fun _ => 0x00, pantOff⟩ : View).sc 0 0 = 0x00
    ∧ (⟨n8Desc, fun _ => 0xFF, pantOff⟩ : View).sc 0 0 = 0xFF := by decide +kernel
theorem witness_word : (Instr.tSets 71 { a := 5 }).wf = true ∧ (Instr.tSets 71 { a := 5 }).tiruf = some (71, 0x07, { a := 5 })
    ∧ encodeTiruf (.tSets 71 { a := 5 }) = some 0x07000000000000050000000000000000 := by decide +kernel

/-- A write of a module register: TB_CTL. -/
theorem witness_fields : rTB_CTL % 4 = 0 ∧ rTB_CTL < 0x1000000 ∧ rTB_CTL % 0x40000 < 0x1000 ∧ (regFields rTB_CTL).isSome = true
    ∧ rTB_CTL ≠ rPWR_CTL ∧ rTB_CTL ≠ rDBG_CNT_CTL ∧ rTB_CTL ≠ rDBG_TRACE_CTL ∧ rTB_CTL ≠ rDBG_STOP_CTL
    ∧ rTB_CTL ≠ rMMU_INVAL_CTL ∧ ¬(0x1C0080 ≤ rTB_CTL ∧ rTB_CTL < 0x1C0100) ∧ base.devState ≠ stOFF := by decide +kernel
theorem witness_bar2 : base.specified [bSTW] ∧ base.working = true ∧ 0x1000 + [1#8].length ≤ base.host.bar2Gib * 2 ^ 30
    ∧ base.barOrigin + 0x1000 + [1#8].length ≤ hbmEnd ∧ State.seqWords (base.barOrigin + 0x1000) [1#8] = [] ∧ base.hbm.wf = true := by
  decide +kernel
theorem witness_frames : plainWord { a := 15 } = true
    ∧ (match exec (.tSets 0 { a := 15 }) (running 7 { a := 15 }) with | .next _ => true | _ => false) = true
    ∧ (match exec (.tSts 0 { b := 0xFFFFF8 }) (running 10 { b := 0xFFFFF8 }) with | .next _ => true | _ => false) = true := by decide +kernel
/-- Witnesses of FailedChecksRaiseTheirFault: SEL names no hearth format; a nonzero unused field; scalar 16; descriptor 4096. -/
theorem witness_failed_checks :
    Issues (running 0x30 { a := 1, b := 2, c := 3 } (fp 1 ++ fp 2 ++ fp 3)) 0x30 { a := 1, b := 2, c := 3 }
    ∧ firstFault (vecChecks 0x30 ((running 0x30 { a := 1, b := 2, c := 3 } (fp 1 ++ fp 2 ++ fp 3)).fetched (at0 0x30)) (at0 0x30)
        { a := 1, b := 2, c := 3 }) = some .format
    ∧ firstFault (movbChecks ((running 0x11 { a := 4096 }).fetched (at0 0x11)) (at0 0x11) { a := 4096 }) = some .descriptor
    ∧ firstFault (cvtChecks ((running 0x40 { c := 1 }).fetched (at0 0x40)) (at0 0x40) { c := 1 }) = some .operand
    ∧ firstFault (movChecks ((running 0x10 { c := 1 }).fetched (at0 0x10)) (at0 0x10) { c := 1 }) = some .operand
    ∧ firstFault (spmvChecks ((running 0x28 { mod := 1 }).fetched (at0 0x28)) (at0 0x28) { mod := 1 }) = some .operand
    ∧ firstFault (hrclrChecks ((running 0x41 { b := 1 }).fetched (at0 0x41)) (at0 0x41) { b := 1 }) = some .operand
    ∧ firstFault (adamChecks 0 ((running 0x3F { mod := 1 }).fetched (at0 0x3F)) (at0 0x3F) { mod := 1 }) = some .operand
    ∧ Issues (running 7 { a := 16 }) 7 { a := 16 } ∧ Issues (running 1 { c := 1 }) 1 { c := 1 } ∧ Issues (running 11 { a := 4096 }) 11 { a := 4096 } := by
  decide +kernel
theorem witness_unsound : base.cmdGoes (pf1 0x108 []) 0x108 0 true base ∧ base.cmdAllowed (pf1 0x108 []) = true :=
  ⟨goes (by decide +kernel), by decide +kernel⟩
theorem witness_unsound_code : base.critSound (pf1 0x108 []) 0x108 = false := by decide +kernel
theorem witness_resets : base.specified [bPWR] ∧ base.devState ≠ stOFF ∧ base.regBit rSTW_TEST_CTL 1 = false
    ∧ (base.setRegBit rSTW_TEST_CTL 1 true).regBit rSTW_TEST_CTL 1 = true := by decide +kernel
theorem witness_time_root : base.specified [bTB] ∧ (0 : Int) ≤ base.tb.frac ∧ -1000000000 ≤ base.tb.rate
    ∧ (base.tb.root.toNat : Int) + (((2 ^ 63 : Nat) : Int) * (1000000000 + base.tb.rate) + base.tb.frac) / 1000000000 < 2 ^ 64 := by decide +kernel


/-- The last port in the states of PortStatesAct's first clauses, with DISABLE written and not. -/
theorem witness_disable :
    let d (st : Nat) (b : Bool) : State := (port st).setRegBit (rFAB_PORT 31) 0 b
    (d psDISABLED true).portState 31 = psDISABLED ∧ (d psDOWN true).portState 31 = psDOWN ∧ (d psUP true).portState 31 = psUP
    ∧ (d psDISABLED false).portState 31 = psDISABLED ∧ (d psDOWN false).portState 31 = psDOWN := by decide +kernel
/-! One-step tests; the expected results are worked by hand from the rules cited -/

def withS (s : State) (n : Nat) (v : W64) : State := s.modRoom 0 fun x => { x with sreg := x.sreg.set n v }

/-- 07 Table 7.4: SETS puts C over B; the PC moves on by 16. -/
theorem test_sets : let t := after (.tSets 0 { a := 5, b := 0x33334444, c := 0x11112222 }) (running 7 { a := 5, b := 0x33334444, c := 0x11112222 })
    (t.room 0).sreg.getD 5 0 = 0x1111222233334444 ∧ (t.room 0).seqr.pc = ownBase + 0x1010 := by decide +kernel
/-- 07 Table 7.4: ADDS sign-extends C and wraps modulo 2^64. -/
theorem test_adds_wraps :
    ((after (.tAdds 0 { a := 1, c := 0xFFFFFFFF }) (running 8 { a := 1, c := 0xFFFFFFFF })).room 0).sreg.getD 1 0 = 0xFFFFFFFFFFFFFFFF := by
  decide +kernel
/-- 07 Table 7.4: STS stores the least significant byte first. -/
theorem test_sts : let t := after (.tSts 0 { a := 2, b := 0x40 }) (withS (running 10 { a := 2, b := 0x40 }) 2 0x0102030405060708)
    (t.room 0).pantry.get 0x40 = 8 ∧ (t.room 0).pantry.get 0x47 = 1 := by decide +kernel
/-- 07 Table 7.4: DPUT writes the word of the descriptor at B. -/
theorem test_dput : ((after (.tDput 0 { a := 2, b := 0x40, c := 3 }) (withS (running 11 { a := 2, b := 0x40, c := 3 }) 3 0xAB)).room 0).pantry.get
    (descTab + 0x140) = 0xAB := by decide +kernel
/-- 07 R225: TKE adds 1 to the token at completion; TOKRD reads it zero-extended. -/
theorem test_token : ((after (.tNop 0 { tke := true, token := 9 }) (running 1 { tke := true, token := 9 })).room 0).tok.getD 9 0 = 1 := by
  decide +kernel
/-- 06 R189: a WAIT on a token not yet there holds the sequencer. -/
theorem test_wait_holds : ((after (.tWait 0 { a := 3, b := 1 }) (running 4 { a := 3, b := 1 })).room 0).seqr.hold = .wait 3 1 := by decide +kernel
/-- 07 Table 7.4: the branch target is the BR's own address plus 16 × A, A signed. -/
theorem test_br_back : ((after (.tBr 0 { a := 0xFFFFFFFF }) (running 3 { a := 0xFFFFFFFF })).room 0).seqr.pc = ownBase + 0xFF0 := by
  decide +kernel
/-- 07 Table 7.16: an undefined opcode raises OPCODE, code 1, in its launch. -/
def badOp : State := (launched (running 0x0D {}) { launch := some { lr := lr1, seq := 1, running := true } }).modRoom 0 fun x =>
  { x with seqr := { x.seqr with launch := some (0, 63) } }
theorem test_opcode : ((after (.undefinedOpcode 0 0x0D {}) badOp).launch 0 63).bind (fun l => l.fault.map fun f => f.1) = some 1 := by
  decide +kernel
/-- 04 R152: 1.0 + 2.0 = 3.0. -/
theorem test_vadd :
    let s := running 0x30 wVec ((0x101002, 0x80#8) :: (0x101003, 0x3F#8) :: (0x102003, 0x40#8) :: (fp1 1 ++ fp1 2 ++ fp1 3))
    ((after (.tVadd 0 wVec) s).room 0).pantry.le 0x103000 4 = 0x40400000 := by decide +kernel
/-- 02 R31: 0x80 is 1.0, 0x01 is 1.25 × 2^-32, 0xFE is 1.5 × 2^31. -/
theorem test_sc8 : sc8Val 0x80 = 1 ∧ sc8Val 0x01 * 2 ^ 34 = 5 ∧ sc8Val 0xFE = 3 * 2 ^ 30 := by decide +kernel
/-- 02 R39: G8 0x30 is 1.0, 0xFE is -30, 0x01 is 1/64. -/
theorem test_g8 : decElem fmtG8 0x30 = .fin false 1 ∧ decElem fmtG8 0xFE = .fin true 30 ∧ decElem fmtG8 0x01 = .fin false (1 / 64) := by
  decide +kernel
/-- 18 Table 18.5: CTX_CREATE of a live context answers EXISTS. -/
theorem test_ctx_exists : ((after (.ctxCreate (pf1 1 [0] ctxBody) [5]) base).host.cmds.getD 15 {}).status = cEXISTS := by decide +kernel
/-- 20 R656, Table 20.2: an empty module drains at once and keeps its state bits; a warm reset goes to BOOT with cause warm. -/
theorem test_drain_and_reset : (after .drainSet base).devState = stDRAINING ∧ (after .pwrResetWarm base).devState = stBOOT
    ∧ (after .pwrResetWarm base).regBits rPWR_STATUS 25 3 = lrWARM := by decide +kernel
/-- 16 R553, R551: the root's load adds the elapsed time. -/
theorem test_root : (after (.tbRootLoad 1000) base).now = 1000 := by decide +kernel
/-- 11 Table 11.2: signal takes a port from DOWN to TRAINING. -/
theorem test_port : (after (.portSignalDetect 31) (port psDOWN)).portState 31 = psTRAINING := by decide +kernel
/-- 08 R286: an invalidation runs until it is done. -/
theorem test_inval : (after (.mmuInvalidate {} 0x80000000) base).mmu.inval = some (0x80000000, 0) := by decide +kernel

/-- 02 R47: the top V16 code stands for 127 + 255/256; a position above it saturates and overflows. -/
theorem test_v16_top : encV16Log (127 + 255 / 256) = (0xFFFF, 0) ∧ encV16Log (127 + 255 / 256 + 1 / 1024) = (0xFFFF, fOVF ||| fINX) := by
  decide +kernel
/-- 08 R271: the stack of a 4 KiB granule, by its wing and the folded granule number. -/
theorem test_stack : hbmStack 0 = 0 ∧ hbmStack 0x8000 = 1 ∧ hbmStack (wingSize + 0x1000) = 9 := by decide +kernel

end Sys2Proof.Tests
end

section
/-! PROOFS. A block with an RSV bit off reset stops its commands (O47), and a register write follows its fields' types (O53). -/

namespace Sys2Proof.Machine

/-! The stop of an open block (00 R704) -/

/-- A meaning of one block stops while the block has an RSV bit off reset. -/
theorem run_stop_block {b : Nat} {s : State} (h : s.rsvOpen b = true) (t : State) : run [b] s t = .fault .rsvUnspecified :=
  run_stop (by simp [h]) t

/-- The Tiruf commands that O47 speaks of. -/
def tirufSample (r : Nat) (w : TWord) : List Instr :=
  [.tNop r w, .tEnd r w, .tBr r w, .tWait r w, .tSets r w, .tAdds r w, .tLds r w, .tSts r w, .tDput r w, .tTokrd r w,
    .tMov r w, .tTmul r w, .tTconv r w, .tSpmv r w, .tVadd r w, .tVfma r w, .tVsum r w, .tVadam r w, .tCvt r w, .tCaps r w]

/-- A Tiruf command belongs to the block of the room that issues it, and to no other. -/
theorem exec_tirufSample_eq_run (s : State) (r : Nat) (w : TWord) :
    ∀ c ∈ tirufSample r w, ∃ t, exec c s = run [bRoom r] s t := by
  intro c hc
  unfold tirufSample at hc
  fin_cases hc <;> exact ⟨_, rfl⟩

/-- Settles O47: each command named is `run` on its own block, which stops. -/
theorem unspecifiedBlocksStop : Obligations.UnspecifiedBlocksStop := by
  unfold Obligations.UnspecifiedBlocksStop
  intro s
  refine ⟨fun r w hs c hc => ?_, fun hs => ⟨run_stop_block hs _, run_stop_block hs _⟩,
    fun hs p k => ⟨run_stop_block hs _, run_stop_block hs _⟩, fun hs q => ⟨run_stop_block hs _, run_stop_block hs _⟩,
    fun hs => run_stop_block hs _, fun hs n => run_stop_block hs _⟩
  obtain ⟨t, ht⟩ := exec_tirufSample_eq_run s r w c hc
  rw [ht, run_stop_block hs]

/-! The fields of a register word share no bit -/

/-- No two fields of a word share a bit. -/
abbrev FieldsDisjoint (fs : List RField) : Prop := fs.Pairwise fun f g => f.mask &&& g.mask = 0#32

theorem fPort_disjoint (far : Bool) : FieldsDisjoint (fPort far) := by revert far; decide
theorem regTable_disjoint : ∀ r ∈ regTable, FieldsDisjoint r.2 := by decide

/-- The words of a room frame. -/
theorem roomFields_disjoint {o : Nat} {fs : List RField} (h : roomFields o = some fs) : FieldsDisjoint fs := by
  unfold roomFields at h
  split_ifs at h <;> cases h <;> decide

/-- Every register of the map. -/
theorem regFields_disjoint {o : Nat} {fs : List RField} (h : regFields o = some fs) : FieldsDisjoint fs := by
  unfold regFields at h
  split_ifs at h
  · exact roomFields_disjoint h
  · cases h; exact fPort_disjoint _
  · cases h; decide
  · cases h; decide
  · cases h; decide
  · obtain ⟨r, hr, rfl⟩ := Option.map_eq_some_iff.mp h
    exact regTable_disjoint r (List.mem_of_find?_eq_some hr)

/-! What a write leaves in a field's bits (00 Table 0.2; 18 R618) -/

theorem regApply_cons (f : RField) (fs : List RField) (old new : W32) :
    regApply (f :: fs) old new = f.apply old new ||| regApply fs old new := by
  unfold regApply
  simp only [← List.foldl_map, List.foldl_cons]
  rw [BitVec.or_comm 0, List.foldl_assoc]

/-- A field's write stays within the field's bits. -/
theorem RField.apply_and_mask (f : RField) (old new : W32) : f.apply old new &&& f.mask = f.apply old new := by
  unfold RField.apply
  cases f.ty with
  | rw | rsv | ro | w1s => simp [BitVec.and_assoc]
  | w1c => dsimp only; split_ifs <;> simp [BitVec.and_assoc]
  | act => simp

/-- A field's write sets no bit outside the field. -/
theorem RField.apply_and_of_disjoint {f : RField} {m : W32} (h : f.mask &&& m = 0#32) (old new : W32) : f.apply old new &&& m = 0#32 := by
  rw [← RField.apply_and_mask, BitVec.and_assoc, h, BitVec.and_zero]

/-- Bits of no field stay clear. -/
theorem regApply_and_of_disjoint {fs : List RField} {m : W32} (h : ∀ g ∈ fs, g.mask &&& m = 0#32) (old new : W32) :
    regApply fs old new &&& m = 0#32 := by
  induction fs with
  | nil => simp [regApply]
  | cons f fs ih =>
    obtain ⟨hf, hfs⟩ := List.forall_mem_cons.mp h
    rw [regApply_cons, BitVec.and_or_distrib_right, RField.apply_and_of_disjoint hf, ih hfs, BitVec.or_zero]

/-- A word holds after a write what each field's type leaves in the field. -/
theorem regApply_and_mask {fs : List RField} (hd : FieldsDisjoint fs) {f : RField} (hf : f ∈ fs) (old new : W32) :
    regApply fs old new &&& f.mask = f.apply old new := by
  induction fs with
  | nil => cases hf
  | cons g fs ih =>
    obtain ⟨hg, hfs⟩ := List.pairwise_cons.mp hd
    rw [regApply_cons, BitVec.and_or_distrib_right]
    rcases List.mem_cons.mp hf with rfl | hm
    · rw [RField.apply_and_mask, regApply_and_of_disjoint (fun g' h' => by rw [BitVec.and_comm, hg g' h']), BitVec.or_zero]
    · rw [RField.apply_and_of_disjoint (hg f hm), ih hfs hm, BitVec.zero_or]

/-! A write of a module register that acts on nothing -/

/-- Below the room frames no write wakes a room. -/
theorem wakeFrame_module (s : State) {o : Nat} (h : o < 0x1000000) : s.wakeFrame o = s := by
  unfold State.wakeFrame
  rw [if_neg (by omega)]

/-- A word of a module register is the target of its own write. -/
theorem regTarget_module (s : State) {o : Nat} {fs : List RField} (v : W32) (h4 : o % 4 = 0) (hm : o < 0x1000000)
    (hw : o % 0x40000 < 0x1000) (hf : regFields o = some fs) : s.regTarget o v = some (o, fs, v) := by
  have hdeaf : s.deaf o = false := by simp [State.deaf, show ¬ 0x1000000 ≤ o by omega]
  unfold State.regTarget
  simp [h4, hdeaf, hw, hf]
  omega

/-- A write to a module register whose bits act on nothing is its store. -/
theorem regWrite_module {s : State} {o : Nat} {v : W32} {fs : List RField} (ht : s.regTarget o v = some (o, fs, v))
    (hm : o < 0x1000000) (hpwr : o ≠ rPWR_CTL) (hcnt : o ≠ rDBG_CNT_CTL) (htr : o ≠ rDBG_TRACE_CTL) (hst : o ≠ rDBG_STOP_CTL)
    (hinv : o ≠ rMMU_INVAL_CTL) (hport : ¬(0x1C0080 ≤ o ∧ o < 0x1C0100)) : s.regWrite o v = s.regStore o fs v := by
  unfold State.regWrite
  simp only [wakeFrame_module s hm, ht]
  unfold State.regActs
  simp only [if_neg (show ¬ 0x1000000 ≤ o by omega), if_neg hpwr, if_neg hcnt, if_neg htr, if_neg hst, if_neg hinv, if_neg hport]

/-- An aligned word write that does no more than store its word answers the store, whatever the RSV bits of its block hold (log 9). -/
theorem exec_registerWrite_store {s : State} {acc : RegAccess} {o : Nat} {v : W32} {fs : List RField} (hoff : s.devState ≠ stOFF)
    (hl : acc.len = 4) (h4 : o % 4 = 0) (hm : o < 0x1000000) (ht : s.regTarget o v = some (o, fs, v))
    (hw : s.regWrite o v = s.regStore o fs v) :
    exec (.registerWrite acc o v) s = .next (s.after (s.regStore o fs v)) := by
  have hopen : s.regOpen o v = false := by simp [State.regOpen, wakeFrame_module s hm, ht, hw]
  have hacc (t : State) : s.regAccess acc o t = t := by simp [State.regAccess, hoff, hl, h4]
  change execRegisterWrite acc o v s = _
  simp [execRegisterWrite, effRegisterWrite, hopen, hacc, hw]

/-- Settles O53: the word stored is `regApply` of the register's fields, which share no bit. -/
theorem registerFieldsFollowTheirTypes : Obligations.RegisterFieldsFollowTheirTypes := by
  unfold Obligations.RegisterFieldsFollowTheirTypes
  intro s acc o v fs hoff hl h4 hm hw hf hpwr hcnt htr hst hinv hport
  have ht := regTarget_module s v h4 hm hw hf
  refine ⟨regApply fs (s.reg o) v, exec_registerWrite_store hoff hl h4 hm ht
    (regWrite_module ht hm hpwr hcnt htr hst hinv hport), fun f hmem => ?_⟩
  rw [regApply_and_mask (regFields_disjoint hf) hmem]
  refine ⟨fun h => ?_, fun h => ?_, fun h h1 => ?_, fun h h1 => ?_, fun h => ?_⟩
  · simp [RField.apply, h]
  · rcases h with h | h <;> simp [RField.apply, h]
  · simp [RField.apply, h, h1]
  · simp [RField.apply, h, h1]
  · simp [RField.apply, h]

end Sys2Proof.Machine
end

section
/-! PROOFS. What reset leaves (O48). -/

namespace Sys2Proof.Machine

namespace State

/-! Reads of the state after reset -/

/-- No register differs from its reset value (18 R604). -/
@[simp] theorem reset_reg (o : Nat) : State.reset.reg o = regReset o := rfl

/-- A room is as manufactured: its role, and nothing else off its default (01 R13). -/
theorem reset_room {r : Nat} (h : r < 72) : State.reset.room r = { role := roleAtReset r } := by
  have hrooms : State.reset.rooms = (List.range 72).map fun r => { role := roleAtReset r } := rfl
  simp [room, hrooms, h]

/-- No context exists, below 16 or past the table's end. -/
@[simp] theorem reset_ctx (c : Nat) : State.reset.ctx c = none :=
  List.getElem?_getD_replicate_default_eq none 16 c

/-- STATUS.STATE resets to BOOT (20 Table 20.2; log 5). -/
@[simp] theorem reset_devState : State.reset.devState = stBOOT := by
  have hword : regReset rPWR_STATUS = 0x10000000#32 := by decide
  simp [devState, regBits, hword]

/-- Nothing is listed in any memory, a room's pantry included. -/
theorem reset_memWf : State.reset.memWf := by
  have hrooms : State.reset.rooms.all (fun x => x.pantry.wf) = true := by
    refine List.all_eq_true.mpr fun x hx => ?_
    obtain ⟨r, -, rfl⟩ := List.mem_map.mp hx
    exact Mem.wf_nil
  exact ⟨Mem.wf_nil, Mem.wf_nil, Mem.wf_nil, hrooms⟩

end State

/-- Settles O48: the registers and the rooms through their reads after reset, the rest by the fields of `State.reset`. -/
theorem resetLeavesTheStartingState : Obligations.ResetLeavesTheStartingState := by
  unfold Obligations.ResetLeavesTheStartingState
  have hrole : ∀ r, r < 72 → (State.reset.room r).role = if r = 34 ∨ r = 35 ∨ r = 70 ∨ r = 71 then 1 else 0 :=
    fun r hr => by rw [State.reset_room hr, roleAtReset]
  have hroute : ∀ i, natGet State.reset.fab.route i = 0 := fun _ => rfl
  exact ⟨State.reset_devState, rfl, rfl, hrole, State.reset_ctx, hroute, rfl, rfl, rfl, State.reset_memWf, rfl⟩

end Sys2Proof.Machine
end

section
/-! PROOFS. The values of SC8 codes (O49) and of G8 codes (O50). -/

namespace Sys2Proof.Machine

/-- The model's power of two is the rational one. -/
theorem pow2_eq_zpow (k : Int) : pow2 k = (2 : Rat) ^ k := by
  unfold pow2
  split
  next h =>
    obtain ⟨n, rfl⟩ := Int.eq_ofNat_of_zero_le h
    simp
  next h =>
    obtain ⟨n, rfl⟩ : ∃ n : Nat, k = -n := ⟨(-k).toNat, by omega⟩
    simp [Rat.mkRat_eq_div]

/-- A field value less a bias, as an exponent: the power of the field over the power of the bias. -/
theorem pow2_natCast_sub (e b : Nat) : pow2 ((e : Int) - b) = (2 : Rat) ^ e / 2 ^ b := by
  rw [pow2_eq_zpow, zpow_sub₀ two_ne_zero, zpow_natCast, zpow_natCast]

/-! SC8 (02 R31) -/

/-- The value of a code of eight bits: 2^(e−32) × (1 + f/4). -/
theorem sc8Val_eq {c : Nat} (hc : c < 256) :
    sc8Val c = (2 : Rat) ^ (c / 4) / 2 ^ 32 * (1 + ((c % 4 : Nat) : Rat) / 4) := by
  have he : sc8E c = c / 4 := Nat.mod_eq_of_lt (by omega)
  have hp : pow2 (((c / 4 : Nat) : Int) - 34) = (2 : Rat) ^ (c / 4) / 2 ^ 34 := pow2_natCast_sub (c / 4) 34
  rw [sc8Val, he, sc8F, hp]
  push_cast
  ring

namespace View

/-- Code 0x00 marks a zero block. -/
theorem zero_of_sc {v : View} {r i : Nat} (hs : v.d.scaled = true) (h : v.sc r i = 0x00) : v.zero r i = true := by
  simp [zero, hs, h]

/-- Code 0xFF marks an invalid block. -/
theorem invalid_of_sc {v : View} {r i : Nat} (hs : v.d.scaled = true) (h : v.sc r i = 0xFF) : v.invalid r i = true := by
  have hb : v.badBlock r i = true := by simp [badBlock, hs, h]
  rw [invalid, hb, Bool.or_true]

end View

/-- Settles O49: the valid codes by their value, 0x00 and 0xFF by what a tensor's view makes of them. -/
theorem sc8CodesHaveTheirValues : Obligations.Sc8CodesHaveTheirValues := by
  unfold Obligations.Sc8CodesHaveTheirValues
  exact ⟨fun c hc _ _ => sc8Val_eq hc, fun v r i => View.zero_of_sc, fun v r i => View.invalid_of_sc⟩

/-! G8 (02 R39) -/

/-- The magnitude of a G8 code that is no NaN, by its exponent field e and its mantissa field m. -/
def g8Mag (e m : Nat) : Rat := if e = 0 then (m : Rat) / 16 / 4 else (2 : Rat) ^ e / 8 * (1 + (m : Rat) / 16)

theorem g8Mag_zero (m : Nat) : g8Mag 0 m = (m : Rat) / 16 / 4 := if_pos rfl

theorem g8Mag_of_pos {e : Nat} (he : 1 ≤ e) (m : Nat) : g8Mag e m = (2 : Rat) ^ e / 8 * (1 + (m : Rat) / 16) :=
  if_neg (by omega)

/-- The magnitude of the code 0x7E. -/
theorem g8Mag_seven_fourteen : g8Mag 7 14 = 30 := by
  rw [g8Mag_of_pos (by decide)]
  norm_num

/-- Under the NaN, e = 7 ends at m = 14 with 30; a smaller e stays under 16. -/
theorem g8Mag_le_thirty {e m : Nat} (he : e < 8) (hm : m < 16) (h : ¬(e = 7 ∧ m = 15)) : g8Mag e m ≤ 30 := by
  have hm' : (m : Rat) ≤ 15 := by exact_mod_cast Nat.le_of_lt_succ hm
  rcases Nat.eq_zero_or_pos e with rfl | h1
  · rw [g8Mag_zero]
    linarith
  rw [g8Mag_of_pos h1]
  rcases Nat.lt_or_ge e 7 with h7 | h7
  · have hpow : (2 : Rat) ^ e ≤ 2 ^ 6 := pow_le_pow_right₀ one_le_two (by omega)
    calc (2 : Rat) ^ e / 8 * (1 + (m : Rat) / 16) ≤ 2 ^ 6 / 8 * (1 + 15 / 16) := by gcongr
      _ ≤ 30 := by norm_num
  · obtain rfl : e = 7 := by omega
    have h14 : m ≤ 14 := by omega
    calc (2 : Rat) ^ 7 / 8 * (1 + (m : Rat) / 16) ≤ 2 ^ 7 / 8 * (1 + (14 : Nat) / 16) := by gcongr
      _ = g8Mag 7 14 := (g8Mag_of_pos (by decide) 14).symm
      _ = 30 := g8Mag_seven_fourteen

/-- What a G8 code decodes to: the NaN, or its sign and magnitude. -/
theorem decElem_g8 {c : Nat} (hc : c < 256) :
    decElem fmtG8 c = if c / 16 % 8 = 7 ∧ c % 16 = 15 then .nan else .fin (decide (128 ≤ c)) (g8Mag (c / 16 % 8) (c % 16)) := by
  have hdec : decElem fmtG8 c = decSmall 3 4 3 c := rfl
  have hneg : decide (c / 2 ^ (3 + 4) % 2 = 1) = decide (128 ≤ c) := decide_eq_decide.mpr (by omega)
  have hnorm : ∀ e : Nat, pow2 ((e : Int) - 3 - (4 : Nat)) = (2 : Rat) ^ e / 2 ^ 7 := fun e => by
    rw [← pow2_natCast_sub]
    congr 1
    omega
  have hsub : pow2 (1 - 3 - (4 : Nat)) = (2 : Rat) ^ 1 / 2 ^ 7 := hnorm 1
  rw [hdec, decSmall, hneg, hsub, hnorm]
  simp only [Nat.reducePow, Nat.reduceSub]
  split_ifs with hnan he
  · rfl
  · rw [he, g8Mag_zero]
    congr 1
    ring
  · rw [g8Mag_of_pos (by omega)]
    congr 1
    push_cast
    ring

/-- Settles O50: each clause is a case of what the code decodes to. -/
theorem g8CodesHaveTheirValues : Obligations.G8CodesHaveTheirValues := by
  unfold Obligations.G8CodesHaveTheirValues
  intro c hc s e m
  have hdec : decElem fmtG8 c = if e = 7 ∧ m = 15 then .nan else .fin s (g8Mag e m) := decElem_g8 hc
  rw [hdec]
  refine ⟨fun h => if_pos h, fun h he => ?_, fun he => ?_, fun n => ?_, fun n x => ?_, ?_⟩
  · rw [if_neg h, g8Mag_of_pos he]
  · rw [if_neg (by omega), he, g8Mag_zero]
  · split <;> nofun
  · split
    next => nofun
    next h =>
      rintro ⟨⟩
      exact g8Mag_le_thirty (Nat.mod_lt _ (by decide)) (Nat.mod_lt _ (by decide)) h
  · rintro rfl
    change Fv.fin false (g8Mag 7 14) = .fin false 30
    rw [g8Mag_seven_fourteen]

end Sys2Proof.Machine
end

section
/-! PROOFS. The events of a trellis tile, from its first segment to its landing (O13). -/

namespace Sys2Proof.Machine

/-! What each event's effect is once the event is due: the tile it acts on is there, and its instruction is in flight -/

section
variable {s : State} {r t : Nat} {j : TileJob} {i : Infl} {rest : List TileJob} {sl : Slot}

/-- The shadow copies take the segment, and the tile counts it wherever it stands (03 R106). -/
theorem effSegmentLoadDone_due (hj : (s.trellis r t).nextLoad = some j) (hi : s.findInfl r j.uid = some i) :
    effSegmentLoadDone r t s =
      let u := s.freeShadow r t
      let up (q : TileJob) : TileJob := if q.uid = j.uid ∧ q.ord = j.ord then { q with loaded := j.loaded + 1 } else q
      u.modTrellis r t fun y => { y with
        shadow := some ((prodOf u r j.uid i).loadSeg (tileRows i j).1 (u.trellis r t).cur j.uid j.ord j.loaded)
        queue := y.queue.map up, flying := y.flying.map up } := by
  simp only [effSegmentLoadDone, hj, hi]

/-- The queue's head takes the terms it did not have (04 R142). -/
theorem effSideboardTermsReady_due (hq : (s.trellis r t).queue = j :: rest) (hi : s.findInfl r j.uid = some i)
    (hsb : j.sbReady = false) :
    effSideboardTermsReady r t s = s.modTrellis r t fun y =>
      { y with queue := { j with sbReady := true, sigma := tileSigma (prodOf s r j.uid i) i j } :: rest } := by
  simp [effSideboardTermsReady, hq, hi, hsb]

/-- A start token does not hold the tile back: it needs none, or one is left (20 R666, R667). -/
theorem startToken_granted {x : Trellis} {wing : Nat} (h : s.needsToken x = true → s.tokensLeft wing ≠ 0) :
    ¬ (s.needsToken x && decide (s.tokensLeft wing = 0)) = true := by
  rw [Bool.and_eq_true, decide_eq_true_iff]
  exact fun ⟨hneed, hnone⟩ => h hneed hnone

/-- A head that is ready, whose slot lets it start, that has its token, is admitted and folds well, is charged and starts. -/
theorem effTileFirstDigit_due (hq : (s.trellis r t).queue = j :: rest) (hi : s.findInfl r j.uid = some i)
    (hready : headReady (s.room r) (s.trellis r t) j = true) (hsl : (s.trellis r t).slots.getD j.slot {} = sl)
    (hstart : slotStart i j sl = .starts)
    (htoken : s.needsToken (s.trellis r t) = true → s.tokensLeft (r / 36) ≠ 0) (hadmit : s.admitsTile r t = true)
    (hfold : badStart (prodOf s r j.uid i) i j sl = false) :
    effTileFirstDigit r t s =
      ((if s.needsToken (s.trellis r t) then s.takeToken (r / 36) else s).chargeTile r (prodOf s r j.uid i).lower).startTile
        r t i j rest (startSlot (prodOf s r j.uid i) i j sl) := by
  unfold effTileFirstDigit
  simp only [hq, hi, hready, hsl, hstart, if_neg (startToken_granted htoken), hadmit, hfold, Bool.not_true, Bool.false_eq_true,
    if_false]

/-- The last wave ends the oldest tile that is in flight once the shadow copies are free. -/
theorem effTileLastWave_due {k : TileJob} {rest0 : List TileJob} (hj : (s.trellis r t).flying = j :: rest0)
    (hi : s.findInfl r j.uid = some i) (hloaded : j.segs ≤ j.loaded)
    (hk : ((s.freeShadow r t).trellis r t).flying = k :: rest) :
    effTileLastWave r t s =
      (s.freeShadow r t).lastWave r t i k rest (((s.freeShadow r t).trellis r t).slots.getD k.slot {}) := by
  simp only [effTileLastWave, hj, hi, if_neg (Nat.not_lt.mpr hloaded), hk]

/-- The oldest complete slot leaves for an empty port, and is free. -/
theorem effSlotDrainDone_due (hd : (s.trellis r t).drains = j :: rest) (hport : (s.trellis r t).port = none) :
    effSlotDrainDone r t s = s.modTrellis r t fun y =>
      { y with drains := rest, port := some (j, y.slots.getD j.slot {}), slots := y.slots.set j.slot {} } := by
  simp only [effSlotDrainDone, hd, hport]

/-- The port's tile lands. -/
theorem effLandingConvertDone_due (hport : (s.trellis r t).port = some (j, sl)) (hi : s.findInfl r j.uid = some i) :
    effLandingConvertDone r t s = s.landTile r t i j sl := by
  simp only [effLandingConvertDone, hport, hi]

end

/-- Settles O13: each event is its effect while the device works, and each effect is the one of an event that is due. -/
theorem trellisEventsAct : Obligations.TrellisEventsAct := by
  unfold Obligations.TrellisEventsAct
  intro s r t hs hw x
  have exec_live {e : Instr} {v u : State} (he : exec e s = run [bRoom r] s (s.live v)) (hv : v = u) :
      exec e s = .next (s.after u) := he.trans (run_live hs hw hv)
  refine ⟨?segment, ?sideboard, ?first, ?last, ?drain, ?landing⟩
  case segment => exact fun j i hj hi => exec_live rfl (effSegmentLoadDone_due hj hi)
  case sideboard => exact fun q rest i hq hi hsb => exec_live rfl (effSideboardTermsReady_due hq hi hsb)
  case first =>
    intro j rest i hq hi hready sl p hstart htoken hadmit hfold
    exact exec_live rfl (effTileFirstDigit_due hq hi hready rfl hstart htoken hadmit hfold)
  case last =>
    intro j rest0 i k rest hj hi hloaded u hk
    exact exec_live rfl (effTileLastWave_due hj hi hloaded hk)
  case drain => exact fun j rest hd hport => exec_live rfl (effSlotDrainDone_due hd hport)
  case landing => exact fun j sl i hport hi => exec_live rfl (effLandingConvertDone_due hport hi)

end Sys2Proof.Machine
end

section
/-! PROOFS. PUBLISH, LQUERY, LSET and BUDGET at issue (O10). -/

namespace Sys2Proof.Machine

/-- A plain word leaves its token, its select field and its modifier within their rules (07 R225, R226). -/
theorem plainWord_iff {w : TWord} : plainWord w = true ↔ okTok w = true ∧ zeroSel w = true ∧ zeroMod w = true := by
  rw [plainWord, Bool.and_eq_true, Bool.and_eq_true, and_assoc]

/-- An instruction of one check that passes goes on to its effect. -/
theorem checked_one {b : Bool} {f : FaultCode} {k : Unit → Iss} (h : b = false) : checked [(b, f)] k = k () :=
  (checked_pass h).trans (checked_nil k)

/-! What each instruction's effect is once its word issues and its operands are within their rules -/

section
variable {s : State} {r : Nat} {w : TWord} {a : At}

/-- A PUBLISH whose group joins holds its room (07 R260). -/
theorem effPublish_issues (hi : s.issueAt r 0x70 w = some a) (hw : plainWord w = true) (hb : w.b = 0) (hc : w.c = 0)
    (hj : (s.fetched a).joinGroup a w.a = none) :
    effPublish r w s = (s.fetched a).holdFor r a.pc w (.publish w.a.toNat) := by
  obtain ⟨htok, hsel, hmod⟩ := plainWord_iff.mp hw
  refine issue_ok hi ?_
  rw [checked_one (by simp [htok, hsel, hmod, hb, hc]), hj]

/-- An LQUERY of entries in the context's range stores them in the pantry (05 R183; 07 R261). -/
theorem effLquery_issues (hi : s.issueAt r 0x71 w = some a) (hw : plainWord w = true) (h0 : w.b.toNat ≠ 0)
    (hmax : w.b.toNat ≤ 4096) (hrange : w.a.toNat + w.b.toNat ≤ (s.fetched a).ladSize a.c)
    (hp : okP w.c 16 (16 * w.b.toNat) = true) :
    effLquery r w s = ((s.fetched a).pantStore r a.uid w.c.toNat ((List.range w.b.toNat).flatMap fun i =>
      leBytes 16 ((s.fetched a).ladder a.c (w.a.toNat + i)).toNat)).pending1 a 0x71 w { Infl.mk0 with ready := true } := by
  obtain ⟨htok, hsel, hmod⟩ := plainWord_iff.mp hw
  refine issue_ok hi (checked_one ?_)
  simp [htok, hsel, hmod, hp, h0, Nat.not_lt.mpr hmax, Nat.not_lt.mpr hrange]

/-- An LSET of a sound image writes the pending copies (05 R174, R184). -/
theorem effLset_issues (hi : s.issueAt r 0x72 w = some a) (hw : plainWord w = true) (hc : w.c = 0)
    (hrange : w.a.toNat < (s.fetched a).ladSize a.c) (hp : okP w.b 16 16 = true)
    (himg : badLadder (BitVec.ofNat 128 ((s.fetched a).pantLe r a.uid w.b.toNat 16)) = false) :
    effLset r w s = ((s.fetched a).putLadder a.c ((s.fetched a).ladIdx a.c w.a.toNat)
      ((s.fetched a).pantLe r a.uid w.b.toNat 16)).pending1 a 0x72 w { Infl.mk0 with ready := true } := by
  obtain ⟨htok, hsel, hmod⟩ := plainWord_iff.mp hw
  refine issue_ok hi ?_
  rw [checked_one (by simp [htok, hsel, hmod, hc, hp, hrange])]
  exact if_neg (by simp [himg])

/-- A BUDGET writes the two budgets of the policy record (05 R182; 07 R261). -/
theorem effBudget_issues (hi : s.issueAt r 0x73 w = some a) (hw : plainWord w = true) (ha : okS w.a = true) (hb : okS w.b = true)
    (hc : w.c = 0) :
    effBudget r w s = ((s.fetched a).ctxWrite a.c ((s.fetched a).polAt a.c + 0x40)
      (leBytes 8 ((s.fetched a).sreg r w.a).toNat ++ leBytes 8 ((s.fetched a).sreg r w.b).toNat)).pending1 a 0x73 w
        { Infl.mk0 with ready := true } := by
  obtain ⟨htok, hsel, hmod⟩ := plainWord_iff.mp hw
  refine issue_ok hi (checked_one ?_)
  simp [htok, hsel, hmod, ha, hb, hc]

end

/-- Settles O10: each form is its effect at issue, on operands that pass its one check. -/
theorem ladderInstructionsComplete : Obligations.LadderInstructionsComplete := by
  unfold Obligations.LadderInstructionsComplete
  intro s r w a hs t slow
  refine ⟨?publish, ?lquery, ?lset, ?budget⟩
  case publish => exact fun hi hw hb hc hj => run_eq hs (effPublish_issues hi hw hb hc hj)
  case lquery => exact fun hi hw h0 hmax hrange hp => run_eq hs (effLquery_issues hi hw h0 hmax hrange hp)
  case lset => exact fun hi hw hc hrange hp himg => run_eq hs (effLset_issues hi hw hc hrange hp himg)
  case budget => exact fun hi hw ha hb hc => run_eq hs (effBudget_issues hi hw ha hb hc)

end Sys2Proof.Machine
end

section
/-! PROOFS. The vintner's and the step group's actions (O15). -/

namespace Sys2Proof.Machine

namespace State

/-- The pending copy that a wing evaluates: the entries that an earlier evaluation of the step kept, else its own, with the LSETs since
(05 R169). -/
def wingStart (s : State) (c w : Nat) : List (Nat × BitVec 128) :=
  (s.vntOf c).lsets.foldl (fun t x => setRw t x.1 x.2) ((s.vntOf c).kept.getD w (s.wing w).pend)

/-- A wing's own result at the boundary (05 R171). -/
def wingResult (s : State) (c w : Nat) : EvalOut :=
  evalWing (s.vntOf c).policy (s.vntOf c).reduced (s.rangeEnts c (s.wingStart c w))

/-- Both wings have evaluated: their breaches at a ceiling are counted and what they started from is kept (05 R169, R172). -/
def wingsEvaluated (s : State) (c : Nat) : State :=
  ((s.regCount (rVNT_STATUS 0) 4 12 (s.wingResult c 0).ceil).regCount (rVNT_STATUS 1) 4 12 (s.wingResult c 1).ceil).modVnt c
    fun x => { x with kept := [s.wingStart c 0, s.wingStart c 1], lsets := [] }

variable {s : State} {c sl kind : Nat}

/-! A phase of members that name one step acts, and raises PHASE of others (07 R264) -/

theorem phaseAct_same {steps : List Nat} (h : s.sameStep c steps = true) (t : State) : s.phaseAct c sl kind steps t = t := if_pos h

theorem phaseAct_differ {steps : List Nat} (h : s.sameStep c steps = false) (t : State) :
    s.phaseAct c sl kind steps t = s.phaseFault c sl kind := if_neg (by simp [h])

/-! The evaluation at a boundary (05 R169) -/

/-- An evaluation that is due takes both wings' results where they agree, and reports them where they do not. -/
theorem evaluate_due (hp : (s.vntOf c).published = true) (hd : (s.vntOf c).done = false) (hf : (s.vntOf c).firmware = false) :
    s.evaluate c = if s.wingResult c 0 = s.wingResult c 1 then
      ((((s.wingsEvaluated c).putPend c 0 (s.wingResult c 0).ents).putPend c 1 (s.wingResult c 1).ents).evalWrite c
        (s.wingResult c 0)).modVnt c fun x => { x with done := true }
    else
      (((((s.wingsEvaluated c).regCount (rVNT_STATUS 0) 24 8 1).regCount (rVNT_STATUS 1) 24 8 1).postEvent c evDIVERGE).immediate).modVnt
        c fun x => { x with firmware := true } :=
  if_neg (by simp [hp, hd, hf])

/-- The steward's evaluation replaces both wings' results, under the LSETs since (05 R169; log 18). -/
theorem evaluateFirmware_due (hf : (s.vntOf c).firmware = true) :
    s.evaluateFirmware c =
      let o := evalWing (s.vntOf c).policy (s.vntOf c).reduced (s.rangeEnts c ((s.vntOf c).kept.getD 0 []))
      let again (t : Vnt) : Vnt := { t with pend := (s.vntOf c).lsets.foldl (fun l x => setRw l x.1 x.2) t.pend }
      ((((((s.putPend c 0 o.ents).putPend c 1 o.ents).modWing 0 again).modWing 1 again).evalWrite c o).modVnt c fun x =>
        { x with firmware := false, done := true }) :=
  if_neg (by simp [hf])

end State

/-! What each join's effect is once every room of the launch has arrived -/

section
variable {s : State} {c sl : Nat}

theorem effPublishAct_due {peers : List PeerStats} (h : s.arrived c sl Hold.isPublish = true) :
    effPublishAct c sl peers s = (s.publish c peers).releaseRooms c sl fun x =>
      x.seqr.launch = some (c, sl) && Hold.isPublish x.seqr.hold := if_neg (by simp [h])

theorem effCheckAct_due {peers : List PeerCheck} (h : s.stpArrived c sl kCHECK = true) (hr : s.checkReady c = true) :
    effCheckAct c sl peers s = s.phaseAct c sl kCHECK (peers.map (·.step)) (s.check c sl peers) := if_pos ⟨h, hr⟩

theorem effCommitAct_due {steps : List Nat} (h : s.stpArrived c sl kCOMMIT = true) (hh : s.commitHeld c = false) :
    effCommitAct c sl steps s = s.phaseAct c sl kCOMMIT steps (s.commit c sl) := if_pos (by simp [h, hh])

theorem effAdvanceAct_due {steps : List Nat} (h : s.stpArrived c sl kADVANCE = true) (he : s.evaluating c = false) :
    effAdvanceAct c sl steps s = s.phaseAct c sl kADVANCE steps (s.advance c sl) := if_pos (by simp [h, he])

theorem effAbortAct_due {steps : List Nat} (h : s.stpArrived c sl kABORT = true) (he : s.evaluating c = false) :
    effAbortAct c sl steps s = s.phaseAct c sl kABORT steps (s.abort c sl (s.abortSkips c sl)) := if_pos (by simp [h, he])

/-- A room that waits for the swap goes on, and the last one ends the vintner's copies (05 R169, R180). -/
theorem effSwapAck_due {r : Nat} (h : (s.room r).seqr.hold = .swapAck) :
    effSwapAck r s = (s.freeHold r).retireCopies (((s.room r).lease.map (·.1)).getD 16) := by
  simp only [effSwapAck, h]

/-- A step-group event whose phase is due acts where the members name one step, and raises PHASE where they do not (07 R264). -/
theorem run_phase {bs steps : List Nat} {e t : State} {kind : Nat} (hs : s.specified bs) (hw : s.working = true)
    (he : e = s.phaseAct c sl kind steps t) :
    (s.sameStep c steps = true → run bs s (s.live e) = .next (s.after t))
    ∧ (s.sameStep c steps = false → run bs s (s.live e) = .next (s.after (s.phaseFault c sl kind))) :=
  ⟨fun h => run_live hs hw (he.trans (State.phaseAct_same h t)), fun h => run_live hs hw (he.trans (State.phaseAct_differ h t))⟩

end

/-- Settles O15: the joins by their effect once it is due, the boundary by the two wings' results. -/
theorem stepEventsAct : Obligations.StepEventsAct := by
  unfold Obligations.StepEventsAct
  refine ⟨fun s c sl r hw => ⟨?publish, ?check, ?commit, ?advance, ?abort, ?swap⟩, fun s c hs hw => ?boundary⟩
  case publish => exact fun peers hs h => run_live hs hw (effPublishAct_due h)
  case check => exact fun peers hs h hr => run_phase hs hw (effCheckAct_due h hr)
  case commit => exact fun steps hs h hh => run_phase hs hw (effCommitAct_due h hh)
  case advance => exact fun steps hs h he => run_phase hs hw (effAdvanceAct_due h he)
  case abort => exact fun steps hs h he => run_phase hs hw (effAbortAct_due h he)
  case swap => exact fun hs h => run_live hs hw (effSwapAck_due h)
  case boundary =>
    refine ⟨fun hp hd hf => ⟨fun hagree => ?_, fun hdiffer => ?_⟩, fun hf => run_live hs hw (State.evaluateFirmware_due hf)⟩
    · exact run_live hs hw ((State.evaluate_due hp hd hf).trans (if_pos hagree))
    · exact run_live hs hw ((State.evaluate_due hp hd hf).trans (if_neg hdiffer))

end Sys2Proof.Machine
end

section
/-! PROOFS. The control instructions, their holds and their releases (O1), and the room barrier (O3). -/

namespace Sys2Proof.Machine

/-- The fields that every plain word leaves unused pass their part of an instruction's check (07 R225, R226). -/
theorem plainWord_unused {w : TWord} (h : plainWord w = true) : (!okTok w || !zeroSel w || !zeroMod w) = false := by
  obtain ⟨htok, hsel, hmod⟩ := plainWord_iff.mp h
  simp [htok, hsel, hmod]

/-! What each instruction's effect is once its word issues with its unused fields 0 -/

section
variable {s : State} {r : Nat} {w : TWord} {a : At}

theorem effNop_issues (hi : s.issueAt r 0x01 w = some a) (hw : plainWord w = true) (ha : w.a = 0) (hb : w.b = 0) (hc : w.c = 0) :
    effNop r w s = (s.fetched a).doneAt a w :=
  issue_ok hi (checked_one (by simp [plainWord_unused hw, ha, hb, hc]))

/-- END ends the room's stream (06 R190). -/
theorem effEnd_issues (hi : s.issueAt r 0x02 w = some a) (hw : plainWord w = true) (ha : w.a = 0) (hb : w.b = 0) (hc : w.c = 0) :
    effEnd r w s = ((s.fetched a).modRoom r fun x => { x with seqr := { x.seqr with ended := true } }).doneAt a w :=
  issue_ok hi (checked_one (by simp [plainWord_unused hw, ha, hb, hc]))

/-- BR of one of the seven conditions sets the PC where its condition holds (07 R232). -/
theorem effBr_issues (hi : s.issueAt r 0x03 w = some a) (hw : plainWord w = true) (hc : w.c = 0) (hb : w.b.toNat < 2048)
    (hcond : w.b.toNat / 256 % 8 ≠ 7) :
    effBr r w s = (if brCond (w.b.toNat / 256 % 8) ((s.fetched a).sreg r (w.b &&& 15)) ((s.fetched a).sreg r ((w.b >>> 4) &&& 15))
      then (s.fetched a).setPc r (BitVec.ofNat 64 a.pc + (w.a.signExtend 64 <<< 4)).toNat else s.fetched a).doneAt a w :=
  issue_ok hi (checked_one (by simp [plainWord_unused hw, hc, Nat.not_le.mpr hb, hcond]))

/-- WAIT goes on where its token has reached the value, and holds else (06 R189). -/
theorem effWait_issues (hi : s.issueAt r 0x04 w = some a) (hw : plainWord w = true) (ha : okS w.a = true) (hc : w.c = 0) :
    effWait r w s = if waitDone (((s.fetched a).room r).tok.getD w.a.toNat 0) w.b then (s.fetched a).finish r a.pc w
      else (s.fetched a).holdFor r a.pc w (.wait w.a.toNat w.b) :=
  issue_ok hi (checked_one (by simp [plainWord_unused hw, ha, hc]))

/-- FENCE goes on where no instruction of the room is unfinished, and holds else (06 R210). -/
theorem effFence_issues (hi : s.issueAt r 0x05 w = some a) (hw : plainWord w = true) (ha : w.a.toNat ≤ 2) (hb : w.b = 0)
    (hc : w.c = 0) :
    effFence r w s = if ((s.fetched a).room r).infl.isEmpty then (s.fetched a).finish r a.pc w
      else (s.fetched a).holdFor r a.pc w (.fence w.a.toNat) :=
  issue_ok hi (checked_one (by simp [plainWord_unused hw, Nat.not_lt.mpr ha, hb, hc]))

/-- BARRIER of the lease range holds (06 R211). -/
theorem effBarrier_room_issues (hi : s.issueAt r 0x06 w = some a) (hw : plainWord w = true) (hb : w.b = 0) (hc : w.c = 0)
    (hg : (s.fetched a).latchGroup a.c a.li w.a true = .ok none) :
    effBarrier r w s = (s.fetched a).holdFor r a.pc w (.barrier 0 none 0 0) := by
  refine issue_ok hi ?_
  rw [checked_one (by simp [plainWord_unused hw, hb, hc]), hg]

/-- BARRIER of a table group takes the member's next arrival number and holds (06 R211; 12 R428). -/
theorem effBarrier_group_issues {g : Group} (hi : s.issueAt r 0x06 w = some a) (hw : plainWord w = true) (hb : w.b = 0) (hc : w.c = 0)
    (hg : (s.fetched a).latchGroup a.c a.li w.a true = .ok (some g)) :
    effBarrier r w s = ((s.fetched a).arrivalUp a.c a.li g.idx).holdFor r a.pc w
      (.barrier w.a.toNat (some g) ((s.fetched a).arrivalNext a.c a.li g.idx) 0) := by
  refine issue_ok hi ?_
  rw [checked_one (by simp [plainWord_unused hw, hb, hc]), hg]

end

/-! What each release's effect is once the hold's condition holds -/

section
variable {s : State} {r c sl k : Nat}

theorem effWaitRelease_due {v : W32} (hh : (s.room r).seqr.hold = .wait k v) (hd : waitDone ((s.room r).tok.getD k 0) v = true) :
    effWaitRelease r s = s.freeHold r := by
  simp only [effWaitRelease, hh, if_pos hd]

theorem effFenceRelease_due (hh : (s.room r).seqr.hold = .fence k) (hd : (s.room r).infl = []) :
    effFenceRelease r s = s.freeHold r := by
  simp only [effFenceRelease, hh, hd, List.isEmpty_nil, if_true]

/-- A room barrier that every room of the range has reached frees the rooms at it (06 R211, R212). -/
theorem effBarrierRelease_due (h : s.allRooms c sl (State.atBarrier c sl 0) = true) :
    effBarrierRelease c sl 0 s = s.releaseRooms c sl (State.atBarrier c sl 0) :=
  (if_pos rfl).trans (if_pos h)

end

/-- Settles O1: the six instructions by their effect at issue, the two releases by their effect once they are due. -/
theorem controlInstructionsComplete : Obligations.ControlInstructionsComplete := by
  unfold Obligations.ControlInstructionsComplete
  intro s r w a hs t
  refine ⟨?nop, ?stop, ?branch, ?wait, ?fence, ?barrier, ?waitRelease, ?fenceRelease⟩
  case nop => exact fun hi hw ha hb hc => run_eq hs (effNop_issues hi hw ha hb hc)
  case stop => exact fun hi hw ha hb hc => run_eq hs (effEnd_issues hi hw ha hb hc)
  case branch => exact fun hi hw hc hb hcond => run_eq hs (effBr_issues hi hw hc hb hcond)
  case wait => exact fun hi hw ha hc => run_eq hs (effWait_issues hi hw ha hc)
  case fence => exact fun hi hw ha hb hc => run_eq hs (effFence_issues hi hw ha hb hc)
  case barrier =>
    exact fun hi hw hb hc => ⟨fun hg => run_eq hs (effBarrier_room_issues hi hw hb hc hg),
      fun g hg => run_eq hs (effBarrier_group_issues hi hw hb hc hg)⟩
  case waitRelease => exact fun k v hwork hh hd => run_live hs hwork (effWaitRelease_due hh hd)
  case fenceRelease => exact fun k hwork hh hd => run_live hs hwork (effFenceRelease_due hh hd)

/-- Settles O3: the release is the one of a barrier that is due. -/
theorem barrierReleasesTheRange : Obligations.BarrierReleasesTheRange := by
  unfold Obligations.BarrierReleasesTheRange
  exact fun s c sl hs hw h => run_live hs hw (effBarrierRelease_due h)

end Sys2Proof.Machine
end

section
/-! PROOFS. TMUL and TCONV at issue (O5), and the faults of checks that fail (O57). -/

namespace Sys2Proof.Machine

/-! The instructions of one meaning, with their opcodes -/

/-- The products of 07 Table 7.5 in their four modes. -/
def productForms (r : Nat) : List ((TWord → Instr) × Byte) :=
  [(Instr.tTmul r, 0x20#8), (.tTmulOpen r, 0x21#8), (.tTmulMore r, 0x22#8), (.tTmulClose r, 0x23#8),
    (.tTconv r, 0x24#8), (.tTconvOpen r, 0x25#8), (.tTconvMore r, 0x26#8), (.tTconvClose r, 0x27#8)]

/-- The hearth's elementwise and row instructions of 07 Table 7.8. -/
def hearthForms (r : Nat) : List ((TWord → Instr) × Byte) :=
  [(Instr.tVadd r, 0x30#8), (.tVsub r, 0x31#8), (.tVmul r, 0x32#8), (.tVfma r, 0x33#8), (.tVmax r, 0x34#8),
    (.tVmin r, 0x35#8), (.tVexp2 r, 0x36#8), (.tVlog2 r, 0x37#8), (.tVrcp r, 0x38#8), (.tVrsq r, 0x39#8), (.tVsum r, 0x3A#8),
    (.tVlse r, 0x3B#8), (.tVlsem r, 0x3C#8), (.tVscl r, 0x3D#8)]

/-- The meaning of a product is the one issue of its opcode. -/
theorem exec_productForms (s : State) (r : Nat) (w : TWord) :
    ∀ p ∈ productForms r, exec (p.1 w) s = run [bRoom r] s (effTen p.2 r w s) := by
  intro p hp
  unfold productForms at hp
  fin_cases hp <;> rfl

/-- The meaning of a hearth instruction is the one issue of its opcode. -/
theorem exec_hearthForms (s : State) (r : Nat) (w : TWord) :
    ∀ p ∈ hearthForms r, exec (p.1 w) s = run [bRoom r] s (effVec p.2 r w s) := by
  intro p hp
  unfold hearthForms at hp
  fin_cases hp <;> rfl

/-! Issue that goes on, and issue that faults -/

section
variable {s u : State} {r : Nat} {w : TWord} {a : At} {op : Byte} {f : FaultCode}

/-- A product whose checks pass and whose headroom regions have their places is in flight, and its tiles go to their queues
(06 R206 to R209; 04 R706). -/
theorem effTen_issues (hi : s.issueAt r op w = some a) (hc : firstFault (tenAll (s.fetched a) a op w) = none)
    (hu : (((s.fetched a).hdirPlace a.c ((s.fetched a).latch a w.a.toNat)).bind
      fun v => v.hdirPlace a.c ((s.fetched a).latch a w.c.toNat)) = some u) :
    effTen op r w s = ((u.pending1 a op.toNat w (tenInfl u a op w ((s.fetched a).latch a w.a.toNat) ((s.fetched a).latch a w.b.toNat)
      ((s.fetched a).latch a w.c.toNat))).feedTiles a.room a.uid) := by
  refine issue_ok hi ?_
  rw [checked_ok hc]
  dsimp only
  rw [hu]

/-- An instruction of the room that issues and whose first failing check is known raises that check's fault (07 R228). -/
theorem run_issue_checked {cs : At → State → List (Bool × FaultCode)} {k : At → State → Unit → Iss} (hs : s.specified [bRoom r])
    (hi : s.issueAt r op w = some a) (hf : firstFault (cs a (s.fetched a)) = some f) :
    run [bRoom r] s (s.issue r op w fun a t => checked (cs a t) (k a t)) = .next (s.after (s.roomFault r a.pc f)) :=
  run_issue_fault hs hi (checked_bad hf)

end

/-- A failing check at the head of the checks gives their first fault. -/
theorem firstFault_head {b : Bool} {f : FaultCode} {cs : List (Bool × FaultCode)} (h : b = true) : firstFault ((b, f) :: cs) = some f :=
  if_pos h

/-- A check that passes leaves the first fault to the checks after it. -/
theorem firstFault_tail {b : Bool} {f : FaultCode} {cs : List (Bool × FaultCode)} (h : b = false) :
    firstFault ((b, f) :: cs) = firstFault cs := if_neg (by simp [h])

/-- The check of NOP and END fails where an operand is not 0. -/
theorem operands_nonzero {w : TWord} (h : w.a ≠ 0 ∨ w.b ≠ 0 ∨ w.c ≠ 0) (b : Bool) :
    (b || decide (w.a ≠ 0) || decide (w.b ≠ 0) || decide (w.c ≠ 0)) = true := by
  simpa [or_assoc] using Or.inr h

/-- Settles O5: the products share one issue, whose checks pass. -/
theorem productsQueueTheirTiles : Obligations.ProductsQueueTheirTiles := by
  unfold Obligations.ProductsQueueTheirTiles
  intro s u r w a c op hs hmem t h sd d hi hc hu
  exact (exec_productForms s r w (c, op) hmem).trans (run_eq hs (effTen_issues hi hc hu))

/-- Settles O57: the checks that the statement names are those of the issue, and for the others the first one that fails is named. -/
theorem failedChecksRaiseTheirFault : Obligations.FailedChecksRaiseTheirFault := by
  unfold Obligations.FailedChecksRaiseTheirFault
  intro s r w a f hs t raises
  refine ⟨?hearth, ?adam, ?cvt, ?hrclr, ?mov, ?movb, ?spmv, ?nop, ?stop, ?sets, ?dput, ?undefined⟩
  case hearth =>
    intro c op hmem hi hf
    exact (exec_hearthForms s r w (c, op) hmem).trans (run_issue_checked hs hi hf)
  case adam => exact fun hi hf => run_issue_checked hs hi hf
  case cvt => exact fun hi hf => run_issue_checked hs hi hf
  case hrclr => exact fun hi hf => run_issue_checked hs hi hf
  case mov => exact fun hi hf => run_issue_checked hs hi hf
  case movb => exact fun hi hf => run_issue_checked hs hi hf
  case spmv => exact fun hi hf => run_issue_checked hs hi hf
  case nop => exact fun hi h => run_issue_checked hs hi (firstFault_head (operands_nonzero h _))
  case stop => exact fun hi h => run_issue_checked hs hi (firstFault_head (operands_nonzero h _))
  case sets =>
    intro hi h
    have hS : okS w.a = false := decide_eq_false (Nat.not_lt.mpr h)
    exact run_issue_checked hs hi (firstFault_head (by simp [hS]))
  case dput =>
    intro hi hw h
    have hD : okD w.a = false := decide_eq_false (Nat.not_lt.mpr h)
    exact run_issue_checked hs hi ((firstFault_tail (plainWord_unused hw)).trans (firstFault_head (by simp [hD])))
  case undefined =>
    intro op hop hi
    have heff : effUndefinedOpcode r op w s = s.roomFault r a.pc .opcode :=
      (if_neg (by simp [hop])).trans (issue_fault hi rfl)
    exact run_eq hs heff

end Sys2Proof.Machine
end

section
/-! PROOFS. Launches (O17), context commands (O19), and pre-emption with time slicing (O20). -/

namespace Sys2Proof.Machine

/-! Launches: what each event's effect is once it is due -/

section
variable {s : State} {c sl r : Nat}

/-- A device that works is past the states before READY (20 Table 20.2). -/
theorem State.stREADY_le_devState (h : s.working = true) : stREADY ≤ s.devState := by
  simp only [State.working, Bool.or_eq_true, decide_eq_true_iff] at h
  rcases h with (h | h) | h <;> rw [h] <;> decide

/-- The host's write of a SEQ word stores the word, then acts on it (06 R215; 18 R600). -/
theorem effLaunchSeqWrite_working {seq : W64} (hc : c < 16) (hsl : sl < 64) (hw : s.working = true) :
    effLaunchSeqWrite c sl seq s = (s.hbmSet (slotAddr c sl + 0xF8) 8 seq.toNat).seqWritten c sl seq.toNat := by
  have hready : 4 ≤ s.devState := State.stREADY_le_devState hw
  refine if_neg ?_
  rintro (h | h | h | h | h | h)
  · exact Nat.not_le.mpr hc h
  · exact Nat.not_le.mpr hsl h
  all_goals exact absurd hready (by rw [h]; decide)

/-- A held SEQ is acted on once its slot is empty and the module does not drain (06 R216; 20 R654). -/
theorem effLaunchHeldSeq_due {seq : Nat} (hh : (s.lslot c sl).held = some seq) (hl : (s.lslot c sl).launch = none)
    (hd : s.devState ≠ stDRAINING) (hw : s.working = true) :
    effLaunchHeldSeq c sl s = s.seqWritten c sl (s.hbmLe (slotAddr c sl + 0xF8) 8) := by
  simp [effLaunchHeldSeq, hh, hl, hd, hw]

theorem effLaunchRangeStart_due (h : s.mayStart c sl = true) : effLaunchRangeStart c sl s = s.startLaunch c sl := if_pos h

/-- A room whose stream has ended with nothing unfinished counts in its launch (06 R190). -/
theorem effRoomLaunchEnd_due {li : Nat} (hl : (s.room r).seqr.launch = some (c, sl)) (hlease : (s.room r).lease = some (c, li))
    (he : (s.room r).seqr.ended = true) (hi : (s.room r).infl = []) :
    effRoomLaunchEnd r s = s.modLaunch c sl fun l => { l with ended := if l.ended.contains li then l.ended else li :: l.ended } := by
  simp [effRoomLaunchEnd, hl, hlease, he, hi]

/-- A launch that has ended in every room of its range with no fault is done (06 R190, R218). -/
theorem effLaunchComplete_due {l : Launch} (hl : s.launch c sl = some l) (hr : l.running = true) (hf : l.fault = none)
    (he : (State.rangeOf l.lr).all l.ended.contains = true) : effLaunchComplete c sl s = s.finishLaunch c sl csDONE := by
  simp only [effLaunchComplete, hl, hr, hf, he, Option.isNone_none, Bool.and_self, if_true]

theorem effLaunchFaultEnd_due (h : s.faultEnds c sl = true) : effLaunchFaultEnd c sl s = s.finishLaunch c sl csFAULT := if_pos h

end

/-- Settles O17: each event is its effect once the event is due. -/
theorem launchEventsAct : Obligations.LaunchEventsAct := by
  unfold Obligations.LaunchEventsAct
  intro s c sl r l hs
  have hstw : s.specified [bSTW] := specified_sub hs (by simp)
  have hroom : s.specified [bRoom r] := specified_sub hs (by simp)
  refine ⟨?seqWrite, ?heldSeq, ?start, ?roomEnd, ?complete, ?faultEnd⟩
  case seqWrite => exact fun seq hc hsl hw => run_eq hstw (effLaunchSeqWrite_working hc hsl hw)
  case heldSeq => exact fun seq hh hl hd hw => run_eq hstw (effLaunchHeldSeq_due hh hl hd hw)
  case start => exact fun h => run_eq hstw (effLaunchRangeStart_due h)
  case roomEnd => exact fun li hw hl hlease he hi => run_live hroom hw (effRoomLaunchEnd_due hl hlease he hi)
  case complete => exact fun hw hl hr hf he => run_live hstw hw (effLaunchComplete_due hl hr hf he)
  case faultEnd => exact fun hw h => run_live hstw hw (effLaunchFaultEnd_due h)

/-! Context commands: what each command's effect is once it goes and its own checks pass -/

section
variable {s t : State} {q : Req} {rooms : List Nat} {x : Ctx}

/-- A creation of a free context index whose lease, ladder entries and rooms fit creates the context (06 R199, R202). -/
theorem effCtxCreate_goes {b : Nat} {d : CtxDesc} (hd : d = State.CtxDesc.parse (q.bodyAt 0 256))
    (hgo : s.cmdGoes q 1 1 false t) (hc : q.arg 0 < 16) (hresv : ctxReserved (q.bodyAt 0 256) = false) (hnew : t.ctx (q.arg 0) = none)
    (hlease : t.badLease d rooms.length = false) (hladder : t.freeLadder d.ladders = some b)
    (hrooms : t.grantable rooms = true ∧ d.roomsMin ≤ rooms.length ∧ rooms.length ≤ d.roomsMax ∧ 0 < rooms.length) :
    effCtxCreate q rooms s = (t.createCtx (q.arg 0) d b rooms).answer q { status := cOK } := by
  subst hd
  refine cmd_goes hgo ?_
  have hvalid : ¬(q.arg 0 ≥ 16 ∨ ctxReserved (q.bodyAt 0 256) = true) := by simp [hc, hresv]
  dsimp only
  rw [if_neg hvalid, if_neg (by simp [hnew]), if_neg (by simp [hlease]), hladder]
  exact if_pos hrooms

/-- A context with no launch in its slots is destroyed (06 R200). -/
theorem effCtxDestroy_goes (hgo : s.cmdGoes q 2 1 false t) (hx : t.ctx (q.arg 0) = some x)
    (hidle : x.slots.all (fun l => l.launch.isNone) = true) :
    effCtxDestroy q s = (t.destroyCtx (q.arg 0) x).answer q { status := cOK } := by
  have hfree : ¬ (x.slots.any fun l => l.launch.isSome) = true := by simpa using hidle
  exact cmd_goes hgo ((onCtx_some hx).trans (if_neg hfree))

theorem effCtxReset_goes (hgo : s.cmdGoes q 3 1 false t) (hx : t.ctx (q.arg 0) = some x) :
    effCtxReset q rooms s = (t.resetCtx (q.arg 0) rooms).answer q { status := cOK } :=
  cmd_goes hgo (onCtx_some hx)

end

/-- Settles O19: each command goes, and its own checks pass. -/
theorem contextCommandsAct : Obligations.ContextCommandsAct := by
  unfold Obligations.ContextCommandsAct
  intro s t q rooms hs c d
  have hstw : s.specified [bSTW] := specified_sub hs (by simp)
  refine ⟨?create, ?destroy, ?reset⟩
  case create =>
    intro b hgo hc hresv hnew hlease hladder hgrant hmin hmax hpos
    exact run_eq hs (effCtxCreate_goes rfl hgo hc hresv hnew hlease hladder ⟨hgrant, hmin, hmax, hpos⟩)
  case destroy => exact fun x hgo hx hidle => run_eq hstw (effCtxDestroy_goes hgo hx hidle)
  case reset => exact fun x hgo hx => run_eq hstw (effCtxReset_goes hgo hx)

/-! Pre-emption and time slicing: what each event's effect is once it is due -/

section
variable {s : State} {c r li : Nat} {x : Ctx}

/-- The rooms that hold a context's lease, with their lease indices. -/
def State.heldRooms (s : State) (c : Nat) (x : Ctx) : List (Nat × Nat) :=
  x.rooms.zipIdx.filter fun v => (s.room v.1).lease = some (c, v.2)

/-- The state with the rooms that hold a context's lease stopped (06 R204). -/
def State.heldStopped (s : State) (c : Nat) (x : Ctx) : State :=
  ((s.heldRooms c x).map (·.1)).foldl (fun t r => t.stopRoom r) s

/-- A leased room that is at its pre-emption point once it stops, with no fault, is saved (08 R301, R302). -/
theorem effPreemptRoom_due (hl : (s.room r).lease.isSome = true) (hrole : (s.room r).role ≠ 3) (hp : (s.stopRoom r).atPoint r = true)
    (hf : (s.stopRoom r).faulted r = false) : effPreemptRoom r s = (s.stopRoom r).saveRoom r := by
  have hgoes : ¬ ((s.room r).lease.isNone || decide ((s.room r).role = 3)) = true := by simp [hrole, Option.isSome_iff_ne_none.mp hl]
  exact (if_neg hgoes).trans (if_pos (by simp [hp, hf]))

/-- A room of a context that is in is read back into a free active room (08 R302). -/
theorem effRestoreRoom_due (hx : s.ctx c = some x) (hin : x.slicedOut = false) (hg : s.grantable [r] = true)
    (hfree : s.allFree [r] = true) (hli : li < x.rooms.length) : effRestoreRoom c li r s = s.loadRoom c li r := by
  simp only [effRestoreRoom, hx]
  exact if_neg (by simp [hin, hg, hfree, hli])

/-- A quantum that is over with no equal waiting begins again (06 R203). -/
theorem effQuantumExpiry_again (hx : s.ctx c = some x) (hin : x.slicedOut = false) (hover : x.quantum.1 + x.quantum.2 ≤ s.now)
    (h : s.contended = false ∨ s.equalWaits c = false) :
    effQuantumExpiry c s = s.modCtx c fun y => { y with quantum := (s.now, s.quantumNs c) } := by
  simp only [effQuantumExpiry, hx]
  rw [if_neg (by simp [hin, hover])]
  exact if_pos (by simpa using h)

/-- A quantum that is over with an equal waiting stops the context's rooms and marks it to give way (06 R203). -/
theorem effQuantumExpiry_rotates (hx : s.ctx c = some x) (hin : x.slicedOut = false) (hover : x.quantum.1 + x.quantum.2 ≤ s.now)
    (hcont : s.contended = true) (hwait : s.equalWaits c = true) :
    effQuantumExpiry c s = ((s.heldRooms c x).foldl (fun t v => t.stopRoom v.1) s).modCtx c fun y => { y with rotate := true } := by
  simp only [effQuantumExpiry, hx]
  rw [if_neg (by simp [hin, hover]), if_neg (by simp [hcont, hwait])]
  rfl

/-- The LND_CTL of a context that is there (04 R157). -/
theorem State.lndOf_some (hx : s.ctx c = some x) : s.lndOf c = (x.rooms.head?.map fun r => s.reg (rLND_CTL r)).getD x.lnd := by
  simp only [State.lndOf, hx]

/-- A context that gives way stops its rooms and goes out whole once all are at their points with no fault (06 R203, R204). -/
theorem State.sliceOut_due (hx : s.ctx c = some x) (hin : x.slicedOut = false) (hgive : s.givesWay c = true) :
    s.sliceOut c =
      let rs := (s.heldRooms c x).map (·.1)
      let u := s.heldStopped c x
      if (rs.all fun r => u.atPoint r && !u.faulted r) = true then
        (rs.foldl (fun t r => t.saveRoom r) u).modCtx c fun y => { y with
          rooms := [], slicedOut := true, rotate := false, turn := s.lastTurn
          lnd := (x.rooms.head?.map fun r => s.reg (rLND_CTL r)).getD x.lnd }
      else u := by
  simp only [State.sliceOut, hx, State.lndOf_some hx]
  rw [if_neg (by simp [hin, hgive])]
  rfl

/-- The next context comes in whole into as many free active rooms as it had (06 R203, R204). -/
theorem State.sliceIn_due {rooms : List Nat} (hx : s.ctx c = some x) (hout : x.slicedOut = true) (hnext : s.nextIn c = true)
    (hg : s.grantable rooms = true) (hfree : s.allFree rooms = true) (hlen : rooms.length = x.size) :
    s.sliceIn c rooms = rooms.zipIdx.foldl (fun t v => t.loadRoom c v.2 v.1)
      ((s.modCtx c fun y => { y with rooms := rooms, slicedOut := false }).placeLease c rooms) := by
  simp only [State.sliceIn, hx]
  exact if_neg (by simp [hout, hnext, hg, hfree, hlen])

end

/-- Settles O20: each event is its effect once it is due. -/
theorem preemptionActs : Obligations.PreemptionActs := by
  unfold Obligations.PreemptionActs
  intro s c r x hs hw
  have hstw : s.specified [bSTW] := specified_sub hs (by simp)
  refine ⟨?preempt, ?restore, ?expiry, ?out, ?back⟩
  case preempt => exact fun hl hrole hp hf => run_live hs hw (effPreemptRoom_due hl hrole hp hf)
  case restore => exact fun li hx hin hg hfree hli => run_live hs hw (effRestoreRoom_due hx hin hg hfree hli)
  case expiry =>
    exact fun hx hin hover => ⟨fun hcont hwait => run_live hstw hw (effQuantumExpiry_rotates hx hin hover hcont hwait),
      fun h => run_live hstw hw (effQuantumExpiry_again hx hin hover h)⟩
  case out =>
    intro hx hin hgive rs u
    refine ⟨fun hready => ?_, fun hnot => ?_⟩
    · exact run_live hstw hw ((State.sliceOut_due hx hin hgive).trans (if_pos hready))
    · exact run_live hstw hw ((State.sliceOut_due hx hin hgive).trans (if_neg (ne_true_of_eq_false hnot)))
  case back => exact fun rooms hx hout hnext hg hfree hlen => run_live hstw hw (State.sliceIn_due hx hout hnext hg hfree hlen)

end Sys2Proof.Machine
end

section
/-! PROOFS. Tiruf words and the commands they spell (O51). -/

namespace Sys2Proof

/-! The fields of a word (07 Table 7.1) -/

/-- Bits [127:120] of an instruction's word are its opcode. -/
@[simp] theorem wordOp_encode (op : Byte) (w : TWord) : wordOp (w.encode op) = op := by
  simp only [wordOp, TWord.encode, BitVec.extractLsb'_append_eq_of_le, Nat.reduceLeDiff, Nat.reduceSub, BitVec.extractLsb'_eq_self]

/-- The fields of an instruction's word are the instruction's. -/
@[simp] theorem TWord.decode_encode (op : Byte) (w : TWord) : TWord.decode (w.encode op) = w := by
  simp only [TWord.decode, TWord.encode, BitVec.extractLsb'_append_eq_of_le, BitVec.extractLsb'_append_eq_right,
    BitVec.getLsbD_append, Nat.reduceLeDiff, Nat.reduceLT, Nat.reduceSub, if_false, if_true, BitVec.getLsbD_ofBool, decide_true,
    Bool.true_and]

/-- One bit of a word, as a word of its own. -/
theorem ofBool_getLsbD {n : Nat} (x : BitVec n) (i : Nat) : BitVec.ofBool (x.getLsbD i) = x.extractLsb' i 1 := by
  ext j hj
  obtain rfl : j = 0 := by omega
  simp

/-- A word is its opcode and its fields: neighbouring fields join. -/
@[simp] theorem TWord.encode_decode (x : BitVec 128) : (TWord.decode x).encode (wordOp x) = x := by
  simp only [TWord.decode, TWord.encode, wordOp, ofBool_getLsbD]
  simp (disch := omega) only [BitVec.extractLsb'_append_extractLsb'_eq_extractLsb']
  exact BitVec.extractLsb'_eq_self

/-! Commands and opcodes (07 Table 7.2) -/

/-- An opcode outside the table spells the undefined instruction (07 R227). -/
theorem tirufInstr_undefined {op : Byte} (h : definedOp op = false) (r : Nat) (w : TWord) :
    tirufInstr r op w = .undefinedOpcode r op w := by
  unfold tirufInstr
  split
  case h_62 => rfl
  all_goals
    rename_i hop
    obtain rfl := (BitVec.toNat_eq_nat.mp hop).2
    cases h

/-- A well-formed Tiruf command is the one that its own opcode and fields spell. -/
theorem tirufInstr_of_tiruf {i : Instr} {r : Nat} {op : Byte} {w : TWord} (hwf : i.wf = true) (h : i.tiruf = some (r, op, w)) :
    tirufInstr r op w = i := by
  unfold Instr.tiruf at h
  split at h
  case h_62 =>
    cases h
    obtain ⟨-, hop⟩ := Bool.and_eq_true_iff.mp hwf
    exact tirufInstr_undefined (by simpa using hop) r w
  case h_63 => cases h
  all_goals
    cases h
    rfl

/-- The command that an opcode and fields spell has that opcode and those fields. -/
theorem tiruf_tirufInstr (r : Nat) (op : Byte) (w : TWord) : (tirufInstr r op w).tiruf = some (r, op, w) := by
  unfold tirufInstr
  split
  case h_62 => rfl
  all_goals
    rename_i hop
    obtain rfl := (BitVec.toNat_eq_nat.mp hop).2
    rfl

end Sys2Proof

namespace Sys2Proof.Machine

/-- Settles O51: the opcode and the fields are read back from the word, and each spells its command and no other. -/
theorem tirufWordsRoundTrip : Obligations.TirufWordsRoundTrip := by
  unfold Obligations.TirufWordsRoundTrip
  refine ⟨fun i r op w x hwf hi hx => ?_, fun r x => ?_⟩
  · obtain rfl : w.encode op = x := by simpa [encodeTiruf, hi] using hx
    rw [decodeTiruf, wordOp_encode, TWord.decode_encode, tirufInstr_of_tiruf hwf hi]
  · rw [encodeTiruf, decodeTiruf, tiruf_tirufInstr]
    exact congrArg some (TWord.encode_decode x)

end Sys2Proof.Machine
end

section
/-! PROOFS. What a step does to the queue (O52). -/

namespace Sys2Proof.Machine

/-! A command's answer -/

/-- What a command can answer: the stop of an open block, or an effect beside the queue (00 R704; log 1). -/
def Answers (s : State) (o : Host.Outcome State Fault Refusal) : Prop :=
  o = .fault .rsvUnspecified ∨ ∃ t, o = .next (s.after t)

namespace Answers

variable {s : State}

theorem run (bs : List Nat) (t : State) : Answers s (run bs s t) := (run_cases bs s t).imp_right fun h => ⟨t, h⟩

theorem effect (t : State) : Answers s (.next (s.after t)) := .inr ⟨t, rfl⟩

/-- A meaning with a stop of its own before it. -/
theorem guarded {p : Prop} [Decidable p] {o : Host.Outcome State Fault Refusal} (h : Answers s o) :
    Answers s (if p then .fault .rsvUnspecified else o) := by
  split
  · exact .inl rfl
  · exact h

/-- The queue that a command leaves is the one it found. -/
theorem pending {o : Host.Outcome State Fault Refusal} {t : State} (h : Answers s o) (ht : o = .next t) : t.pending = s.pending := by
  subst ht
  obtain h | ⟨u, h⟩ := h
  · cases h
  · cases h
    rfl

end Answers

/-- Every command's meaning is `run`, but for four writes that their target's open block stops first (log 9). -/
theorem exec_answers (c : Instr) (s : State) : Answers s (exec c s) := by
  cases c
  case registerWrite => exact .guarded (.effect _)
  case mmuInvalidate => exact .guarded (.effect _)
  case rowmapWrite => exact .guarded (.effect _)
  case write => exact .guarded (.run _ _)
  all_goals
    unfold exec
    exact .run _ _

/-! With no command waiting, posted writes leave and time passes -/

namespace State

variable (s : State)

theorem foldl_pending {α : Type} {f : State → α → State} (h : ∀ u x, (f u x).pending = u.pending) (l : List α) :
    (l.foldl f s).pending = s.pending := by
  induction l generalizing s with
  | nil => rfl
  | cons x l ih => rw [List.foldl_cons, ih, h]

theorem pumpN_pending (p n : Nat) : (pumpN p n s).pending = s.pending := by
  induction n generalizing s with
  | zero => rfl
  | succ n ih =>
    unfold pumpN
    split
    · rfl
    split
    · rfl
    dsimp only
    split
    · rfl
    · exact ih _

@[simp] theorem sendRaw_pending (p : Nat) (k : Packet) : (s.sendRaw p k).pending = s.pending := pumpN_pending _ p _

@[simp] theorem send_pending (k : Packet) : (s.send k).pending = s.pending := by
  unfold send
  split
  · rfl
  split
  · exact s.sendRaw_pending _ _
  · split <;> rfl

@[simp] theorem request_pending (who : ReqFor) (k : Packet) : (s.request who k).pending = s.pending := send_pending _ _

@[simp] theorem sendPosted_pending : s.sendPosted.pending = s.pending :=
  foldl_pending _ (fun u _ => foldl_pending u (fun v _ => v.request_pending _ _) _) _

@[simp] theorem elapse_pending (ns : Nat) : (s.elapse ns).pending = s.pending := by
  obtain ⟨t, d, e⟩ := s.elapse_only ns
  rw [e]

@[simp] theorem idle_pending : s.idle.pending = s.pending := by
  unfold idle
  split
  · rfl
  · rw [elapse_pending, sendPosted_pending]

end State

/-! A step -/

variable {s t : State}

/-- A step that goes on takes the command at the front, if there is one, and adds none. -/
theorem step_pending (h : step s = .next t) : t.pending = s.pending.tail := by
  unfold step at h
  split at h
  next hp =>
    cases h
    rw [State.idle_pending, hp, List.tail_nil]
  next c rest hp =>
    rw [(exec_answers c _).pending h, hp, List.tail_cons]

/-- Settles O52: the queue after a step is the tail of the queue before it. -/
theorem stepsKeepTheQueue : Obligations.StepsKeepTheQueue := by
  unfold Obligations.StepsKeepTheQueue
  intro s t h
  have hq : t.pending = s.pending.tail := step_pending h
  refine ⟨hq, fun hwf => ?_⟩
  rw [State.queueWf, hq, List.all_eq_true]
  exact fun c hc => List.all_eq_true.mp hwf c (List.mem_of_mem_tail hc)

end Sys2Proof.Machine
end

section
/-! PROOFS. The scalar and descriptor instructions (O2), and TRIG, MARK and SNAP (O12), at issue. -/

namespace Sys2Proof.Machine

/-! What each instruction's effect is once its word issues and its operands are within their rules -/

section
variable {s : State} {r : Nat} {w : TWord} {a : At}

theorem effSets_issues (hi : s.issueAt r 0x07 w = some a) (hw : plainWord w = true) (ha : okS w.a = true) :
    effSets r w s = ((s.fetched a).setSreg r w.a (w.c ++ w.b)).doneAt a w :=
  issue_ok hi (checked_one (by simp [plainWord_unused hw, ha]))

theorem effAdds_issues (hi : s.issueAt r 0x08 w = some a) (hw : plainWord w = true) (ha : okS w.a = true) (hb : okS w.b = true) :
    effAdds r w s = ((s.fetched a).setSreg r w.a ((s.fetched a).sreg r w.b + w.c.signExtend 64)).doneAt a w :=
  issue_ok hi (checked_one (by simp [plainWord_unused hw, ha, hb]))

theorem effLds_issues (hi : s.issueAt r 0x09 w = some a) (hw : plainWord w = true) (ha : okS w.a = true)
    (hb : okP w.b 8 8 = true) (hc : w.c = 0) :
    effLds r w s = ({ (s.fetched a).setSreg r w.a (BitVec.ofNat 64 ((s.fetched a).pantLe r a.uid w.b.toNat 8)) with
      free := (s.fetched a).free + 1 } : State).doneAt a w :=
  issue_ok hi (checked_one (by simp [plainWord_unused hw, ha, hb, hc]))

theorem effSts_issues (hi : s.issueAt r 0x0A w = some a) (hw : plainWord w = true) (ha : okS w.a = true)
    (hb : okP w.b 8 8 = true) (hc : w.c = 0) :
    effSts r w s = ((s.fetched a).pantStore r a.uid w.b.toNat (leBytes 8 ((s.fetched a).sreg r w.a).toNat)).doneAt a w :=
  issue_ok hi (checked_one (by simp [plainWord_unused hw, ha, hb, hc]))

/-- DPUT of an aligned offset in the descriptor stores there (07 R233). -/
theorem effDput_issues (hi : s.issueAt r 0x0B w = some a) (hw : plainWord w = true) (ha : okD w.a = true)
    (h8 : w.b.toNat % 8 = 0) (hmax : w.b.toNat ≤ 0x78) (hc : okS w.c = true) :
    effDput r w s = ((s.fetched a).pantStore r a.uid (descTab + 128 * w.a.toNat + w.b.toNat)
      (leBytes 8 ((s.fetched a).sreg r w.c).toNat)).doneAt a w := by
  refine issue_ok hi ?_
  rw [checked_pass (plainWord_unused hw), checked_pass (by simp [ha]), checked_one (by simp [h8, hc, Nat.not_lt.mpr hmax])]
  rfl

theorem effTokrd_issues (hi : s.issueAt r 0x0C w = some a) (hw : plainWord w = true) (ha : okS w.a = true) (hb : okS w.b = true)
    (hc : w.c = 0) :
    effTokrd r w s = ((s.fetched a).setSreg r w.a ((((s.fetched a).room r).tok.getD w.b.toNat 0).setWidth 64)).doneAt a w :=
  issue_ok hi (checked_one (by simp [plainWord_unused hw, ha, hb, hc]))

/-- CAPS stores its record (06 R219). -/
theorem effCaps_issues (hi : s.issueAt r 0xF0 w = some a) (hw : plainWord w = true) (ha : okP w.a 8 64 = true) (hb : w.b = 0)
    (hc : w.c = 0) :
    effCaps r w s = ((s.fetched a).pantStore r a.uid w.a.toNat (capsBytes (s.fetched a) r a.c a.li)).doneAt a w :=
  issue_ok hi (checked_one (by simp [plainWord_unused hw, ha, hb, hc]))

/-- An opcode outside the table faults (07 R227). -/
theorem effUndefinedOpcode_issues {op : Byte} (hi : s.issueAt r op w = some a) (hop : definedOp op = false) :
    effUndefinedOpcode r op w s = s.roomFault r a.pc .opcode :=
  (if_neg (by simp [hop])).trans (issue_fault hi rfl)

/-- TRIG completes, and then freezes and triggers as its bits ask (07 R265; 17 R571, R581). -/
theorem effTrig_issues (hi : s.issueAt r 0x90 w = some a) (hw : plainWord w = true) (ha : w.a ≠ 0#32) (hb : w.b = 0)
    (hc : w.c = 0) :
    effTrig r w s =
      let t := (s.fetched a).finish r a.pc w
      let t1 := if w.a.getLsbD 1 then t.freezeTrigger else t
      if w.a.getLsbD 0 then t1.trigger r 0 else t1 :=
  issue_ok hi (checked_one (by simp [plainWord_unused hw, ha, hb, hc]))

theorem effMark_issues (hi : s.issueAt r 0x91 w = some a) (hw : plainWord w = true) (hb : w.b = 0) (hc : w.c = 0) :
    effMark r w s = ((s.fetched a).trace r 15 tyMARK (some a.c)
      (leBytes 4 w.a.toNat ++ leBytes 2 a.li ++ leBytes 2 0 ++ leBytes 8 a.pc)).doneAt a w :=
  issue_ok hi (checked_one (by simp [plainWord_unused hw, hb, hc]))

/-- SNAP of one of the six families stores its snapshot (17 R575). -/
theorem effSnap_issues (hi : s.issueAt r 0x92 w = some a) (hw : plainWord w = true) (ha : w.a.toNat < 512)
    (hfam : w.a.toNat % 256 ≤ 5) (hc : w.c = 0)
    (hb : okP w.b 8 (snapBytes (s.fetched a) r (w.a.toNat % 256) (w.a.getLsbD 8)).length = true) :
    effSnap r w s = ({ (s.fetched a).pantStore r a.uid w.b.toNat
      (snapBytes (s.fetched a) r (w.a.toNat % 256) (w.a.getLsbD 8)) with free := (s.fetched a).free + 1 } : State).doneAt a w :=
  issue_ok hi (checked_one (by simp [plainWord_unused hw, Nat.not_le.mpr ha, Nat.not_lt.mpr hfam, hb, hc, -BitVec.getLsbD_eq_getElem]))

end

/-- Settles O2: each form is its effect at issue, on operands that pass its checks. -/
theorem scalarInstructionsComplete : Obligations.ScalarInstructionsComplete := by
  unfold Obligations.ScalarInstructionsComplete
  intro s r w a hs t
  refine ⟨?sets, ?adds, ?lds, ?sts, ?dput, ?tokrd, ?caps, ?undefined⟩
  case sets => exact fun hi hw ha => run_eq hs (effSets_issues hi hw ha)
  case adds => exact fun hi hw ha hb => run_eq hs (effAdds_issues hi hw ha hb)
  case lds => exact fun hi hw ha hb hc => run_eq hs (effLds_issues hi hw ha hb hc)
  case sts => exact fun hi hw ha hb hc => run_eq hs (effSts_issues hi hw ha hb hc)
  case dput => exact fun hi hw ha h8 hmax hc => run_eq hs (effDput_issues hi hw ha h8 hmax hc)
  case tokrd => exact fun hi hw ha hb hc => run_eq hs (effTokrd_issues hi hw ha hb hc)
  case caps => exact fun hi hw ha hb hc => run_eq hs (effCaps_issues hi hw ha hb hc)
  case undefined => exact fun op hi hop => run_eq hs (effUndefinedOpcode_issues hi hop)

/-- Settles O12: each form is its effect at issue, on operands that pass its one check. -/
theorem debugInstructionsComplete : Obligations.DebugInstructionsComplete := by
  unfold Obligations.DebugInstructionsComplete
  intro s r w a hs t
  refine ⟨?trig, ?mark, ?snap⟩
  case trig => exact fun hi hw ha hb hc => run_eq hs (effTrig_issues hi hw ha hb hc)
  case mark => exact fun hi hw hb hc => run_eq hs (effMark_issues hi hw hb hc)
  case snap => exact fun hi hw ha hfam hc hb => run_eq hs (effSnap_issues hi hw ha hfam hc hb)

end Sys2Proof.Machine
end

section
/-! PROOFS. What an instruction that completes at its issue leaves unchanged: the scalar and control instructions (O55) and the
stores (O56). -/

namespace Sys2Proof.Machine

/-! What stays outside a room, and a view of the room itself -/

/-- From `s` to `t` only room `r` changes, with the trace and the engines' own state; of the room, what `g` sees stays. -/
structure Keeps {α : Type} (g : Room → α) (r : Nat) (s t : State) : Prop where
  hbm : t.hbm = s.hbm
  buttery : t.buttery = s.buttery
  hostMem : t.hostMem = s.hostMem
  ctxs : t.ctxs = s.ctxs
  pending : t.pending = s.pending
  reg : ∀ o, o ≠ rDBG_TRACE_LOST → t.reg o = s.reg o
  others : ∀ q, q ≠ r → t.room q = s.room q
  own : g (t.room r) = g (s.room r)

/-- A view of a room does not see what issue and completion of a word change: number, sequencer, what a store kept, and its token. -/
structure SeesNoIssue {α : Type} (g : Room → α) (w : TWord) : Prop where
  issue : ∀ x n q, g { x with nextUid := n, seqr := q } = g x
  prior : ∀ x p, g { x with prior := p } = g x
  token : ∀ x v, w.tke = true → g { x with tok := x.tok.set w.token.toNat v } = g x

/-- An update of a room that a view does not see, whether the room is there or not. -/
theorem State.view_modRoom {α : Type} {g : Room → α} {f : Room → Room} (s : State) (r : Nat) (h : g (f (s.room r)) = g (s.room r)) :
    g ((s.modRoom r f).room r) = g (s.room r) := by
  by_cases hr : r < s.rooms.length
  · rw [s.room_modRoom_self f hr, h]
  · rw [State.room, State.modRoom_rooms, List.set_eq_of_length_le (Nat.not_lt.mp hr), State.room]

namespace Keeps

variable {α : Type} {g : Room → α} {r : Nat} {s t u : State} {w : TWord} {a : At}

theorem trans (h : Keeps g r s t) (k : Keeps g r t u) : Keeps g r s u where
  hbm := k.hbm.trans h.hbm
  buttery := k.buttery.trans h.buttery
  hostMem := k.hostMem.trans h.hostMem
  ctxs := k.ctxs.trans h.ctxs
  pending := k.pending.trans h.pending
  reg o ho := (k.reg o ho).trans (h.reg o ho)
  others q hq := (k.others q hq).trans (h.others q hq)
  own := k.own.trans h.own

theorem refl : Keeps g r s s := ⟨rfl, rfl, rfl, rfl, rfl, fun _ _ => rfl, fun _ _ => rfl, rfl⟩
theorem farDrop (who : FarWho) : Keeps g r s (s.farDrop who) := ⟨rfl, rfl, rfl, rfl, rfl, fun _ _ => rfl, fun _ _ => rfl, rfl⟩
theorem bump (fam unit idx n : Nat) : Keeps g r s (s.bump fam unit idx n) :=
  ⟨rfl, rfl, rfl, rfl, rfl, fun _ _ => rfl, fun _ _ => rfl, rfl⟩
theorem free (n : Nat) : Keeps g r s { s with free := n } := ⟨rfl, rfl, rfl, rfl, rfl, fun _ _ => rfl, fun _ _ => rfl, rfl⟩

theorem modRoom {f : Room → Room} (h : g (f (s.room r)) = g (s.room r)) : Keeps g r s (s.modRoom r f) :=
  ⟨rfl, rfl, rfl, rfl, rfl, fun _ _ => rfl, fun _ hq => s.room_modRoom_ne f hq, s.view_modRoom r h⟩

theorem trace (island unit ty : Nat) (c : Option Nat) (pay : List Byte) : Keeps g r s (s.trace island unit ty c pay) := by
  obtain ⟨d, n, e, hreg⟩ := s.trace_only island unit ty c pay
  rw [e] at hreg ⊢
  exact ⟨rfl, rfl, rfl, rfl, rfl, hreg, fun _ _ => rfl, rfl⟩

/-- Issue (06 R187). -/
theorem fetched (hg : SeesNoIssue g w) : Keeps g a.room s (s.fetched a) :=
  ((farDrop _).trans (modRoom (hg.issue _ _ _))).trans ((trace _ _ _ _ _).trans (bump _ _ _ _))

theorem tokenOf (hg : SeesNoIssue g w) : Keeps g r s (s.tokenOf r w) := by
  unfold State.tokenOf
  split
  next htke => exact modRoom (hg.token _ _ htke)
  next => exact refl

/-- Completion, with the word's token (07 R225). -/
theorem finish (hg : SeesNoIssue g w) (pc : Nat) : Keeps g r s (s.finish r pc w) := (trace _ _ _ _ _).trans (tokenOf hg)

theorem doneAt (hg : SeesNoIssue g w) : Keeps g a.room s (s.doneAt a w) := (modRoom (hg.prior _ _)).trans (finish hg _)

/-- A store in the room's pantry (06 R188). -/
theorem pantStore {uid off : Nat} {bs : List Byte}
    (h : ∀ p, g { s.room r with pantry := s.settle r uid [(ownBase + off, bs.length)] ((s.room r).pantry.write off bs), prior := p }
      = g (s.room r)) : Keeps g r s (s.pantStore r uid off bs) := by
  obtain ⟨p, e⟩ := s.pantStore_only r uid off bs
  rw [e]
  exact (modRoom (h _)).trans (free _)

/-- An instruction that goes on and completes at its issue: what its effect between the two keeps, the instruction keeps. -/
theorem of_completes {bs : List Nat} {eff : State} {op : Byte} (hg : SeesNoIssue g w) (hi : s.issueAt r op w = some a)
    (he : eff = u.doneAt a w) (hu : Keeps g r (s.fetched a) u) (hx : run bs s eff = .next t) : Keeps g r s t := by
  obtain rfl := issueAt_room hi
  obtain h | h := run_cases bs s eff
  · rw [h] at hx
    cases hx
  · rw [h, he] at hx
    cases hx
    have hk : Keeps g a.room s (u.doneAt a w) := ((fetched hg).trans hu).trans (doneAt hg)
    exact ⟨hk.hbm, hk.buttery, hk.hostMem, hk.ctxs, rfl, hk.reg, hk.others, hk.own⟩

end Keeps

section
variable {α : Type} {g : Room → α} {s t : State} {r : Nat} {w : TWord} {a : At} {c : Instr}

/-! The scalar and control instructions -/

/-- The scalar and control instructions of the frame, and what each issues from. -/
abbrev ScalarForm (s : State) (r : Nat) (w : TWord) (a : At) (c : Instr) : Prop :=
  c = .tSets r w ∧ s.issueAt r 0x07 w = some a ∧ okS w.a = true
    ∨ c = .tAdds r w ∧ s.issueAt r 0x08 w = some a ∧ okS w.a = true ∧ okS w.b = true
    ∨ c = .tLds r w ∧ s.issueAt r 0x09 w = some a ∧ okS w.a = true ∧ okP w.b 8 8 = true ∧ w.c = 0
    ∨ c = .tTokrd r w ∧ s.issueAt r 0x0C w = some a ∧ okS w.a = true ∧ okS w.b = true ∧ w.c = 0
    ∨ c = .tNop r w ∧ s.issueAt r 0x01 w = some a ∧ w.a = 0 ∧ w.b = 0 ∧ w.c = 0
    ∨ c = .tEnd r w ∧ s.issueAt r 0x02 w = some a ∧ w.a = 0 ∧ w.b = 0 ∧ w.c = 0

/-- Such an instruction keeps what a view sees that sees no issue and not the scalar of an instruction that writes one. -/
theorem ScalarForm.keeps (h : ScalarForm s r w a c) (hw : plainWord w = true) (hx : exec c s = .next t) (hg : SeesNoIssue g w)
    (hs : c ≠ .tNop r w → c ≠ .tEnd r w → ∀ x v, g { x with sreg := x.sreg.set (w.a.toNat % 16) v } = g x) : Keeps g r s t := by
  obtain ⟨rfl, hi, ha⟩ | ⟨rfl, hi, ha, hb⟩ | ⟨rfl, hi, ha, hb, hc⟩ | ⟨rfl, hi, ha, hb, hc⟩ | ⟨rfl, hi, ha, hb, hc⟩
    | ⟨rfl, hi, ha, hb, hc⟩ := h
  · exact .of_completes (bs := [bRoom r]) hg hi (effSets_issues hi hw ha) (.modRoom (hs nofun nofun _ _)) hx
  · exact .of_completes (bs := [bRoom r]) hg hi (effAdds_issues hi hw ha hb) (.modRoom (hs nofun nofun _ _)) hx
  · exact .of_completes (bs := [bRoom r]) hg hi (effLds_issues hi hw ha hb hc) ((Keeps.modRoom (hs nofun nofun _ _)).trans (.free _)) hx
  · exact .of_completes (bs := [bRoom r]) hg hi (effTokrd_issues hi hw ha hb hc) (.modRoom (hs nofun nofun _ _)) hx
  · exact .of_completes (bs := [bRoom r]) hg hi (effNop_issues hi hw ha hb hc) .refl hx
  · exact .of_completes (bs := [bRoom r]) hg hi (effEnd_issues hi hw ha hb hc) (.modRoom (hg.issue _ _ _)) hx

/-- The scalar that such an instruction names is one of the 16. -/
theorem ScalarForm.scalar_lt (h : ScalarForm s r w a c) (hn : c ≠ .tNop r w) (he : c ≠ .tEnd r w) : w.a.toNat < 16 := by
  obtain ⟨-, -, ha⟩ | ⟨-, -, ha, -⟩ | ⟨-, -, ha, -⟩ | ⟨-, -, ha, -⟩ | ⟨rfl, -⟩ | ⟨rfl, -⟩ := h
  iterate 4 exact of_decide_eq_true ha
  · exact absurd rfl hn
  · exact absurd rfl he

/-! The stores -/

/-- The instructions that store at issue, what each issues from, and the place and length of what it stores. -/
abbrev StoreForm (s : State) (r : Nat) (w : TWord) (a : At) (c : Instr) (off n : Nat) : Prop :=
  c = .tSts r w ∧ s.issueAt r 0x0A w = some a ∧ okS w.a = true ∧ okP w.b 8 8 = true ∧ w.c = 0 ∧ off = w.b.toNat ∧ n = 8
    ∨ c = .tDput r w ∧ s.issueAt r 0x0B w = some a ∧ okD w.a = true ∧ w.b.toNat % 8 = 0 ∧ w.b.toNat ≤ 0x78 ∧ okS w.c = true
        ∧ off = descTab + 128 * w.a.toNat + w.b.toNat ∧ n = 8
    ∨ c = .tCaps r w ∧ s.issueAt r 0xF0 w = some a ∧ okP w.a 8 64 = true ∧ w.b = 0 ∧ w.c = 0 ∧ off = w.a.toNat ∧ n = 64
    ∨ c = .tSnap r w ∧ s.issueAt r 0x92 w = some a ∧ w.a.toNat < 512 ∧ w.a.toNat % 256 ≤ 5 ∧ w.c = 0
        ∧ n = (snapBytes (s.fetched a) r (w.a.toNat % 256) (w.a.getLsbD 8)).length ∧ okP w.b 8 n = true ∧ off = w.b.toNat

theorem capsBytes_length (s : State) (r c li : Nat) : (capsBytes s r c li).length = 64 := by
  unfold capsBytes
  extract_lets
  simp only [List.length_append, leBytes_length]

/-- A pantry offset's bytes lie in the pantry (07 Table 7.3). -/
theorem okP_end_le {x : W32} {al n : Nat} (h : okP x al n = true) : x.toNat + n ≤ 2 ^ 24 := by
  simp only [okP, Bool.and_eq_true, decide_eq_true_eq] at h
  obtain ⟨⟨-, hend⟩, -⟩ := h
  exact hend

/-- What such an instruction stores lies in the pantry. -/
theorem StoreForm.end_le {off n : Nat} (h : StoreForm s r w a c off n) : off + n ≤ 2 ^ 24 := by
  obtain ⟨-, -, -, hb, -, rfl, rfl⟩ | ⟨-, -, ha, -, hmax, -, rfl, rfl⟩ | ⟨-, -, ha, -, -, rfl, rfl⟩ | ⟨-, -, -, -, -, -, hb, rfl⟩ := h
  · exact okP_end_le hb
  · have : w.a.toNat < 4096 := of_decide_eq_true ha
    simp only [descTab]
    omega
  · exact okP_end_le ha
  · exact okP_end_le hb

/-- Such an instruction keeps what a view sees that sees no issue and not its store. -/
theorem StoreForm.keeps {off n : Nat} (h : StoreForm s r w a c off n) (hw : plainWord w = true) (hx : exec c s = .next t)
    (hg : SeesNoIssue g w)
    (hs : ∀ (u : State) uid (bs : List Byte) p, bs.length = n →
      g { u.room r with pantry := u.settle r uid [(ownBase + off, bs.length)] ((u.room r).pantry.write off bs), prior := p }
        = g (u.room r)) : Keeps g r s t := by
  obtain ⟨rfl, hi, ha, hb, hc, rfl, rfl⟩ | ⟨rfl, hi, ha, h8, hmax, hc, rfl, rfl⟩ | ⟨rfl, hi, ha, hb, hc, rfl, rfl⟩
    | ⟨rfl, hi, ha, hfam, hc, rfl, hb, rfl⟩ := h
  · exact .of_completes (bs := [bRoom r]) hg hi (effSts_issues hi hw ha hb hc)
      (.pantStore fun p => hs _ _ _ p (leBytes_length 8 _)) hx
  · exact .of_completes (bs := [bRoom r]) hg hi (effDput_issues hi hw ha h8 hmax hc)
      (.pantStore fun p => hs _ _ _ p (leBytes_length 8 _)) hx
  · exact .of_completes (bs := [bRoom r]) hg hi (effCaps_issues hi hw ha hb hc)
      (.pantStore fun p => hs _ _ _ p (capsBytes_length _ _ _ _)) hx
  · exact .of_completes (bs := [bRoom r, bDBG]) hg hi (effSnap_issues hi hw ha hfam hc hb)
      ((Keeps.pantStore fun p => hs _ _ _ p rfl).trans (.free _)) hx

/-- A store leaves the bytes outside it as they were. -/
theorem get_settle_write_out (u : State) {uid off x : Nat} {bs : List Byte} (hend : off + bs.length ≤ 2 ^ 24)
    (hx : x < off ∨ off + bs.length ≤ x) (m : Mem) :
    (u.settle r uid [(ownBase + off, bs.length)] (m.write off bs)).get x = m.get x := by
  rw [u.settle_get, Mem.get_write_out m bs hx]
  intro p hp i hi
  obtain rfl := List.mem_singleton.mp hp
  simp only [pantOff, ownBase] at hi ⊢
  omega

end

theorem getD_set_of_ne {β : Type} (l : List β) {i k : Nat} (v d : β) (h : k ≠ i) : (l.set i v).getD k d = l.getD k d := by
  simp [List.getD, Ne.symm h]

/-- Settles O55: each form keeps every view of its room that sees neither its issue nor its scalar. -/
theorem scalarInstructionsFrame : Obligations.ScalarInstructionsFrame := by
  unfold Obligations.ScalarInstructionsFrame
  intro s t r w a c hw h hx
  have key {α : Type} {g : Room → α} := ScalarForm.keeps (g := g) h hw hx
  have hpantry : Keeps Room.pantry r s t := key ⟨fun _ _ _ => rfl, fun _ _ => rfl, fun _ _ _ => rfl⟩ fun _ _ _ _ => rfl
  have hinfl : Keeps Room.infl r s t := key ⟨fun _ _ _ => rfl, fun _ _ => rfl, fun _ _ _ => rfl⟩ fun _ _ _ _ => rfl
  have htrell : Keeps Room.trell r s t := key ⟨fun _ _ _ => rfl, fun _ _ => rfl, fun _ _ _ => rfl⟩ fun _ _ _ _ => rfl
  refine ⟨hpantry.hbm, hpantry.buttery, hpantry.hostMem, hpantry.ctxs, hpantry.pending, hpantry.reg, hpantry.others, hpantry.own,
    hinfl.own, htrell.own, fun k hk => ?token, fun k hk => ?scalar⟩
  case token =>
    refine (key (g := fun x => x.tok.getD k 0) ⟨fun _ _ _ => rfl, fun _ _ => rfl, fun x v htke => ?_⟩ fun _ _ _ _ => rfl).own
    exact getD_set_of_ne _ _ _ (hk.resolve_left (by simp [htke]))
  case scalar =>
    refine (key (g := fun x => x.sreg.getD k 0) ⟨fun _ _ _ => rfl, fun _ _ => rfl, fun _ _ _ => rfl⟩ fun hn he x v => ?_).own
    have hk : k ≠ w.a.toNat := (hk.resolve_left hn).resolve_left he
    exact getD_set_of_ne _ _ _ (by rwa [Nat.mod_eq_of_lt (ScalarForm.scalar_lt h hn he)])

/-- Settles O56: each form keeps every view of its room that sees neither its issue nor the bytes it stores. -/
theorem pantryStoresFrame : Obligations.PantryStoresFrame := by
  unfold Obligations.PantryStoresFrame
  intro s t r w a c off n hw h hx
  have key {α : Type} {g : Room → α} := StoreForm.keeps (g := g) h hw hx
  have hsreg : Keeps Room.sreg r s t := key ⟨fun _ _ _ => rfl, fun _ _ => rfl, fun _ _ _ => rfl⟩ fun _ _ _ _ _ => rfl
  have hinfl : Keeps Room.infl r s t := key ⟨fun _ _ _ => rfl, fun _ _ => rfl, fun _ _ _ => rfl⟩ fun _ _ _ _ _ => rfl
  refine ⟨hsreg.hbm, hsreg.buttery, hsreg.hostMem, hsreg.ctxs, hsreg.others, fun x hout => ?pantry, hsreg.own, hinfl.own⟩
  case pantry =>
    refine (key (g := fun y => y.pantry.get x) ⟨fun _ _ _ => rfl, fun _ _ => rfl, fun _ _ _ => rfl⟩ fun u uid bs p hn => ?_).own
    subst hn
    exact get_settle_write_out u (StoreForm.end_le h) hout _

end Sys2Proof.Machine
end

section
/-! PROOFS. The movers (O4) and the hearth's elementwise and row instructions (O6) at issue. -/

namespace Sys2Proof.Machine

section
variable {s : State} {r : Nat} {w : TWord} {a : At} {op : Byte}

/-- A mover whose checks pass is in flight with its units, and starts the first (08 R296). -/
theorem issue_mover {cs : At → State → List (Bool × FaultCode)} {kind : Nat} {ds : At → State → List Desc}
    {raw : At → State → List Byte} {units : At → State → List (List (Nat × Nat × Nat))} {writes : At → State → List (Nat × Nat)}
    (hi : s.issueAt r op w = some a) (hc : firstFault (cs a (s.fetched a)) = none) :
    s.issue r op w (fun b t => checked (cs b t) fun _ => issueMover t b op w kind (ds b t) (raw b t) (units b t) (writes b t)) =
      ((s.fetched a).pending1 a op.toNat w (moverInfl (s.fetched a) a op w kind (ds a (s.fetched a)) (raw a (s.fetched a))
        (units a (s.fetched a)) (writes a (s.fetched a)))).startUnit r a.uid := by
  rw [← issueAt_room hi]
  exact issue_ok (issueAt_room hi ▸ hi) (checked_ok hc)

/-- A hearth instruction whose checks pass stores its results, raises the hearth's flags and waits for its completion (07 R245;
04 R151). -/
theorem effVec_issues (hi : s.issueAt r op w = some a) (hc : firstFault (vecChecks op (s.fetched a) a w) = none) :
    effVec op r w s =
      let t := s.fetched a
      let x := t.latch a w.a.toNat
      let y := if vecTwo op then t.latch a w.b.toNat else x
      let d := t.latch a w.c.toNat
      let o := vecResult op.toNat (t.view r a.uid x) (t.view r a.uid y) (t.view r a.uid d)
        (decFp32 ((t.sreg r w.b).setWidth 32)) (t.room r).pantry
      ((t.putPantry r a.uid d.ranges o.1).hrtFlags r o.2).pending1 a op.toNat w
        { Infl.mk0 with descs := [x, y, d], ready := true, writes := d.ranges } :=
  issue_ok hi (checked_ok hc)

end

/-- Settles O4: the three forms share one issue of a mover. -/
theorem moversIssue : Obligations.MoversIssue := by
  unfold Obligations.MoversIssue
  intro s r w a hs t x y z start
  refine ⟨?mov, ?movb, ?spmv⟩
  case mov => exact fun hi hc => run_eq hs (issue_mover hi hc)
  case movb => exact fun hi hc => run_eq hs (issue_mover hi hc)
  case spmv => exact fun hi hc => run_eq hs (issue_mover hi hc)

/-- Settles O6: the hearth's forms share one issue, whose checks pass. -/
theorem hearthInstructionsWriteResults : Obligations.HearthInstructionsWriteResults := by
  unfold Obligations.HearthInstructionsWriteResults
  intro s r w a c op hs hmem t x y d o hi hc
  exact (exec_hearthForms s r w (c, op) hmem).trans (run_eq hs (effVec_issues hi hc))

end Sys2Proof.Machine
end

section
/-! PROOFS. The stream instructions at issue (O8). -/

namespace Sys2Proof.Machine

section
variable {s : State} {r : Nat} {w : TWord} {a : At} {i : Nat} {e : RegEntry}

/-- SOPEN writes the entry it opens or joins, and hands out its handle (10 R370). -/
theorem effSopen_issues (hi : s.issueAt r 0x50 w = some a) (htok : okTok w = true) (hsel : zeroSel w = true) (hmod : w.mod.toNat ≤ 1)
    (hb : okS w.b = true) (hc : okS w.c = true)
    (he : (s.fetched a).openEntry a.c w.a.toNat ((s.fetched a).sreg r w.b).toNat (w.mod.toNat = 1) = .ok (i, e)) :
    effSopen r w s = (((s.fetched a).putEntry a.c i e).setSreg r w.c (BitVec.ofNat 64 (i + 4096 * e.gen))).pending1 a 0x50 w
      { Infl.mk0 with ready := true } := by
  refine issue_ok hi ?_
  rw [checked_one (by simp [htok, hsel, hb, hc, Nat.not_lt.mpr hmod]), he]

/-- DRAW stores the generator's outputs and moves the counter past them (10 R372; 07 R254). -/
theorem effDraw_issues (hi : s.issueAt r 0x51 w = some a) (hw : plainWord w = true) (ha : okS w.a = true) (h0 : w.c.toNat ≠ 0)
    (hmax : w.c.toNat ≤ 65536) (hb : okD w.b = true) (he : (s.fetched a).handle a.c ((s.fetched a).sreg r w.a) = some (i, e))
    (hd : firstFault (drawChecks ((s.fetched a).latch a w.b.toNat) w.c.toNat) = none) :
    effDraw r w s =
      let t := s.fetched a
      let d := t.latch a w.b.toNat
      ((t.putPantry r a.uid d.ranges (storeRows d (t.room r).pantry (drawBytes (t.jobKey a.c) e.id e.counter w.c.toNat))).putEntry a.c i
        { e with counter := (e.counter + w.c.toNat) % 2 ^ 64 }).pending1 a 0x51 w
          { Infl.mk0 with descs := [d], ready := true, writes := d.ranges } := by
  refine issue_ok hi ?_
  rw [checked_pass (by simp [plainWord_unused hw, ha, h0, Nat.not_lt.mpr hmax]), checked_one (by simp [hb])]
  dsimp only
  rw [he]
  exact checked_ok hd

/-- REWIND sets the counter (10 R373). -/
theorem effRewind_issues (hi : s.issueAt r 0x52 w = some a) (hw : plainWord w = true) (ha : okS w.a = true) (hb : okS w.b = true)
    (hc : w.c = 0) (he : (s.fetched a).handle a.c ((s.fetched a).sreg r w.a) = some (i, e)) :
    effRewind r w s = ((s.fetched a).putEntry a.c i { e with counter := ((s.fetched a).sreg r w.b).toNat }).pending1 a 0x52 w
      { Infl.mk0 with ready := true } := by
  refine issue_ok hi ?_
  rw [checked_one (by simp [plainWord_unused hw, ha, hb, hc]), he]

/-- SCLOSE gives up one reference; the last one closes the entry (10 R371). -/
theorem effSclose_issues (hi : s.issueAt r 0x53 w = some a) (hw : plainWord w = true) (ha : okS w.a = true) (hb : w.b = 0)
    (hc : w.c = 0) (he : (s.fetched a).handle a.c ((s.fetched a).sreg r w.a) = some (i, e)) :
    effSclose r w s = ((s.fetched a).putEntry a.c i { e with refs := e.refs - 1, closed := decide (e.refs ≤ 1) }).pending1 a 0x53 w
      { Infl.mk0 with ready := true } := by
  refine issue_ok hi ?_
  rw [checked_one (by simp [plainWord_unused hw, ha, hb, hc]), he]

/-- STELL reads the counter (10 R373). -/
theorem effStell_issues (hi : s.issueAt r 0x54 w = some a) (hw : plainWord w = true) (ha : okS w.a = true) (hb : okS w.b = true)
    (hc : w.c = 0) (he : (s.fetched a).handle a.c ((s.fetched a).sreg r w.a) = some (i, e)) :
    effStell r w s = ((s.fetched a).setSreg r w.b (BitVec.ofNat 64 e.counter)).pending1 a 0x54 w { Infl.mk0 with ready := true } := by
  refine issue_ok hi ?_
  rw [checked_one (by simp [plainWord_unused hw, ha, hb, hc]), he]

end

/-- Settles O8: each form is its effect at issue, on the entry that it opens or that its handle names. -/
theorem streamInstructionsComplete : Obligations.StreamInstructionsComplete := by
  unfold Obligations.StreamInstructionsComplete
  intro s r w a i e hs t done
  refine ⟨?sopen, ?draw, ?rewind, ?sclose, ?stell⟩
  case sopen => exact fun hi htok hsel hmod hb hc he => run_eq hs (effSopen_issues hi htok hsel hmod hb hc he)
  case draw => exact fun hi hw ha h0 hmax hb he hd => run_eq hs (effDraw_issues hi hw ha h0 hmax hb he hd)
  case rewind => exact fun hi hw ha hb hc he => run_eq hs (effRewind_issues hi hw ha hb hc he)
  case sclose => exact fun hi hw ha hb hc he => run_eq hs (effSclose_issues hi hw ha hb hc he)
  case stell => exact fun hi hw ha hb hc he => run_eq hs (effStell_issues hi hw ha hb hc he)

end Sys2Proof.Machine
end

section
/-! PROOFS. COLL, RACK and RESHARD (O9), and the instructions of the step group (O11), at issue. -/

namespace Sys2Proof.Machine

section
variable {s : State} {r : Nat} {w : TWord} {a : At} {g : Group}

/-- A collective whose checks pass starts in its group (12 R424 to R427). -/
theorem effColl_issues (hi : s.issueAt r 0x60 w = some a) (hw : collOperandsOk w = true) (hb : okD w.b = true) (hc : okD w.c = true)
    (hg : (s.fetched a).latchGroup a.c a.li w.a true = .ok (some g)) (hcs : firstFault (collChecks (s.fetched a) a w g) = none) :
    effColl r w s = collStart (s.fetched a) r a w g := by
  refine issue_ok hi ?_
  rw [checked_pass (by simp [hw]), checked_one (by simp [hb, hc]), hg]
  exact checked_ok hcs

/-- A RACK of an open sample is in flight with no slot copied (10 R362, R363). -/
theorem effRack_issues {j : RackJob} {sr : Nat} (hi : s.issueAt r 0x61 w = some a) (hw : plainWord w = true)
    (ha : okS w.a = true) (hb : okD w.b = true) (hresh : (s.fetched a).reshardOn a.c = false)
    (hj : (s.fetched a).rackJob a.c = some j) (hsr : (s.fetched a).openSample a.c = some sr)
    (hcs : firstFault (rackChecks (s.fetched a) a w j sr) = none) :
    effRack r w s = (s.fetched a).pending1 a 0x61 w (rackInfl (s.fetched a) a w j) := by
  refine issue_ok hi ?_
  rw [checked_pass (by simp [plainWord_unused hw, ha]), checked_pass (by simp [hb]), checked_one hresh, hj, hsr]
  exact checked_ok hcs

/-- A RESHARD whose plan is there writes its journal, or resumes the running plan (12 R443, R450). -/
theorem effReshard_issues {pa : Nat} {plan : List Byte} {u : State} (hi : s.issueAt r 0x62 w = some a) (hw : plainWord w = true)
    (ha : w.a ≠ 0#32) (hb : okD w.b = true) (hc : okD w.c = true) (hg : (s.fetched a).latchGroup a.c a.li w.a true = .ok (some g))
    (hx : ((s.fetched a).latch a w.b.toNat).check = none) (hy : ((s.fetched a).latch a w.c.toNat).check = none)
    (hplan : reshPlan (s.fetched a) r a ((s.fetched a).latch a w.c.toNat).base = .ok (some plan, u))
    (hpa : reshPa (s.fetched a) r a w = some pa) (hcs : firstFault (reshChecks u a w g pa plan) = none) :
    effReshard r w s = reshGo u r a w g pa plan := by
  have hdesc {d : Desc} (h : d.check = none) : (descCheck d).1 = false := by rw [descCheck, h]; rfl
  refine issue_ok hi ?_
  rw [checked_pass (by simp [plainWord_unused hw, ha]), checked_one (by simp [hb, hc]), hg]
  dsimp only
  rw [checked_pass (hdesc hx), checked_one (hdesc hy), hplan, hpa]
  exact checked_ok hcs

/-- An STP whose group, phase and step are right holds its room at the step group (07 R262; 13 R459). -/
theorem effStp_issues {op : Byte} {kind : Nat} (hi : s.issueAt r op w = some a) (hw : stpOperandsOk kind w = true)
    (hj : (s.fetched a).joinGroup a w.a = none) (hresh : (s.fetched a).reshardOn a.c = false)
    (hphase : (s.fetched a).badPhase a.c kind ((s.fetched a).sreg r w.b) = false)
    (hloss : kind = kCHECK → (s.fetched a).badLoss a.c r = false) :
    effStp op kind r w s = (s.fetched a).holdFor r a.pc w
      (.stp kind w.a.toNat ((s.fetched a).sreg r w.b).toNat w.c.toNat (w.mod = 1)) := by
  refine issue_ok hi ?_
  rw [checked_one (by simp [hw]), hj]
  dsimp only
  rw [checked_pass hresh, checked_pass hphase, checked_one (by simpa using hloss)]

end

/-- The instructions of the step group, with their opcodes and kinds (07 R262). -/
def stpForms (r : Nat) : List ((TWord → Instr) × Byte × Nat) :=
  [(Instr.tCheck r, 0x80#8, kCHECK), (.tCommit r, 0x81#8, kCOMMIT), (.tAdvance r, 0x82#8, kADVANCE), (.tAbort r, 0x83#8, kABORT)]

/-- The meaning of a step-group instruction is the one issue of its opcode and kind. -/
theorem exec_stpForms (s : State) (r : Nat) (w : TWord) :
    ∀ p ∈ stpForms r, exec (p.1 w) s = run (vntBlocks r) s (effStp p.2.1 p.2.2 r w s) := by
  intro p hp
  unfold stpForms at hp
  fin_cases hp <;> rfl

/-- Settles O9: each form is its effect at issue, in the group, the job or the plan that it finds. -/
theorem groupInstructionsIssue : Obligations.GroupInstructionsIssue := by
  unfold Obligations.GroupInstructionsIssue
  intro s r w a g t
  refine ⟨?coll, ?rack, ?reshard⟩
  case coll => exact fun hs hi hw hb hc hg hcs => run_eq hs (effColl_issues hi hw hb hc hg hcs)
  case rack => exact fun j sr hs hi hw ha hb hresh hj hsr hcs => run_eq hs (effRack_issues hi hw ha hb hresh hj hsr hcs)
  case reshard =>
    exact fun pa plan u hs hi hw ha hb hc hg hx hy hplan hpa hcs =>
      run_eq hs (effReshard_issues hi hw ha hb hc hg hx hy hplan hpa hcs)

/-- Settles O11: the four forms share one issue, at the step group. -/
theorem stepInstructionsHoldTheRoom : Obligations.StepInstructionsHoldTheRoom := by
  unfold Obligations.StepInstructionsHoldTheRoom
  intro s r w a c op kind hs hmem t hi hw hj hresh hphase hloss
  exact (exec_stpForms s r w (c, op, kind) hmem).trans (run_eq hs (effStp_issues hi hw hj hresh hphase hloss))

end Sys2Proof.Machine
end

section
/-! PROOFS. What a scrub pass finds (O41). -/

namespace Sys2Proof

open Sys2Proof.Machine

/-! The verdict on the errors of a sector or a word (08 R305) -/

/-- Entries that are all the same are one, once repeats are erased. -/
theorem eraseDups_eq_singleton {l : List Nat} {a : Nat} (hne : l ≠ []) (h : ∀ x ∈ l, x = a) : l.eraseDups = [a] := by
  obtain ⟨n, rfl⟩ : ∃ n, l = List.replicate (n + 1) a := by
    refine ⟨l.length - 1, ?_⟩
    rw [Nat.sub_add_cancel (List.length_pos_iff.mpr hne)]
    exact List.eq_replicate_iff.mpr ⟨rfl, h⟩
  simp [List.replicate_succ, List.eraseDups_cons]

/-- What the code corrects one of, and no more: the symbols of an HBM sector or the bits of an SRAM word in error (08 R305). -/
def ScrubFinding.units (f : ScrubFinding) : List Nat :=
  match f.place with
  | .hbm _ => f.flips.map (· / 8)
  | _ => f.flips

namespace ScrubFinding

variable {f : ScrubFinding}

theorem units_hbm {a : Nat} (h : f.place = .hbm a) : f.units = f.flips.map (· / 8) := by rw [units, h]

theorem units_sram (h : ∀ a, f.place ≠ .hbm a) : f.units = f.flips := by
  unfold units
  split
  next a hp => exact absurd hp (h a)
  next => rfl

theorem units_of_flips_nil (h : f.flips = []) : f.units = [] := by
  unfold units
  split <;> simp [h]

/-- The verdict goes by how many different units are in error. -/
theorem verdict_eq_units (f : ScrubFinding) : f.verdict =
    if f.units.eraseDups = [] then .clean else if f.units.eraseDups.length = 1 then .corrected else .bad := by
  unfold verdict units
  cases f.place <;> simp

theorem verdict_clean (h : f.units = []) : f.verdict = .clean := by
  rw [verdict_eq_units, h]
  rfl

theorem verdict_corrected {i : Nat} (hne : f.units ≠ []) (h : ∀ u ∈ f.units, u = i) : f.verdict = .corrected := by
  rw [verdict_eq_units, eraseDups_eq_singleton hne h]
  rfl

theorem verdict_bad {u v : Nat} (hu : u ∈ f.units) (hv : v ∈ f.units) (huv : u ≠ v) : f.verdict = .bad := by
  have hu' : u ∈ f.units.eraseDups := List.mem_eraseDups.mpr hu
  have hv' : v ∈ f.units.eraseDups := List.mem_eraseDups.mpr hv
  have hone : f.units.eraseDups.length ≠ 1 := by
    intro h
    obtain ⟨x, hx⟩ := List.length_eq_one_iff.mp h
    rw [hx, List.mem_singleton] at hu' hv'
    exact huv (hu'.trans hv'.symm)
  rw [verdict_eq_units, if_neg (List.ne_nil_of_mem hu'), if_neg hone]

end ScrubFinding

end Sys2Proof

namespace Sys2Proof.Machine

/-! The pass, by its verdict -/

section
variable {s : State} {f : ScrubFinding}

theorem effScrubPass_clean (h : f.verdict = .clean) : effScrubPass f s = s := by rw [effScrubPass, h]
theorem effScrubPass_corrected (h : f.verdict = .corrected) : effScrubPass f s = s.corrected f.place := by rw [effScrubPass, h]
theorem effScrubPass_bad (h : f.verdict = .bad) : effScrubPass f s = s.uncorrectable f := by rw [effScrubPass, h]

end

/-- Settles O41: the units in error are none, all one, or two that differ, and the verdict follows. -/
theorem scrubFindingsAct : Obligations.ScrubFindingsAct := by
  unfold Obligations.ScrubFindingsAct
  intro s f hs hw
  refine ⟨?clean, ?symbol, ?symbols, ?bit, ?bits⟩
  case clean =>
    exact fun hf => run_live hs hw (effScrubPass_clean (ScrubFinding.verdict_clean (ScrubFinding.units_of_flips_nil hf)))
  case symbol =>
    intro i a hp hf hsym
    have hunits := ScrubFinding.units_hbm hp
    have hne : f.units ≠ [] := by simpa [hunits] using hf
    have hall : ∀ u ∈ f.units, u = i := by simpa [hunits] using hsym
    exact run_live hs hw (effScrubPass_corrected (ScrubFinding.verdict_corrected hne hall))
  case symbols =>
    intro b c a hp hb hc hbc
    have hmem {x : Nat} (hx : x ∈ f.flips) : x / 8 ∈ f.units :=
      ScrubFinding.units_hbm hp ▸ List.mem_map_of_mem (f := (· / 8)) hx
    exact run_live hs hw (effScrubPass_bad (ScrubFinding.verdict_bad (hmem hb) (hmem hc) hbc))
  case bit =>
    intro b hp hf
    have hunits : f.units = [b] := (ScrubFinding.units_sram hp).trans hf
    exact run_live hs hw (effScrubPass_corrected (ScrubFinding.verdict_corrected (i := b) (by simp [hunits]) (by simp [hunits])))
  case bits =>
    intro b c hp hb hc hbc
    have hunits := ScrubFinding.units_sram hp
    exact run_live hs hw (effScrubPass_bad (ScrubFinding.verdict_bad (hunits ▸ hb) (hunits ▸ hc) hbc))

end Sys2Proof.Machine
end

section
/-! PROOFS. The resolution of translation faults and the commands of the fault ring (O21). -/

namespace Sys2Proof.Machine

/-! The events of a fault that waits -/

section
variable {s : State} {wid : Nat} {w : WaitF}

theorem effStewardFaultResolve_due (hf : s.findWait wid = some w) (hst : w.st = .steward) :
    effStewardFaultResolve wid s = s.resolve1 w := by
  simp only [effStewardFaultResolve, hf, hst, if_true]

theorem effFaultFillDone_due {frame slot pte : Nat} (hf : s.findWait wid = some w) (hst : w.st = .filling frame slot pte) :
    effFaultFillDone wid s = s.fillDone w frame slot pte := by
  simp only [effFaultFillDone, hf, hst]

/-- FAULT_TMO has passed: for a window since its fault, for the others since the host was handed theirs (08 R290, R293). -/
abbrev State.tmoPassed (s : State) (w : WaitF) : Prop :=
  w.who = .window ∧ w.t + s.faultTmoNs ≤ s.now ∨ w.who ≠ .window ∧ w.handed = true ∧ w.handT + s.faultTmoNs ≤ s.now

/-- The state with the frame that a fault was filling back in its pool. -/
def State.frameBack (s : State) (w : WaitF) : State :=
  match w.st with
  | .filling frame _ _ => s.putFrame (s.poolAt w) frame
  | _ => s

theorem State.frameBack_filling {frame slot pte : Nat} (hst : w.st = .filling frame slot pte) :
    s.frameBack w = s.putFrame (s.poolAt w) frame := by rw [frameBack, hst]

theorem State.frameBack_of_not_filling (hst : ∀ frame slot pte, w.st ≠ .filling frame slot pte) : s.frameBack w = s := by
  unfold frameBack
  split
  next frame slot pte h => exact absurd h (hst frame slot pte)
  next => rfl

/-- A fault whose FAULT_TMO has passed fails; a frame that it was filling goes back first. -/
theorem effFaultTmoExpiry_due (hf : s.findWait wid = some w) (htmo : s.tmoPassed w) :
    effFaultTmoExpiry wid s = ((s.frameBack w).failWait w).promote := by
  simp only [effFaultTmoExpiry, hf]
  refine if_pos ?_
  rcases htmo with ⟨hwin, ht⟩ | ⟨hwin, hh, ht⟩
  · simp [hwin, ht]
  · simp [hwin, hh, ht]

end

/-! The commands of the ring, once they go and their arguments are valid (18 R608 to R610) -/

section
variable {s t : State} {q : Req} {w : WaitF}

theorem effFaultRing_sets (hgo : s.cmdGoes q 0xA 2 false t) (ha : q.arg 0 % 4096 = 0)
    (hn : [64, 128, 256, 512, 1024, 2048, 4096].contains (q.arg 1) = true) :
    effFaultRing q s = (t.newRing (q.arg 0) (q.arg 1)).answer q { status := cOK } := by
  refine cmd_goes hgo ?_
  have hpos : q.arg 1 ≠ 0 := fun h => by simp [h] at hn
  dsimp only
  rw [if_neg (by rw [hn]; simp [ha]), if_neg hpos]

theorem effFaultRing_removes (hgo : s.cmdGoes q 0xA 2 false t) (ha : q.arg 0 % 4096 = 0) (hn : q.arg 1 = 0) :
    effFaultRing q s = ({ t with host := { t.host with ring := none } } : State).answer q { status := cOK } := by
  refine cmd_goes hgo ?_
  dsimp only
  rw [if_neg (by simp [ha, hn]), if_pos hn]

theorem effFaultAnswer_goes (hgo : s.cmdGoes q 0xB 2 false t) (ha : q.arg 1 ≤ 1)
    (hw : t.mmu.waits.find? (fun w => w.st = .host (q.arg 0)) = some w) :
    effFaultAnswer q s = ((if q.arg 1 = 0 then t.resumeWait w else t.failWait w).promote).answer q { status := cOK } := by
  refine cmd_goes hgo ?_
  rw [if_neg (Nat.not_lt.mpr ha), hw]

theorem effRetiredRead_goes (hgo : s.cmdGoes q 0xC 2 false t) (h0 : q.arg 1 ≠ 0) (hn : q.arg 1 ≤ 246) :
    effRetiredRead q s = t.answer q {
      status := cOK, detail := t.mmu.retired.length
      body := ((t.mmu.retired.drop (q.arg 0)).take (q.arg 1)).flatMap fun a => leBytes 8 a } := by
  exact cmd_goes hgo (if_neg (by simp [h0, hn]))

end

/-- Settles O21: the events by their effect once they are due, the commands by theirs on valid arguments. -/
theorem faultResolutionActs : Obligations.FaultResolutionActs := by
  unfold Obligations.FaultResolutionActs
  intro s t wid w q hs
  have hstw : s.specified [bSTW] := specified_sub hs (by simp)
  refine ⟨?steward, ?fill, ?timeout, ?ring, ?noRing, ?answer, ?retired⟩
  case steward => exact fun hw hf hst => run_live hs hw (effStewardFaultResolve_due hf hst)
  case fill => exact fun frame slot pte hw hf hst => run_live hs hw (effFaultFillDone_due hf hst)
  case timeout =>
    intro hw hf htmo
    have hdue := run_live hs hw (effFaultTmoExpiry_due hf htmo)
    refine ⟨fun hst => ?_, fun frame slot pte hst => ?_⟩
    · rwa [State.frameBack_of_not_filling hst] at hdue
    · rwa [State.frameBack_filling hst] at hdue
  case ring => exact fun hgo ha hn => run_eq hstw (effFaultRing_sets hgo ha hn)
  case noRing => exact fun hgo ha hn => run_eq hstw (effFaultRing_removes hgo ha hn)
  case answer => exact fun hgo ha hw => run_eq hs (effFaultAnswer_goes hgo ha hw)
  case retired => exact fun hgo h0 hn => run_eq hstw (effRetiredRead_goes hgo h0 hn)

end Sys2Proof.Machine
end

section
/-! PROOFS. The press's stages (O22). -/

namespace Sys2Proof.Machine

namespace State

/-- A sample is found under its own number. -/
theorem sample_id {s : State} {c id : Nat} {x : Sample} (hx : s.sample c id = some x) : x.id = id := by
  have h := List.find?_some hx
  rw [Bool.and_eq_true, decide_eq_true_iff, decide_eq_true_iff] at h
  exact h.2

/-! PRESS_ADMIT, where a job may take a sample in and has its turn (09 R316, R330) -/

section
variable {s : State} {c cl : Nat} {p : PressJob} {j : RackJob}
variable (hp : s.pressJob c = some p) (hj : s.rackJob c = some j)
variable (hcl : cl < 8) (hcould : s.couldAdmit c = true) (hturn : s.pressTurn c = true)

include hcl hcould hturn in
theorem admit_unheld : ¬ (decide (cl ≥ 8) || !s.couldAdmit c || !s.pressTurn c) = true := by
  simp [hcould, hturn, hcl]

include hp hj hcl hcould hturn

/-- The clip and the first byte are known: the sample enters. -/
theorem pressAdmit_enters {n b f : Nat} {e : List Byte}
    (hclip : s.findClip c (s.pressNew c cl j).idx = .val (some (n, e))) (hgood : p.bad.contains n = false)
    (hstart : s.startByte c e (s.pressNew c cl j).idx = .val (b, f)) :
    s.pressAdmit c cl = s.pressEnter c { s.pressNew c cl j with clip := n, entry := e, start := b, startFrame := f } := by
  simp only [pressAdmit, hp, hj, if_neg (admit_unheld hcl hcould hturn), hclip, hgood, Bool.false_eq_true, if_false, hstart]

/-- The clip table lies on another module: it is asked for. -/
theorem pressAdmit_asks {va n : Nat} (hclip : s.findClip c (s.pressNew c cl j).idx = .ask va n) :
    s.pressAdmit c cl = s.clipAsk c va n := by
  simp only [pressAdmit, hp, hj, if_neg (admit_unheld hcl hcould hturn), hclip]

end

/-! A sample's next chunk, where the buffer has room (09 R315, R341) -/

/-- The parts of a read of the source that lie on this module, with their bytes. -/
def nearParts (s : State) (ls : List (Nat × Loc × Nat)) : List (Nat × List Byte) :=
  ls.filterMap fun (o, l, k) => match l with
    | .glob _ => none
    | _ => some (o, s.locRead l k)

/-- The pieces that lie on other modules: offset in the clip, global address, length. -/
def farParts (ls : List (Nat × Loc × Nat)) : List (Nat × Nat × Nat) :=
  ls.flatMap fun (o, l, k) => match l with
    | .glob ga => (globPieces ga k).map fun y => (o + (y.1 - ga), y.1, y.2)
    | _ => []

section
variable {s : State} {c id : Nat} {x : Sample} {ls : List (Nat × Loc × Nat)}
variable (hx : s.sample c id = some x) (hfetch : Sample.toFetch x = true) (hroom : s.chunksHeld x.cluster < 256)

include hfetch hroom in
theorem fetch_unheld : ¬ ((!Sample.toFetch x) = true ∨ s.chunksHeld x.cluster ≥ 256) := by
  simp [hfetch, hroom]

include hx hfetch hroom

theorem pressFetch_fails : s.pressFetch c id false = s.fetchLost id := by
  simp only [pressFetch, hx, if_neg (fetch_unheld hfetch hroom), Bool.not_false, if_true]

theorem pressFetch_untranslated {e : Nat × XErr} (hl : s.fetchSpan c x = .error e) :
    s.pressFetch c id true = s.fetchLost id := by
  simp only [pressFetch, hx, if_neg (fetch_unheld hfetch hroom), Bool.not_true, Bool.false_eq_true, if_false, hl]

variable (hl : s.fetchSpan c x = .ok ls)
include hl

/-- The near parts are in the buffer at once; the far ones are asked for. -/
theorem pressFetch_reads :
    s.pressFetch c id true =
      let t := s.modSample id fun y =>
        { y with
          src := y.src ++ s.nearParts ls, asked := (farParts ls).map (·.1)
          fetched := if (farParts ls).isEmpty then y.fetched + 1 else y.fetched }
      (farParts ls).foldl
        (fun u (o, ga, k) => u.request (.press c id o) { op := opREAD, dst := ga / 2 ^ 44 % 2 ^ 18, addr := ga, arg := k })
        (if (farParts ls).isEmpty then t.unitDone x 0 else t) := by
  simp only [pressFetch, hx, if_neg (fetch_unheld hfetch hroom), Bool.not_true, Bool.false_eq_true, if_false, hl]
  rfl

/-- No part is far: the chunk has come. -/
theorem pressFetch_here (hfar : farParts ls = []) :
    s.pressFetch c id true =
      (s.modSample id fun y => { y with src := y.src ++ s.nearParts ls, asked := [], fetched := y.fetched + 1 }).unitDone x 0 := by
  rw [pressFetch_reads hx hfetch hroom hl, hfar]
  rfl

/-- Some part is far: the chunk waits for the answers. -/
theorem pressFetch_asks (hfar : farParts ls ≠ []) :
    s.pressFetch c id true = (farParts ls).foldl
      (fun u (o, ga, k) => u.request (.press c id o) { op := opREAD, dst := ga / 2 ^ 44 % 2 ^ 18, addr := ga, arg := k })
      (s.modSample id fun y => { y with src := y.src ++ s.nearParts ls, asked := (farParts ls).map (·.1) }) := by
  have hne : (farParts ls).isEmpty = false := by simpa using hfar
  simp only [pressFetch_reads hx hfetch hroom hl, hne, Bool.false_eq_true, if_false]

end

/-! The demultiplexer (09 R314, R315, R331) -/

section
variable {s : State} {c id core : Nat} {x : Sample}
variable (hx : s.sample c id = some x)
variable (hheld : x.held = none) (hleft : x.parsed < x.fetched) (hmore : x.parsedAll = false)

include hheld hleft hmore in
theorem parse_unheld : ¬ (x.held.isSome = true ∨ x.parsed ≥ x.fetched ∨ x.parsedAll = true) := by
  simp [hheld, hleft, hmore]

include hx

include hheld hleft hmore in
/-- A chunk whose units still wait goes on with them. -/
theorem pressDemux_continues {us : List Nat} (hunits : x.units = some us) :
    s.pressDemux c id core = s.demuxRoute c id core (Config.demux (s.pressIn x (x.parsed + 1)) x.idx x.parsed).last := by
  simp only [pressDemux, hx, if_neg (parse_unheld hheld hleft hmore), hunits]

include hheld hleft hmore in
/-- A new chunk is parsed, and its problems act before its units go. -/
theorem pressDemux_parses (hunits : x.units = none) :
    s.pressDemux c id core =
      let inp := s.pressIn x (x.parsed + 1)
      let o := Config.demux inp x.idx x.parsed
      let t := s.putSample { x with units := some o.units }
      let u := if x.parsed = 0 then t.containerCheck c id x.entry (Config.container inp) else t
      (((if x.lost.contains x.parsed then [9] else []) ++ o.problems).foldl (fun (v : State) p => v.pressProblem c id p) u).demuxRoute
        c id core o.last := by
  simp only [pressDemux, hx, if_neg (parse_unheld hheld hleft hmore), hunits]

/-- All units of the chunk have gone: it is parsed, and the source may end with it. -/
theorem demuxRoute_ends {us : List Nat} {last : Bool} (hunits : x.units = some us)
    (hgone : (s.routeUnits core us x).units = some []) :
    s.demuxRoute c id core last = ((s.unitDone x 1).putSample { s.routeUnits core us x with
      parsed := x.parsed + 1, units := none
      parsedAll := last || decide (fieldLe x.entry 8 8 ≤ x.start + 65536 * (x.parsed + 1)) }).pressShort c id := by
  simp only [demuxRoute, hx, hunits, Option.getD_some, hgone, ne_eq, not_true_eq_false, if_false]

end

/-! The DPB pool of a wing (09 R318) -/

section
variable {s : State} {wing i n : Nat} {rest : List (Nat × Nat)}

/-- The oldest request fits: it leaves the queue, and its sample holds the granules. -/
def dpbGranted (s : State) (wing i n : Nat) (rest : List (Nat × Nat)) : State :=
  (s.modPrs fun p => { p with dpbQ := p.dpbQ.set wing rest }).modSample i fun y => { y with dpb := some n }

theorem dpbReserve_counts {y : Sample} (hq : s.prs.dpbQ.getD wing [] = (i, n) :: rest) (hfits : s.dpbUsed wing + n ≤ s.dpbPool)
    (hy : (s.prs.samples.find? fun z => z.id = i) = some y) : s.dpbReserve wing = (s.dpbGranted wing i n rest).unitDone y 3 := by
  simp only [dpbReserve, hq, if_neg (Nat.not_lt.mpr hfits), hy, dpbGranted]

theorem dpbReserve_unowned (hq : s.prs.dpbQ.getD wing [] = (i, n) :: rest) (hfits : s.dpbUsed wing + n ≤ s.dpbPool)
    (hy : (s.prs.samples.find? fun z => z.id = i) = none) : s.dpbReserve wing = s.dpbGranted wing i n rest := by
  simp only [dpbReserve, hq, if_neg (Nat.not_lt.mpr hfits), hy, dpbGranted]

end

/-! The video core (09 R312, R317, R318, R326, R328, R331) -/

section
variable {s : State} {c id core n : Nat} {x : Sample} {rest : List Nat} {h : SeqHdr}
variable (hx : s.sample c id = some x)
variable (hheld : x.held = none) (hcore : x.core = some core) (hfence : s.coreFenced core = false)

include hheld hcore hfence in
theorem core_unheld : ¬ (x.held.isSome = true ∨ x.core ≠ some core ∨ s.coreFenced core = true) := by
  simp [hheld, hcore, hfence]

include hx hheld hcore hfence

/-- The stream's first unit brings its headers. -/
theorem videoDecode_header (hq : x.auQ = n :: rest) (hseq : x.seq = none) :
    s.videoDecode c id core = s.videoHeader c x (Config.seqHdr (s.pressIn x n)) := by
  simp only [videoDecode, hx, if_neg (core_unheld hheld hcore hfence), hq, hseq]

/-- With its headers, its DPB and no picture left to move, a unit is decoded. -/
theorem videoDecode_unit {d : Nat} (hq : x.auQ = n :: rest) (hseq : x.seq = some h) (hdpb : x.dpb = some d)
    (hready : x.ready = []) : s.videoDecode c id core = s.decodeUnit c x n := by
  have hpool : ¬ (x.dpb.isNone = true ∨ (!x.ready.isEmpty) = true) := by simp [hdpb, hready]
  simp only [videoDecode, hx, if_neg (core_unheld hheld hcore hfence), hq, hseq, if_neg hpool]

end

/-- The unit's pictures take their places; then its problem acts, and its failed pictures are concealed. -/
theorem decodeUnit_eq (s : State) (c : Nat) (x : Sample) (n : Nat) :
    s.decodeUnit c x n =
      let o := Config.decodeAu (s.pressIn x n) x.auNo
      let y := o.pics.zipIdx.foldl (showPic (s.jobRec c) (outFrame0 x) n) (x, 0)
      let t := (s.unitDone x 2).putSample
        (({ y.1 with auQ := x.auQ.drop 1, auNo := x.auNo + 1 } : Sample).stopAt (fieldLe (s.jobRec c) 0x18 2)).moveOut
      let drops := y.2 ≠ 0 ∧ fieldLe (s.jobRec c) 0xD 1 % 4 ≠ 0
      let u := ((o.problem.orElse fun _ => if drops then some 6 else none).map fun p => t.pressProblem c x.id p).getD t
      (if y.2 = 0 then u else u.pressConceal c x.id y.2).pressShort c x.id := by
  unfold decodeUnit
  dsimp only
  generalize Option.orElse _ _ = problem
  cases problem <;> rfl

/-! Sound and captions (09 R335, R336) -/

section
variable {s : State} {c id n : Nat} {x : Sample} {rest : List Nat}

/-- The bytes of the PCM buffer that a sample holds once a unit of its sound is decoded (Table 9.4). -/
def pcmHeld (s : State) (c : Nat) (x : Sample) (n : Nat) : Nat := if x.pcm = 0 then pcmNeed (s.jobRec c) (s.headers x n) else x.pcm

/-- With room for the whole span, one unit of sound is decoded; sound that fails becomes silence. -/
theorem audioDecode_unit (hx : s.sample c id = some x) (hheld : x.held = none) (hq : x.audioQ = n :: rest)
    (hroom : s.pcmHeld c x n + s.unitsElse x (·.pcm) ≤ 32 * 2 ^ 20) :
    s.audioDecode c id =
      let o := Config.audioUnit (s.pressIn x n) x.idx x.audioNo
      let bad := o.bad && decide ((o.first : Rat) < 48000 * spanOf (s.jobRec c) (s.headers x n))
      let t := (s.unitDone x 4).putSample { x with
        audioQ := rest, audioNo := x.audioNo + 1, pcm := s.pcmHeld c x n
        silent := if bad then (o.first, o.count) :: x.silent else x.silent }
      if x.audioNo = 0 ∧ (Config.audioHdr (s.pressIn x n)).supported (fieldLe x.entry 0x32 1) = false then t.pressProblem c id 11
      else if bad then (t.pressProblem c id 8).pressConceal c id 0 else t := by
  unfold pcmHeld at hroom ⊢
  have hgo : ¬ (x.held.isSome = true ∨
      (if x.pcm = 0 then pcmNeed (s.jobRec c) (s.headers x n) else x.pcm) + s.unitsElse x (·.pcm) > 32 * 2 ^ 20) := by
    simpa [hheld] using hroom
  simp only [audioDecode, hx, hq, if_neg hgo, Bool.not_eq_true']

/-- A caption span record enters the sample, or is counted where 64 KiB do not hold it. -/
def addCaption (z : Sample) (b : List Byte) : Sample :=
  if z.caps.length + b.length ≤ 65536 then { z with spans := z.spans + 1, caps := z.caps ++ b }
  else { z with capLoss := true, omitted := z.omitted + 1 }

theorem captionExtract_unit (hx : s.sample c id = some x) (hheld : x.held = none) (hq : x.capQ = n :: rest) :
    s.captionExtract c id =
      let o := Config.captionUnit (s.pressIn x n) x.idx x.capNo
      let y := { x with capQ := rest, capNo := x.capNo + 1 }
      if o.bad then ((s.unitDone x 5).putSample y).pressProblem c id 10
      else (s.unitDone x 5).putSample ((o.spans.filterMap (capRecord (s.jobRec c) (s.headers x n))).foldl addCaption y) := by
  have hadd : (fun (z : Sample) (b : List Byte) =>
      if z.caps.length + b.length > 65536 then { z with capLoss := true, omitted := z.omitted + 1 }
      else { z with spans := z.spans + 1, caps := z.caps ++ b }) = addCaption := by
    funext z b
    simp only [addCaption, ← Nat.not_lt, ite_not]
  simp only [captionExtract, hx, hq, hheld, Option.isSome_none, Bool.false_eq_true, if_false, hadd]

end

/-! The tensorizer (09 R332 to R334) -/

section
variable {s : State} {c id : Nat} {x : Sample} {p : Pic} {rest : List Pic} {h : SeqHdr}

/-- The sample with a picture taken out of its queue and into its frame group. -/
def framed (x : Sample) (p : Pic) (rest : List Pic) : Sample :=
  ({ x with outQ := rest, frames := x.frames + 1, group := x.group ++ [p] } : Sample).moveOut

/-- That sample once its frame group is a block. -/
def blocked (s : State) (c : Nat) (x : Sample) (p : Pic) (rest : List Pic) (h : SeqHdr) : Sample :=
  let y := framed x p rest
  { y with
    group := [], blocks := y.blocks + 1
    tensor := putBlock (s.jobRec c) y.tensor (x.frames / fieldLe (s.jobRec c) 0x34 1)
      (blockBytes (s.jobRec c) (s.flips x) ((x.group ++ [p]).map (s.cropOf x h))) }

/-- A picture that holds the crop is taken, where a block is open or has room; a full frame group is a block. -/
theorem tensorize_takes (hx : s.sample c id = some x) (hheld : x.held = none) (hq : x.outQ = p :: rest) (hseq : x.seq = some h)
    (hframes : x.frames < fieldLe (s.jobRec c) 0x18 2)
    (hroom : x.group = [] → s.blocksUsed + blockSize (s.jobRec c) ≤ 16384)
    (hwidth : (s.cropOrigin x).1 + fieldLe (s.jobRec c) 0x24 2 ≤ h.width)
    (hheight : (s.cropOrigin x).2 + fieldLe (s.jobRec c) 0x26 2 ≤ if p.field = 0 then h.height else h.height / 2) :
    s.tensorize c id = (s.unitDone x 6).putSample
      ((if (x.group ++ [p]).length < fieldLe (s.jobRec c) 0x34 1 then framed x p rest else s.blocked c x p rest h).streamEnd
        (fieldLe (s.jobRec c) 0x18 2)) := by
  have hgo : ¬ (x.held.isSome = true ∨ x.frames ≥ fieldLe (s.jobRec c) 0x18 2
      ∨ (x.group.isEmpty = true ∧ s.blocksUsed + blockSize (s.jobRec c) > 16384)) := by
    simpa [hheld, hframes] using hroom
  have hcrop : ¬ ((s.cropOrigin x).1 + fieldLe (s.jobRec c) 0x24 2 > h.width
      ∨ (s.cropOrigin x).2 + fieldLe (s.jobRec c) 0x26 2 > if p.field = 0 then h.height else h.height / 2) :=
    not_or.mpr ⟨Nat.not_lt.mpr hwidth, Nat.not_lt.mpr hheight⟩
  simp only [tensorize, hx, hq, hseq, if_neg hgo, if_neg hcrop, framed, blocked]

end

/-! The assembler (09 R315, R316, R337) -/

section
variable {s : State} {c id : Nat} {x : Sample}

theorem assembler_unheld (h : ∀ y ∈ s.prs.samples, y.cluster = x.cluster → y.held = none) :
    ¬ (s.prs.samples.any fun y => decide (y.cluster = x.cluster) && y.held.isSome) = true := by
  simpa using h

theorem assemble_whole (hx : s.sample c id = some x)
    (hheld : ∀ y ∈ s.prs.samples, y.cluster = x.cluster → y.held = none) (hwhole : s.wholeSample x = true)
    (hgone : (((s.stageSample c { x with blocks := 0 }).pressFinish { x with blocks := 0 } false false).sample c id).isSome = false) :
    s.assemble c id =
      ((s.stageSample c { x with blocks := 0 }).pressFinish { x with blocks := 0 } false false).unitDone x 7 := by
  simp only [assemble, hx, if_neg (assembler_unheld hheld), hwhole, Bool.not_true, Bool.false_eq_true, if_false, hgone]

theorem assemble_part (hx : s.sample c id = some x)
    (hheld : ∀ y ∈ s.prs.samples, y.cluster = x.cluster → y.held = none) (hpart : s.wholeSample x = false) :
    s.assemble c id = s.putSample { x with blocks := 0 } := by
  simp only [assemble, hx, if_neg (assembler_unheld hheld), hpart, Bool.not_false, if_true]

end

end State

/-! The limiter (09 R321) -/

/-- The busier of a stage found so far and another, the first where they are equal. -/
def busier (a : Option StageBusy) (b : StageBusy) : Option StageBusy :=
  match a with
  | none => some b
  | some x => if b.busy > x.busy then some b else some x

/-- The busiest of the stages measured. -/
def busiest (l : List StageBusy) : Option StageBusy := l.foldl busier none

section
variable {a : Option StageBusy} {b y : StageBusy}

theorem busier_of_lt (h : ∀ x ∈ a, x.busy < b.busy) : busier a b = some b := by
  cases a with
  | none => rfl
  | some x => exact if_pos (h x rfl)

theorem busier_of_le (h : y.busy ≤ b.busy) : busier (some b) y = some b := if_neg (Nat.not_lt.mpr h)

theorem busier_lt {n : Nat} (ha : ∀ x ∈ a, x.busy < n) (hy : y.busy < n) : ∀ x ∈ busier a y, x.busy < n := by
  cases a with
  | none => rintro x ⟨⟩; exact hy
  | some z =>
    unfold busier
    dsimp only
    split
    · rintro x ⟨⟩; exact hy
    · exact ha

/-- A search that meets a stage busier than all others, or has it already, ends with it. -/
theorem foldl_busier_eq {l : List StageBusy} (hmax : ∀ y ∈ l, y ≠ b → y.busy < b.busy)
    (ha : a = some b ∨ b ∈ l ∧ ∀ x ∈ a, x.busy < b.busy) : l.foldl busier a = some b := by
  induction l generalizing a with
  | nil => simpa using ha
  | cons y l ih =>
    obtain ⟨hy, hl⟩ := List.forall_mem_cons.mp hmax
    refine ih hl ?_
    by_cases hyb : y = b
    · subst hyb
      rcases ha with rfl | ⟨-, hless⟩
      · exact .inl (busier_of_le le_rfl)
      · exact .inl (busier_of_lt hless)
    · rcases ha with rfl | ⟨hmem, hless⟩
      · exact .inl (busier_of_le (hy hyb).le)
      · exact .inr ⟨List.mem_of_ne_of_mem (Ne.symm hyb) hmem, busier_lt hless (hy hyb)⟩

end

theorem busiest_eq {b : StageBusy} {l : List StageBusy} (hb : b ∈ l) (hmax : ∀ y ∈ l, y ≠ b → y.busy < b.busy) :
    busiest l = some b := foldl_busier_eq hmax (.inr ⟨hb, nofun⟩)

/-- A set of the eight clusters is a mask of eight bits. -/
theorem clusterMask_lt (p : Nat → Bool) : (((List.range 8).filter p).foldl (fun a cl => a + 2 ^ cl) 0) < 256 := by
  have hsub : (((List.range 8).filter p).map fun cl => 2 ^ cl).Sublist ((List.range 8).map fun cl => 2 ^ cl) :=
    List.filter_sublist.map _
  have hall : ((List.range 8).map fun cl => 2 ^ cl).sum = 255 := by decide
  rw [← List.foldl_map (f := fun cl => 2 ^ cl) (g := (· + ·)), ← List.sum_eq_foldl]
  exact Nat.lt_succ_of_le (hall ▸ hsub.sum_le_sum fun _ _ => Nat.zero_le _)

/-- The stages of a window that show no output wait; the racking engine is not among them (09 R321). -/
def withoutWait (m : List StageBusy) : List StageBusy := m.filter fun x => !x.out && x.stage < 8

theorem mem_withoutWait {m : List StageBusy} {y : StageBusy} : y ∈ withoutWait m ↔ y ∈ m ∧ y.out = false ∧ y.stage < 8 := by
  simp [withoutWait]

theorem busiest_withoutWait {m : List StageBusy} {b : StageBusy} (hb : b ∈ m) (hout : b.out = false) (hstage : b.stage < 8)
    (hmax : ∀ y ∈ m, y.out = false → y.stage < 8 → y ≠ b → y.busy < b.busy) : busiest (withoutWait m) = some b := by
  refine busiest_eq (mem_withoutWait.mpr ⟨hb, hout, hstage⟩) fun y hy => ?_
  obtain ⟨hym, hyout, hystage⟩ := mem_withoutWait.mp hy
  exact hmax y hym hyout hystage

/-- What a window latches: the busiest stage without output wait and its busy time, or the racking engine with its own (Table 9.5). -/
def latched (m : List StageBusy) : Nat × Nat :=
  match busiest (withoutWait m) with
  | some x => (x.stage, x.busy)
  | none => (8, ((m.find? fun x => x.stage = 8).map (·.busy)).getD 0)

theorem latched_of_busiest {m : List StageBusy} {b : StageBusy} (h : busiest (withoutWait m) = some b) : latched m = (b.stage, b.busy) := by
  rw [latched, h]

/-- The busiest stage of one cluster. -/
def latchedIn (m : List StageBusy) (cl : Nat) : Nat :=
  ((busiest ((withoutWait m).filter fun x => x.cluster = cl)).map (·.stage)).getD 8

/-- The clusters whose busiest stage is the window's, a bit each. -/
def latchedClusters (m : List StageBusy) : Nat :=
  ((List.range 8).filter fun cl => latchedIn m cl = (latched m).1).foldl (fun a cl => a + 2 ^ cl) 0

theorem State.limiter_eq (s : State) (m : List StageBusy) : s.limiter m =
    ((s.setRegBits rPRS_LIMITER 24 4 (latched m).1).setRegBits rPRS_LIMITER 10 10 (min (latched m).2 1000)).setRegBits
      rPRS_LIMITER 0 8 (latchedClusters m) := rfl

/-- Settles O22: each stage's clause is what the stage does with the unit that is there, once it has its credit. -/
theorem pressStagesAct : Obligations.PressStagesAct := by
  unfold Obligations.PressStagesAct
  intro s c id x hs hw
  have hprs : s.specified [bPRS] := specified_sub hs (by simp)
  refine ⟨?admits, ?asks, ?fetch, ?continues, ?parses, ?dpb, ?video, ?audio, ?captions, ?tensorizer, ?assembles, ?copies, ?limiter⟩
  case admits =>
    exact fun cl p j n e hp hj hcl hcould hturn hclip hgood b f hstart =>
      run_live hs hw (State.pressAdmit_enters hp hj hcl hcould hturn hclip hgood hstart)
  case asks =>
    exact fun cl p j va n hp hj hcl hcould hturn hclip => run_live hs hw (State.pressAdmit_asks hp hj hcl hcould hturn hclip)
  case fetch =>
    intro hx hfetch hroom
    refine ⟨?fails, fun e hl => ?untranslated, fun ls hl => ⟨fun hfar => ?here, fun hfar => ?far⟩⟩
    case fails => exact run_live hprs hw (State.pressFetch_fails hx hfetch hroom)
    case untranslated => exact run_live hprs hw (State.pressFetch_untranslated hx hfetch hroom hl)
    case here => exact run_live hprs hw (State.pressFetch_here hx hfetch hroom hl hfar)
    case far => exact run_live hprs hw (State.pressFetch_asks hx hfetch hroom hl hfar)
  case continues =>
    intro core us hx hheld hleft hmore hunits y hgone
    exact run_live hprs hw ((State.pressDemux_continues hx hheld hleft hmore hunits).trans (State.demuxRoute_ends hx hunits hgone))
  case parses =>
    exact fun core hx hheld hleft hmore hunits => run_live hprs hw (State.pressDemux_parses hx hheld hleft hmore hunits)
  case dpb =>
    exact fun wing i n rest hq hfits => ⟨fun y hy => run_live hprs hw (State.dpbReserve_counts hq hfits hy),
      fun hy => run_live hprs hw (State.dpbReserve_unowned hq hfits hy)⟩
  case video =>
    intro core n rest hx hheld hcore hfence hq
    obtain rfl := State.sample_id hx
    refine ⟨fun hseq => ?header, fun h d hseq hdpb hready => ?unit⟩
    case header => exact run_live hprs hw (State.videoDecode_header hx hheld hcore hfence hq hseq)
    case unit =>
      exact run_live hprs hw ((State.videoDecode_unit hx hheld hcore hfence hq hseq hdpb hready).trans (State.decodeUnit_eq ..))
  case audio => exact fun n rest hx hheld hq hroom => run_live hprs hw (State.audioDecode_unit hx hheld hq hroom)
  case captions => exact fun n rest hx hheld hq => run_live hprs hw (State.captionExtract_unit hx hheld hq)
  case tensorizer =>
    intro p rest h hx hheld hq hseq f hframes hroom hwidth hheight
    have htakes := State.tensorize_takes hx hheld hq hseq hframes hroom hwidth hheight
    refine ⟨fun hopen => ?opened, fun hfull => ?full⟩
    case opened =>
      rw [if_pos hopen] at htakes
      exact run_live hprs hw htakes
    case full =>
      rw [if_neg (Nat.not_lt.mpr hfull)] at htakes
      exact run_live hprs hw htakes
  case assembles =>
    exact fun hx hheld hwhole hgone => run_live hprs hw (State.assemble_whole hx hheld hwhole hgone)
  case copies => exact fun hx hheld hpart => run_live hprs hw (State.assemble_part hx hheld hpart)
  case limiter =>
    intro m b hb hout hstage hmax
    refine ⟨latchedClusters m, clusterMask_lt _, run_live hprs hw ?_⟩
    rw [State.limiter_eq, latched_of_busiest (busiest_withoutWait hb hout hstage hmax)]

end Sys2Proof.Machine
end

section
/-! PROOFS. PRESS_OPEN, PRESS_CLOSE, RACK_OPEN and RACK_CLOSE (O23). -/

namespace Sys2Proof.Machine

section
variable {s t u : State} {q : Req} {op used : Nat} {nsp : Bool}

/-! A command that may wait, once it goes -/

theorem cmdWait_answers {f : State → State × Option Ans} {a : Ans} (hgo : s.cmdGoes q op used nsp t) (hf : f t = (u, some a)) :
    s.cmdWait q op used nsp f = u.answer q a := by
  rw [cmdWait_goes hgo, hf]
  rfl

theorem cmdWait_waits {f : State → State × Option Ans} (hgo : s.cmdGoes q op used nsp t) (hf : f t = (u, none)) :
    s.cmdWait q op used nsp f = u := by
  rw [cmdWait_goes hgo, hf]
  rfl

/-! The job record of an open (09 R322; 10 R354; 08 R284) -/

namespace State

variable {c va : Nat} {bs : List Byte} {f : State → List Byte → State × Ans}

theorem openWith_unreadable {e : Nat × XErr} (h : t.farRead (.job c) c none va 128 = .error e) :
    t.openWith q c va f = (t, some { status := cREFUSED, detail := 1 }) := by simp only [openWith, h]

theorem openWith_waits (h : t.farRead (.job c) c none va 128 = .ok (none, u)) :
    t.openWith q c va f = ({ u with host := { u.host with waiting := some q } }, none) := by simp only [openWith, h]

theorem openWith_comes {v : State} {a : Ans} (h : t.farRead (.job c) c none va 128 = .ok (some bs, u)) (hf : f u bs = (v, a)) :
    t.openWith q c va f = (v, some a) := by simp only [openWith, h, hf]

/-- A press record that meets R324 opens its job. -/
theorem pressOpenAt_opens (hbad : pressBad bs = none) : u.pressOpenAt c bs =
    ((u.modPrs fun p => { p with jobs := mapSet p.jobs c (some { rec' := bs, maxSize := pressMaxSize bs }) }).activity,
      { status := cOK }) := by
  unfold pressOpenAt
  split
  next d h => cases hbad.symm.trans h
  next => rfl

/-- A rack record that meets R354 opens its job; else the number of the first condition it breaks is the detail (log 24). -/
theorem rackOpenAt_opens {n : Nat} (hbad : (u.rackBad c bs n).find? (·.1) = none) :
    u.rackOpenAt c n bs = (u.rackStart c (u.rackJobOf c bs), { status := cOK }) := by simp only [rackOpenAt, hbad]

theorem rackOpenAt_refuses {n d : Nat} {b : Bool} (hbad : (u.rackBad c bs n).find? (·.1) = some (b, d)) :
    u.rackOpenAt c n bs = (u, { status := cREFUSED, detail := d }) := by simp only [rackOpenAt, hbad]

end State

/-! The four commands, on a context that is there -/

variable {x : Ctx}

theorem State.pressOpenRun_reads (hx : t.ctx (q.arg 0) = some x) (hj : t.pressJob (q.arg 0) = none) :
    t.pressOpenRun q = t.openWith q (q.arg 0) (q.arg 1) fun v r => v.pressOpenAt (q.arg 0) r := by
  rw [pressOpenRun, if_neg (by simp [hx]), if_neg (by simp [hj])]

theorem State.rackOpenRun_reads (hx : t.ctx (q.arg 0) = some x) (hj : t.rackJob (q.arg 0) = none) :
    t.rackOpenRun q = t.openWith q (q.arg 0) (q.arg 1) fun v bs => v.rackOpenAt (q.arg 0) (v.pressMax (q.arg 0)) bs := by
  rw [rackOpenRun, if_neg (by simp [hx]), if_neg (by simp [hj])]

theorem effPressClose_goes {j : PressJob} (hgo : s.cmdGoes q 5 1 false t) (hx : t.ctx (q.arg 0) = some x)
    (hj : t.pressJob (q.arg 0) = some j) : effPressClose q s = ((t.pressEnd (q.arg 0)).activity).answer q { status := cOK } :=
  cmd_goes hgo ((onCtx_some hx).trans (if_neg (by simp [hj])))

theorem effRackClose_goes {j : RackJob} (hgo : s.cmdGoes q 7 1 false t) (hx : t.ctx (q.arg 0) = some x)
    (hj : t.rackJob (q.arg 0) = some j) : effRackClose q s = ((t.rackEnd (q.arg 0)).activity).answer q { status := cOK } :=
  cmd_goes hgo ((onCtx_some hx).trans (if_neg (by simp [hj])))

end

/-- Settles O23: an open by what the read of its record gives and what the record says, a close by its end of the job. -/
theorem jobCommandsAct : Obligations.JobCommandsAct := by
  unfold Obligations.JobCommandsAct
  intro s t q x c
  refine ⟨?pressOpen, ?pressClose, ?rackOpen, ?rackClose⟩
  case pressOpen =>
    intro bs u hs hgo hx hj hread hbad
    have hrun := (State.pressOpenRun_reads hx hj).trans (State.openWith_comes hread (State.pressOpenAt_opens hbad))
    exact run_eq hs (cmdWait_answers hgo hrun)
  case pressClose => exact fun j hs hgo hx hj => run_eq hs (effPressClose_goes hgo hx hj)
  case rackOpen =>
    intro hs hgo hx hj
    have hreads := State.rackOpenRun_reads hx hj
    refine ⟨fun e hread => ?_, fun u hread => ?_, fun bs u hread => ⟨fun hbad => ?_, fun b d hbad => ?_⟩⟩
    · exact run_eq hs (cmdWait_answers hgo (hreads.trans (State.openWith_unreadable hread)))
    · exact run_eq hs (cmdWait_waits hgo (hreads.trans (State.openWith_waits hread)))
    · exact run_eq hs (cmdWait_answers hgo (hreads.trans (State.openWith_comes hread (State.rackOpenAt_opens hbad))))
    · exact run_eq hs (cmdWait_answers hgo (hreads.trans (State.openWith_comes hread (State.rackOpenAt_refuses hbad))))
  case rackClose => exact fun j hs hgo hx hj => run_eq hs (effRackClose_goes hgo hx hj)

end Sys2Proof.Machine
end

section
/-! PROOFS. Rack transfers: DATA, CREDIT, DROPPED, and a staged sample that is sent (O24). -/

namespace Sys2Proof.Machine

namespace State

/-- A module that works and does not drain is READY or RUNNING. -/
theorem working_takes {s : State} (hw : s.working = true) (hd : s.devState ≠ stDRAINING) :
    (s.devState = stREADY || s.devState = stRUNNING) = true := by
  simpa [working, hd] using hw

/-! A rack transfer that a job takes, by its kind (10 R356, R358, R360) -/

section
variable {s : State} {k : Packet} {c : Nat} {j : RackJob}

section
variable {kind : Nat} (hop : k.op = opRACK) (hrsp : k.rsp = false)
include hop hrsp

theorem rackKind_matches (hkind : k.arg % 4 = kind) : ¬ (k.op ≠ opRACK || k.rsp || k.arg % 4 ≠ kind) = true := by
  simp [hop, hrsp, hkind]

variable (hready : (s.devState = stREADY || s.devState = stRUNNING) = true) (hfor : (s.fromInbox k).2.rackFor k = some (c, j))
include hready hfor

theorem rackPacket_data (hkind : k.arg % 4 = rkDATA) :
    s.rackPacket k rkDATA = (s.fromInbox k).2.rackLand c (s.fromInbox k).1 k := by
  simp only [rackPacket, if_neg (rackKind_matches hop hrsp hkind), hready, Bool.not_true, Bool.false_eq_true, hfor, if_true, if_false]

theorem rackPacket_credit (hkind : k.arg % 4 = rkCREDIT) :
    s.rackPacket k rkCREDIT = ((s.fromInbox k).2.modRack c fun j =>
      { j with horizons := natPut j.horizons k.src k.addr }).respond (s.fromInbox k).1 k rsOK [] := by
  simp only [rackPacket, if_neg (rackKind_matches hop hrsp hkind), hready, Bool.not_true, Bool.false_eq_true, hfor, if_true, if_false,
    show ¬ rkCREDIT = rkDATA by decide]

/-- Of the positions that the ring holds, one that still waits or counts as late is dropped; any other stays as it is (R359, R360). -/
theorem rackPacket_dropped {sl : Nat} (hkind : k.arg % 4 = rkDROPPED) (hslot : (s.fromInbox k).2.rackSlot j k.addr = some sl) :
    s.rackPacket k rkDROPPED =
      let t := (s.fromInbox k).2
      let a := (j.arr.find? fun x => x.g = k.addr).getD { g := k.addr }
      (if a.st = 0 ∨ a.st = 3 then (t.putArrival c { g := k.addr, st := 2, t := s.now }).rackTrace c k.addr 1
        else t).respond (s.fromInbox k).1 k rsOK [] := by
  simp only [rackPacket, if_neg (rackKind_matches hop hrsp hkind), hready, Bool.not_true, Bool.false_eq_true, hfor, if_false,
    show ¬ rkDROPPED = rkDATA by decide, show ¬ rkDROPPED = rkCREDIT by decide, hslot]

end

/-! The landing of a DATA packet (10 R358, R359) -/

/-- A piece lies within its slot, and a first piece carries its position's sample with a size that the slot takes. -/
theorem landing_sound {sample size limit off n want : Nat} {total : Option Nat} (hfit : off + n ≤ limit)
    (hhead : off = 0 → sample = want ∧ size ≠ 0 ∧ size ≤ limit) (htotal : off = 0 → total = some size) :
    ¬ (((decide (off = 0) && (decide (sample ≠ want) || decide (total = some 0) || total.any (· > limit)))
      || decide (off + n > limit)) = true) := by
  by_cases h0 : off = 0
  · obtain ⟨hsample, hpos, hsize⟩ := hhead h0
    rw [htotal h0]
    simp [hsample, hpos, hsize, hfit]
  · simp [h0, hfit]

/-- What has come of a DATA packet's position; the first piece of a position that counted as late starts it again (R359). -/
def landingArrival (j : RackJob) (k : Packet) : Arrival :=
  let a := (j.arr.find? fun x => x.g = k.addr).getD { g := k.addr }
  if a.st = 3 ∧ k.arg / 2 ^ 32 = 0 then { g := k.addr } else a

/-- The size of the sample, which its first piece gives (09 Table 9.8). -/
def landingTotal (j : RackJob) (k : Packet) : Option Nat :=
  if k.arg / 2 ^ 32 = 0 then some (fieldLe k.data 0x38 4) else (landingArrival j k).total

/-- A sound piece of a position that still waits is written. -/
theorem rackLand_stores {t : State} {p sl : Nat} (hjob : t.rackJob c = some j)
    (hgoes : t.rackStopped = false) (hslot : t.rackSlot j k.addr = some sl) (hwaits : (landingArrival j k).st = 0)
    (hfit : k.arg / 2 ^ 32 + k.data.length ≤ j.slotBytes)
    (hhead : k.arg / 2 ^ 32 = 0 →
      fieldLe k.data 0 8 = rackSample j k.addr ∧ fieldLe k.data 0x38 4 ≠ 0 ∧ fieldLe k.data 0x38 4 ≤ j.slotBytes) :
    t.rackLand c p k = t.rackStore c p k j sl (landingArrival j k) (landingTotal j k) := by
  have hsound := landing_sound hfit hhead fun h0 => show landingTotal j k = _ from if_pos h0
  simp only [rackLand, hjob, hgoes, Bool.false_eq_true, if_false, hslot]
  exact (if_neg (not_not.mpr hwaits)).trans (if_neg hsound)

/-- A racking write that translates and has all its bytes at hand lands. -/
theorem rackStore_lands {t u : State} {p sl : Nat} {a : Arrival} {total : Option Nat}
    (hwrite : t.farWrite (.racking c k.addr (k.arg / 2 ^ 32)) c none (j.recv + sl * j.slotBytes + k.arg / 2 ^ 32) k.data
      = .ok (true, u)) : t.rackStore c p k j sl a total = u.rackLanded c p k a total := by
  simp only [rackStore, hwrite]

/-! A staged sample that is sent (10 R358; 11 R403) -/

theorem rackSend_sends {g : Nat} {x : Staged} (hjob : s.rackJob c = some j)
    (hx : (s.rck.stage.find? fun x => x.ctx = c && x.g = g && !x.sent) = some x) :
    s.rackSend c g =
      let n := cdiv x.bytes.length 4096
      let ms := rackModules j g
      let u : State := { s with rck := { s.rck with stage := s.rck.stage.map fun (y : Staged) =>
        if y.ctx = c ∧ y.g = g then { y with sent := true, waits := n * ms.length } else y } }
      ((ms.foldl (fun t m => (List.range n).foldl (fun v i => v.request (.rack c g) {
        op := opRACK, dst := m, addr := g, arg := 4096 * i * 2 ^ 32, data := (x.bytes.drop (4096 * i)).take 4096 }) t) u).bump
        fmRACKING 0 4 1).bump fmPRESS (9 * x.cluster + 8) 0 1 := by
  simp only [rackSend, hjob, hx]

end

end State

/-- Settles O24: a transfer by its kind, a landing by its checks and its racking write, a sending by its staged sample. -/
theorem rackTransfersAct : Obligations.RackTransfersAct := by
  unfold Obligations.RackTransfersAct
  intro s k c j hs hw p t
  refine ⟨fun hd hop hrsp hfor => ?_, fun g x hjob hx => ?send⟩
  have hready := State.working_takes hw hd
  refine ⟨?data, ?lands, ?credit, ?dropped⟩
  case data => exact fun hkind => run_eq hs (State.rackPacket_data hop hrsp hready hfor hkind)
  case lands =>
    intro sl u hkind hjob hgoes hslot off a0 a total hwaits hfit hhead hwrite
    have htaken := State.rackPacket_data hop hrsp hready hfor hkind
    have hstores := State.rackLand_stores (p := p) hjob hgoes hslot hwaits hfit hhead
    exact run_eq hs ((htaken.trans hstores).trans (State.rackStore_lands hwrite))
  case credit => exact fun hkind => run_eq hs (State.rackPacket_credit hop hrsp hready hfor hkind)
  case dropped => exact fun sl hkind hslot => run_eq hs (State.rackPacket_dropped hop hrsp hready hfor hkind hslot)
  case send => exact run_live (specified_sub hs (by simp)) hw (State.rackSend_sends hjob hx)

end Sys2Proof.Machine
end

section
/-! PROOFS. The ports' states (O42), and the flits, the link's timers and the stop wave (O43). -/

namespace Sys2Proof.Machine

/-! What the fabric does while the module has power -/

section
variable {bs : List Nat} {s t u : State} {p : Nat}

/-- An event of a port acts in every device state but OFF. -/
theorem run_portOn (hs : s.specified bs) (hp : p < 32) (hoff : s.devState ≠ stOFF) (e : t = u) :
    run bs s (s.portOn p t) = .next (s.after u) :=
  run_eq hs ((if_neg (not_or.mpr ⟨hoff, Nat.not_le.mpr hp⟩)).trans e)

/-- An event of the module that needs power only. -/
theorem run_powered (hs : s.specified bs) (hoff : s.devState ≠ stOFF) (e : t = u) : run bs s (s.powered t) = .next (s.after u) :=
  run_eq hs ((if_neg hoff).trans e)

end

/-! A port changes its state (11 Table 11.2) -/

section
variable {s : State} {p src : Nat}

namespace State

/-- Leaving UP loses the link (11 R389, R405); leaving any other state changes the state alone. -/
theorem portTo_of_up (h : s.portState p = psUP) (dst : Nat) : s.portTo p dst = (s.setPort p dst).loseLink p := if_pos h
theorem portTo_of_not_up (h : s.portState p ≠ psUP) (dst : Nat) : s.portTo p dst = s.setPort p dst := if_neg h

theorem portStep_of_up (h : s.portState p = psUP) (dst : Nat) : s.portStep p psUP dst = (s.setPort p dst).loseLink p :=
  (if_pos h).trans (portTo_of_up h dst)
theorem portStep_of_not_up (h : s.portState p = src) (hup : src ≠ psUP) (dst : Nat) : s.portStep p src dst = s.setPort p dst :=
  (if_pos h).trans (portTo_of_not_up (h.trans_ne hup) dst)

theorem portDisable_leaves (h : (s.setRegBit (rFAB_PORT p) 0 true).portState p ≠ psDISABLED) :
    s.portDisable p = ((s.setRegBit (rFAB_PORT p) 0 true).portTo p psDISABLED).gate (96 + p) := if_neg h

end State

/-- A port whose signal goes away is DOWN, from every state that has a signal. -/
theorem effPortLossOfSignal_leaves (hdis : s.portState p ≠ psDISABLED) (hdown : s.portState p ≠ psDOWN) :
    effPortLossOfSignal p s = s.portTo p psDOWN := if_neg (not_or.mpr ⟨hdis, hdown⟩)

end

/-- Settles O42: each event takes the port from the state it is in, and loses its link where that state is UP. -/
theorem portStatesAct : Obligations.PortStatesAct := by
  unfold Obligations.PortStatesAct
  intro s p hs hp hoff
  have exec_port {e : Instr} {v u : State} (he : exec e s = run [bFAB] s (s.portOn p v)) (hv : v = u) :
      exec e s = .next (s.after u) := he.trans (run_portOn hs hp hoff hv)
  refine ⟨?disable, ?clear, ?signal, ?training, ?lock, ?lockLost, ?signalLostInUp, ?signalLost, ?timeout⟩
  case disable =>
    intro t
    refine ⟨fun hdis => exec_port rfl (if_pos hdis), fun hdis hup => ?_, fun hup => ?_⟩
    · exact exec_port rfl ((State.portDisable_leaves hdis).trans (by rw [State.portTo_of_not_up hup]))
    · exact exec_port rfl ((State.portDisable_leaves (hup.trans_ne (by decide))).trans (by rw [State.portTo_of_up hup]))
  case clear =>
    intro t
    exact ⟨fun hdis => exec_port rfl (if_pos hdis), fun hdis => exec_port rfl (if_neg hdis)⟩
  case signal => exact fun h => exec_port rfl (State.portStep_of_not_up h (by decide) _)
  case training => exact fun h => exec_port rfl (State.portStep_of_not_up h (by decide) _)
  case lock => exact fun h => exec_port rfl (if_pos h)
  case lockLost => exact fun h => exec_port rfl (State.portStep_of_up h _)
  case signalLostInUp =>
    intro h
    have hleaves := effPortLossOfSignal_leaves (h.trans_ne (by decide)) (h.trans_ne (by decide))
    exact exec_port rfl (hleaves.trans (State.portTo_of_up h _))
  case signalLost =>
    intro h
    obtain ⟨hdis, hdown, hup⟩ : s.portState p ≠ psDISABLED ∧ s.portState p ≠ psDOWN ∧ s.portState p ≠ psUP := by
      rcases h with h | h | h | h <;> simp [h]
    exact exec_port rfl ((effPortLossOfSignal_leaves hdis hdown).trans (State.portTo_of_not_up hup _))
  case timeout => exact fun h => exec_port rfl (State.portStep_of_not_up h (by decide) _)

/-! Flits (11 R383, R385, R387, R388) -/

section
variable {s : State} {p ty : Nat} {f : DataFlit} {g : State → State}

namespace State

/-- A good flit of the type expected is counted and does what its type does. -/
theorem rxFlit_good (hup : s.portUp p = true) (hty : f.isType ty = true) (hgood : f.good = true) :
    s.rxFlit p f ty g = g (s.bump fmPORT p 1 1) := by
  have hlen : f.bytes.length = 256 := by simp only [DataFlit.isType, Bool.and_eq_true, decide_eq_true_eq] at hty; exact hty.1
  simp [rxFlit, hup, hlen, hgood, hty]

/-- A flit that the FEC or the CRC finds bad is discarded, with a NAK. -/
theorem rxFlit_bad (hup : s.portUp p = true) (hlen : f.bytes.length = 256) (hbad : f.good = false) :
    s.rxFlit p f ty g = ((s.bump fmPORT p 1 1).bump fmPORT p 2 1).nakOnce p := by
  simp [rxFlit, hup, hlen, hbad]

end State

/-- An equal version in INIT completes the exchange of a port that has sent its own TRAIN flit. -/
theorem effTrainFlit_completes {f : TrainFlit} (hinit : s.portState p = psINIT) (hversion : f.version = Config.fabricVersion) :
    let t := ((s.bump fmPORT p 1 1).heard p f.link).modPort p fun q => { q with trainSeen := true, bufs := f.bufs }
    (t.port p).trainSent = true → effTrainFlit p f s = (t.setPort p psUP).pump p := by
  intro t hsent
  have hgoes : ¬ (s.portState p ≠ psINIT ∧ (!s.portUp p) = true) := fun h => h.1 hinit
  rw [effTrainFlit, if_neg hgoes]
  simp only [if_neg (not_not.mpr hversion), if_neg (hinit.trans_ne (by decide : psINIT ≠ psUP))]
  exact congrArg (fun v : State => (v.setPort p psUP).pump p) (if_pos hsent)

/-- A new stop pair is heard, the wave goes on, and the module halts. -/
theorem effStopFlit_new {id org w : Nat} {v : Bool} (hup : s.portUp p = true) (hty : f.isType 3 = true) (hgood : f.good = true)
    (hfields : stopFields f = (id, org, v, w)) (hnew : s.fab.stops.contains (id, org) = false) :
    effStopFlit p f s = (((s.bump fmPORT p 1 1).heard p f.link).stopWave id org v w).halt := by
  refine (State.rxFlit_good hup hty hgood).trans ?_
  simp only [hfields]
  exact if_neg (Bool.eq_false_iff.mp hnew)

end

/-- STOP# falls where this module neither drives it nor has let it go within the last 1 µs (22 R695). -/
theorem effStopPinFall_stops {s : State} (hoff : s.devState ≠ stOFF) (hdriven : s.dbg.stopDriven = false)
    (hrel : ∀ t, s.dbg.stopRel = some t → t + 1000 ≤ s.now) : effStopPinFall s = s.globalStop := by
  have hnear : (s.dbg.stopRel.map fun t => decide (s.now < t + 1000)).getD false = false := by
    cases h : s.dbg.stopRel with
    | none => rfl
    | some t => exact decide_eq_false (Nat.not_lt.mpr (hrel t h))
  simp [effStopPinFall, hoff, hdriven, hnear]

/-- Settles O43: a flit by its type, its check and its number; each timer by what it finds on its port. -/
theorem flitsAct : Obligations.FlitsAct := by
  unfold Obligations.FlitsAct
  intro s p hs hp hoff
  have exec_port {e : Instr} {v u : State} (he : exec e s = run [bFAB] s (s.portOn p v)) (hv : v = u) :
      exec e s = .next (s.after u) := he.trans (run_portOn (specified_sub hs (by simp)) hp hoff hv)
  have hdbg : s.specified [bDBG] := specified_sub hs (by simp)
  refine ⟨?train, ?data, ?bad, ?nak, ?idle, ?nakAgain, ?replay, ?lost, ?reserved, ?stop, ?pin, ?release⟩
  case train =>
    intro f hinit hversion t hsent
    exact exec_port rfl (effTrainFlit_completes hinit hversion hsent)
  case data => exact fun f hup hty hgood hseq => exec_port rfl ((State.rxFlit_good hup hty hgood).trans (if_pos hseq))
  case bad => exact fun f hup hlen hbad => exec_port rfl (State.rxFlit_bad hup hlen hbad)
  case nak => exact fun l hup => exec_port rfl (if_pos hup)
  case idle => exact fun l hup => exec_port rfl (if_pos hup)
  case nakAgain => exact fun hup hsent => exec_port rfl (if_pos ⟨hup, hsent⟩)
  case replay => exact fun hup hwaits => exec_port rfl (if_pos ⟨hup, hwaits⟩)
  case lost => exact exec_port rfl rfl
  case reserved => exact fun ty l h5 h15 hup => exec_port rfl (if_pos ⟨h5, h15, hup⟩)
  case stop =>
    exact fun f id org v w hup hty hgood hfields hnew =>
      run_portOn hs hp hoff (effStopFlit_new hup hty hgood hfields hnew)
  case pin => exact fun hdriven hrel => run_eq hdbg (effStopPinFall_stops hoff hdriven hrel)
  case release => exact fun hdriven => run_eq hdbg (if_pos hdriven)

end Sys2Proof.Machine
end

section
/-! PROOFS. Hellos, partners and JOIN (O25), and the fabric manager's messages (O26). -/

namespace Sys2Proof.Machine

/-! Discovery: what each event's effect is once it is due (11 R411 to R414) -/

section
variable {s : State} {p : Nat}

/-- A neighbour heard of no more: its entry no longer names the port, and the port shows none. -/
def State.forgetNeighbour (s : State) (p : Nat) (h : Hello) : State :=
  (((s.modPort p fun q => { q with hello := none }).modPartner h.serial fun x =>
    { x with ports := if x.ports.testBit p then x.ports - 2 ^ p else x.ports }).setRegBits (rFAB_PORT p) 23 4 15).setRegBit
    (rFAB_PORT p) 22 false

/-- Five hello times without a hello end the neighbour, and the alignment that hung on it alone goes to holdover (11 R414; 16 R561). -/
theorem effNeighbourLost_silent {h : Hello} {t : Nat} (hhello : (s.port p).hello = some (h, t)) (hdue : t + 5 * s.helloNs ≤ s.now) :
    effNeighbourLost p s =
      let u := s.forgetNeighbour p h
      if u.aligned && s.parentAligned && !u.parentAligned then u.holdover else u := by
  simp only [effNeighbourLost, hhello]
  exact if_neg fun hwaits => Nat.not_lt.mpr hdue hwaits.2

/-- A partner that no port hears, and whose last announcement is five hello times old, is LOST (11 R414). -/
theorem effPartnerLost_silent {x : Partner} (hx : s.fab.partners[p]? = some x) (hnear : x.nearHello = true) (hports : x.ports = 0)
    (hhealth : x.health ≠ hLOST) (hdue : x.annT + 5 * s.helloNs ≤ s.now) :
    effPartnerLost p s = s.putPartner { x with health := hLOST } := by
  simp only [effPartnerLost, hx]
  exact if_neg (by simp [hnear, hports, hhealth, Nat.not_lt.mpr hdue])

/-- A module whose ASSIGN has not come asks the manager it knows (11 R412). -/
theorem effJoinSend_known {ser m : Nat} (hw : s.working = true) (hnew : s.fab.assigned = false)
    (hmgr : s.fab.manager = some (ser, m)) :
    effJoinSend s =
      let k : Packet := { op := opMGMT, dst := m, arg := 2 }
      let mask := leBytes 4 ((((List.range 32).filter fun p => s.portState p = psUP).map fun p => 2 ^ p).sum)
      s.request .mgmt { k with data := State.helloBytes (s.myHello ((s.routePort k).getD 0)) ++ mask } := by
  rw [effJoinSend, if_neg (by simp [hw, hnew])]
  simp only [hmgr]

end

/-- Settles O25: each event by what its port, its neighbour or its partner shows. -/
theorem discoveryActs : Obligations.DiscoveryActs := by
  unfold Obligations.DiscoveryActs
  intro s p hs
  have exec_port {e : Instr} {v u : State} (hp : p < 32) (hoff : s.devState ≠ stOFF)
      (he : exec e s = run [bFAB] s (s.portOn p v)) (hv : v = u) : exec e s = .next (s.after u) :=
    he.trans (run_portOn hs hp hoff hv)
  refine ⟨?hello, ?send, ?neighbour, ?partner, ?join⟩
  case hello =>
    intro h now hp hoff hup wrong t u twin
    have heard : effHello p h s =
        if h.num.isSome ∧ h.num = u.fab.num ∧ h.serial ≠ u.serial ∧ u.fab.taken.isNone then u.displaced else u :=
      if_neg (by simp [hup])
    simp only [Option.isNone_iff_eq_none] at heard
    exact ⟨fun htwin => exec_port hp hoff rfl (heard.trans (if_pos htwin)),
      fun hone => exec_port hp hoff rfl (heard.trans (if_neg hone))⟩
  case send => exact fun hp hoff hup => exec_port hp hoff rfl (if_pos hup)
  case neighbour =>
    intro h t hp hoff hhello hdue u
    exact exec_port hp hoff rfl (effNeighbourLost_silent hhello hdue)
  case partner =>
    exact fun x hoff hx hnear hports hhealth hdue =>
      run_powered hs hoff (effPartnerLost_silent hx hnear hports hhealth hdue)
  case join => exact fun ser m hw hnew hmgr => run_eq hs (effJoinSend_known hw hnew hmgr)

/-! Messages of the fabric manager, once they go and what they hold is within their rules (11 R412) -/

section
variable {bs : List Nat} {s t u : State} {k : Packet} {ty p : Nat}

theorem run_mgmtGoes {f : State → Option (State × List Byte)} {d : List Byte} (hs : s.specified bs) (hgo : s.mgmtGoes k ty p t)
    (hf : f t = some (u, d)) : run bs s (s.mgmt k ty f) = .next (s.after (u.respond p k rsOK d)) :=
  run_mgmt hs hgo.1 (.inl hgo.2) hf

/-- A number that suits the position of a module in READY without a context is taken (11 R394, R412). -/
theorem assign_within {d : Nat} (hready : t.devState = stREADY) (hidle : t.ctxs.all (·.isNone) = true) (hfits : t.fitsHouse d = true) :
    ¬ (t.devState ≠ stREADY || t.ctxs.any Option.isSome || !t.fitsHouse d) = true := by
  have hnone : t.ctxs.any Option.isSome = false := by simpa using hidle
  simp [hready, hnone, hfits]

/-- Announced entries that all find a place enter the table (11 R413). -/
theorem effAnnounce_enters (hgo : s.mgmtGoes k 5 p t) (h0 : k.data.length / 32 ≠ 0) (h8 : k.data.length / 32 ≤ 8)
    (hwhole : k.data.length % 32 = 0)
    (hall : ((List.range (k.data.length / 32)).map fun i => Partner.parse (k.data.drop (32 * i))).foldl
      (fun acc x => acc.bind fun u => u.announce1 k.src x) (some t) = some u) :
    effAnnounce k s = u.respond p k rsOK [] := by
  obtain ⟨htake, hvest⟩ := hgo
  simp only [effAnnounce, htake, hall]
  exact if_neg (by simp [hvest, h0, hwhole, Nat.not_lt.mpr h8])

/-- A message of a type that no command serves is refused. -/
theorem effUnknownMgmt_refuses (hty : mgmtTypes.contains (k.arg % 65536) = false)
    (htake : s.takeMgmt k [k.arg % 65536] = some (p, t)) : effUnknownMgmt k s = t.mgmtRefuse p k := by
  rw [effUnknownMgmt, if_neg (Bool.eq_false_iff.mp hty), htake]

end

/-- Settles O26: each message that goes is served, its fields being within their rules. -/
theorem managerMessagesAct : Obligations.ManagerMessagesAct := by
  unfold Obligations.ManagerMessagesAct
  intro s t k p hs
  refine ⟨?assign, ?route, ?announce, ?withdraw, ?query, ?unknown⟩
  case assign =>
    intro hgo hready hidle d hfits t1
    exact run_mgmtGoes hs hgo (if_neg (assign_within hready hidle hfits))
  case route =>
    intro hgo i n h0 h120 hin hlen
    exact run_mgmtGoes hs hgo (if_neg (by omega))
  case announce => exact fun u hgo h0 h8 hwhole hall => run_eq hs (effAnnounce_enters hgo h0 h8 hwhole hall)
  case withdraw =>
    intro hgo ser h0 h30
    exact run_mgmtGoes hs hgo (if_neg (not_or.mpr ⟨mt List.isEmpty_iff.mp h0, Nat.not_lt.mpr h30⟩))
  case query => exact fun htake h0 h127 => run_mgmt hs htake (.inr rfl) (if_neg (by omega))
  case unknown => exact fun hty htake => run_eq hs (effUnknownMgmt_refuses hty htake)

end Sys2Proof.Machine
end

section
/-! PROOFS. Transactions at their target, echoes, the request timer, forwarding and responses (O40). -/

namespace Sys2Proof.Machine

namespace State

/-! Places that all lie on this module need nothing of another (08 R284) -/

section
variable {ls : List (Nat × Loc × Nat)}

theorem not_glob_of_farOf_none (h : farOf ls = none) : ∀ x ∈ ls, ∀ ga, x.2.1 ≠ .glob ga := by
  intro x hx ga hglob
  have hnone := List.findSome?_eq_none_iff.mp h x hx
  rw [hglob] at hnone
  cases hnone

theorem farPieces_near (h : farOf ls = none) : farPieces ls = [] := by
  refine List.flatMap_eq_nil_iff.mpr fun x hx => ?_
  split
  case h_1 ga hglob => exact absurd hglob (not_glob_of_farOf_none h x hx ga)
  case h_2 => rfl

theorem farReady_near (h : farOf ls = none) (t : State) (who : FarWho) : t.farReady who ls = true := by
  rw [farReady, farPieces_near h]
  rfl

theorem farBytes_near (h : farOf ls = none) (t : State) (who : FarWho) :
    t.farBytes who ls = ls.flatMap fun x => t.locRead x.2.1 x.2.2 := by
  refine List.flatMap_congr fun x hx => ?_
  split
  case h_1 ga hglob => exact absurd hglob (not_glob_of_farOf_none h x hx ga)
  case h_2 => rfl

end

/-! READ, WRITE and ATOMIC of places of this module (11 R402, R403) -/

section
variable {s t : State} {k : Packet} {p op : Nat} {ecc : Bool} {ls : List (Nat × Loc × Nat)}

theorem takePacket_op (h : s.takePacket k op = some (p, t)) : k.op = op := by
  by_contra hne
  rw [takePacket, if_neg fun hk => hne hk.1] at h
  cases h

/-- A request in space 0b00 goes to memory. -/
theorem serve_mem (htake : s.takePacket k op = some (p, t)) (hspace : k.addr / 2 ^ 62 % 4 = 0) : s.serve k op ecc = t.serveMem p k ecc := by
  simp only [serve, htake, hspace]

/-- A module that is READY or RUNNING serves requests. -/
theorem serves_of_ready (hready : t.devState = stREADY ∨ t.devState = stRUNNING) :
    (!(t.devState = stREADY || t.devState = stRUNNING)) = false := by
  rcases hready with h | h <;> simp [h]

/-- Bytes that do not cross a 4 KiB boundary are within what one request asks for (11 R402). -/
theorem fits_page {a n : Nat} (hn : 0 < n) (hpage : a % 4096 + n ≤ 4096) : ¬ (n = 0 ∨ n > 4096 ∨ a % 4096 + n > 4096) := by omega

variable (hready : t.devState = stREADY ∨ t.devState = stRUNNING) (hfar : farOf ls = none)
include hready hfar

/-- A READ answers the bytes of its places, what a rebuild withholds excepted. -/
theorem serveMem_read (hop : k.op = opREAD) (hn : 0 < k.arg % 8192) (hpage : k.addr % 4096 + k.arg % 8192 ≤ 4096)
    (hserved : t.unserved k.addr (k.arg % 8192) = false) (hspan : t.winSpan k.addr (k.arg % 8192) .rd = .ok ls) :
    t.serveMem p k false =
      (t.farDrop (.window k.src k.tag)).respond p k rsOK (ls.flatMap fun x => t.locRead x.2.1 x.2.2) := by
  simp only [serveMem, serves_of_ready hready]
  simp [hop, fits_page hn hpage, hserved, hspan, farReady_near hfar, farBytes_near hfar]

/-- A WRITE stores its first bytes in its places in turn. -/
theorem serveMem_write (hop : k.op = opWRITE) (hn : 0 < k.arg % 8192) (hpage : k.addr % 4096 + k.arg % 8192 ≤ 4096)
    (hwords : k.dataWords = cdiv (k.arg % 8192) 16) (hspan : t.winSpan k.addr (k.arg % 8192) .wr = .ok ls) :
    t.serveMem p k false =
      ((t.farDrop (.window k.src k.tag)).winSpread ls (k.data.take (k.arg % 8192))).respond p k rsOK [] := by
  simp only [serveMem, serves_of_ready hready]
  simp [hop, fits_page hn hpage, hwords, hspan, farReady_near hfar]

/-- An ATOMIC stores the result of its old value and answers that value (11 Table 11.9). -/
theorem serveMem_atomic (hop : k.op = opATOMIC) (hpage : k.addr % 4096 + 8 ≤ 4096) (halign : k.addr % 8 = 0)
    (hkind : k.arg % 16 ≤ 6) (hspan : t.winSpan k.addr 8 .atomic = .ok ls) :
    t.serveMem p k false =
      let bytes := ls.flatMap fun x => t.locRead x.2.1 x.2.2
      let w (i : Nat) : BitVec 64 := BitVec.ofNat 64 (leNum ((k.data.drop (8 * i)).take 8))
      let new := leBytes 8 (atomicOp (k.arg % 16) (BitVec.ofNat 64 (leNum bytes)) (w 0) (w 1)).toNat
      ((t.farDrop (.window k.src k.tag)).winSpread ls new).respond p k rsOK (bytes ++ List.replicate 8 0#8) := by
  simp only [serveMem, serves_of_ready hready]
  simp [hop, Nat.not_lt.mpr hpage, halign, Nat.not_lt.mpr hkind, hspan, hfar, farReady_near hfar, farBytes_near hfar]

end

/-! The request timer, forwarding and responses (11 R399, R406, R407) -/

section
variable {s v : State} {k : Packet} {p : Nat} {q : FabReq}

/-- The expiry of a request that no ECHO has asked after, with retries left, sends one (11 R406). -/
theorem timerExpiry_echoes {tag : Nat} (hq : (s.fab.reqs.find? fun q => q.tag = tag) = some q) (hruns : s.timerHeld q = false)
    (hunanswered : (s.fab.inbox.any fun x => x.2.rsp && x.2.tag = tag) = false) (hecho : q.echoTag = none)
    (hretry : q.expiries + 1 ≤ s.retryMax) :
    s.timerExpiry tag =
      let up (x : FabReq) : FabReq := if x.tag = tag then
        { x with expiries := q.expiries + 1, echoTag := some s.fab.nextTag, echoOk := false } else x
      (s.modFab fun f => { f with reqs := f.reqs.map up }).request (.echo tag) { op := opECHO, dst := q.pkt.dst } := by
  simp only [timerExpiry, hq]
  rw [if_neg (by simp only [hruns, hunanswered]; decide), if_neg (by simp [hecho, Nat.not_lt.mpr hretry])]

/-- A packet of VL0 for another module goes out on the port that the route gives. -/
theorem forward_sends {g : Nat} (hvl : k.vl = 0) (hlocal : k.isLocal = false) (hdst : some k.dst ≠ s.fab.num)
    (hin : s.fab.inbox.contains (p, k) = true) :
    let v := s.modFab fun f => { f with inbox := f.inbox.erase (p, k) }
    (if p < 16 then v.farPort k else v.nearPort k) = some g → s.forward p k = v.sendRaw g k := by
  intro v hport
  rw [forward, if_neg (by simp only [hvl, hlocal, hdst, hin]; decide)]
  simp only [v, hport]

/-- An OK response ends the request of its tag and opcode, and does what was asked for. -/
theorem response_ok (hrsp : k.rsp = true) (htake : s.fromInbox k = (p, v)) (hin : (s.fab.inbox.any fun x => x.2 = k) = true)
    (hq : (v.fab.reqs.find? fun q => q.tag = k.tag && q.pkt.op = k.op) = some q) (hok : k.status = rsOK) :
    s.response k =
      (v.modFab fun f => { f with reqs := f.reqs.filter fun x => x.tag ≠ k.tag }).answered q.who k
        (if q.pkt.op = opATOMIC then 16 else q.pkt.arg) := by
  rw [response, if_neg (by simp only [hrsp, hin]; decide)]
  simp only [htake, hq, if_pos hok]

end

end State

/-! Echoes (11 R406; 16 R556) -/

section
variable {s t : State} {k : Packet} {p : Nat}

theorem effEcho_answers (heven : k.arg % 2 = 0) (htake : s.takePacket k opECHO = some (p, t)) :
    effEcho k s = t.respond p k rsOK [] := by
  rw [effEcho, if_neg (by omega), htake]

theorem effTimingEcho_answers {t2 : W64} (hodd : k.arg % 2 = 1) (htake : s.takePacket k opECHO = some (p, t)) (ht : t.aligned = true) :
    effTimingEcho k t2 s = t.respond p k rsOK [] (addr := t.now) (arg := t2.toNat) := by
  rw [effTimingEcho, if_neg (by omega), htake]
  exact if_pos ht

/-- A WRITE in space 0b00 writes no register. -/
theorem fabOpen_mem (hspace : k.addr / 2 ^ 62 % 4 = 0) : fabOpen s k = false := by
  rw [fabOpen, hspace]
  simp

end

/-- Settles O40: a transaction is served from the window's places, of which none lies on another module. -/
theorem transactionsAct : Obligations.TransactionsAct := by
  unfold Obligations.TransactionsAct
  intro s t k p ls hs hoff hfar own bytes
  have hfab : s.specified [bFAB] := specified_sub hs (by simp)
  refine ⟨?read, ?write, ?atomic, ?echo, ?timing, ?timer, ?forward, ?response⟩
  case read =>
    intro htake hspace hready hn hpage hserved hspan
    exact run_eq hfab ((State.serve_mem htake hspace).trans
      (State.serveMem_read hready hfar (State.takePacket_op htake) hn hpage hserved hspan))
  case write =>
    intro htake hspace hready hn hpage hwords hspan
    have hserves := (State.serve_mem (ecc := false) htake hspace).trans
      (State.serveMem_write hready hfar (State.takePacket_op htake) hn hpage hwords hspan)
    exact (if_neg (Bool.eq_false_iff.mp (fabOpen_mem hspace))).trans (run_eq hfab hserves)
  case atomic =>
    intro htake hspace hready hpage halign hkind hspan
    exact run_eq hfab ((State.serve_mem htake hspace).trans
      (State.serveMem_atomic hready hfar (State.takePacket_op htake) hpage halign hkind hspan))
  case echo => exact fun heven htake => run_eq hfab (effEcho_answers heven htake)
  case timing => exact fun t2 hodd htake ht => run_eq hs (effTimingEcho_answers hodd htake ht)
  case timer =>
    intro tag q hq hruns hunanswered hecho hretry up
    exact run_powered hfab hoff (State.timerExpiry_echoes hq hruns hunanswered hecho hretry)
  case forward =>
    intro g hvl hlocal hdst hin v hport
    exact run_powered hfab hoff (State.forward_sends hvl hlocal hdst hin hport)
  case response =>
    intro q v hrsp htake hin hq hok
    exact run_powered hfab hoff (State.response_ok hrsp htake hin hq hok)

end Sys2Proof.Machine
end

section
/-! PROOFS. The reshard engine's rounds and resumption, and the packets of reshards and collectives (O16). -/

namespace Sys2Proof.Machine

namespace State

section
variable {s t : State} {c : Nat} {x : Resh}

/-! The round of a running reshard, by the phase of its journal (12 R446) -/

/-- The barrier of number n, past which every member of the reshard has arrived. -/
def barrierPassed (s : State) (x : Resh) (n : Nat) : Prop :=
  x.arrive = 2 ∧ (some (s.reshMod x.pa (s.jplan x.pa) x.root) ≠ s.fab.num
    ∨ s.allArrived x.ctx (s.reshSlots x.pa) (s.jget x.pa 0x18 4) n = true)

theorem reshBarrier_passed {n : Nat} (h : s.barrierPassed x n) : s.reshBarrier x (s.jplan x.pa) n = (true, s) := by
  obtain ⟨harrive, hall⟩ := h
  rw [reshBarrier, if_neg (by omega)]
  simp [harrive, hall]

variable (hx : s.findResh c = some x) (hrun : s.journalState x.pa = 1) (hfree : s.reshHeld x = false)
include hx hrun hfree

theorem reshRound_park (hphase : s.jget x.pa 9 1 = 0) : s.reshRound c = s.reshPark x (s.jplan x.pa) := by
  simp [reshRound, hx, hrun, hfree, hphase]

theorem reshRound_send (hphase : s.jget x.pa 9 1 = 1) (hpast : s.barrierPassed x (s.jget x.pa 0x10 4 * 4 + 1)) :
    s.reshRound c = s.reshSend x (s.jplan x.pa) := by
  simp [reshRound, hx, hrun, hfree, hphase, reshBarrier_passed hpast]

theorem reshRound_take (hphase : s.jget x.pa 9 1 = 2) :
    s.reshRound c = (s.reshTake c (s.jplan x.pa)).reshCheck c (s.jplan x.pa) := by
  simp [reshRound, hx, hrun, hfree, hphase]

theorem reshRound_last (hphase : s.jget x.pa 9 1 = 3) (hpast : s.barrierPassed x (s.jget x.pa 0x10 4 * 4 + 3))
    (hlast : (s.jplan x.pa).rounds ≤ s.jget x.pa 0x10 4 + 1) :
    s.reshRound c = (s.putJournal x.pa fun j =>
      patchLe (patchLe (patchLe j 0x10 4 (s.jget x.pa 0x10 4 + 1)) 9 1 0) 8 1 2).reshEnd x none := by
  simp [reshRound, hx, hrun, hfree, hphase, reshBarrier_passed hpast, hlast]

theorem reshRound_next (hphase : s.jget x.pa 9 1 = 3) (hpast : s.barrierPassed x (s.jget x.pa 0x10 4 * 4 + 3))
    (hmore : s.jget x.pa 0x10 4 + 1 < (s.jplan x.pa).rounds) :
    s.reshRound c = (s.putJournal x.pa fun j => patchLe (patchLe j 0x10 4 (s.jget x.pa 0x10 4 + 1)) 9 1 0).setResh c (some x.fresh) := by
  simp [reshRound, hx, hrun, hfree, hphase, reshBarrier_passed hpast, Nat.not_le.mpr hmore]

end

/-! The steward takes a journal up again (12 R450, R451) -/

theorem reshResume_running {s : State} {c pa : Nat} (hdir : mapGet s.col.reshDir c = some pa) (hrun : s.journalState pa = 1)
    (hnone : s.findResh c = none) (hoff : s.devState ≠ stOFF) (hboot : s.devState ≠ stBOOT) :
    s.reshResume c = (if s.jget pa 9 1 = 2 then s.jput pa 9 1 1 else s).setResh c (some {
      ctx := c, pa := pa, inst := none, seq := resumedSeq, again := s.jget pa 9 1 = 1 || s.jget pa 9 1 = 2 }) := by
  simp only [reshResume, reshBack, hdir]
  exact if_neg (by simp [hrun, hnone, hoff, hboot])

/-! Packets (12 R424, R426, R427, R436) -/

section
variable {s : State} {k : Packet} {x : Resh} {rk kind : Nat}

/-- The kind of command that a COLFRAG packet takes: READY, PAUSE or data. -/
def fragKind (k : Packet) : Nat := if k.arg.testBit 10 then 0 else if k.arg.testBit 11 then 1 else 2

theorem fragKind_ready (h : k.arg.testBit 10 = true) : fragKind k = 0 := by rw [fragKind, if_pos h]
theorem fragKind_pause (h : k.arg.testBit 10 = false) (h' : k.arg.testBit 11 = true) : fragKind k = 1 := by simp [fragKind, h, h']
theorem fragKind_data (h : k.arg.testBit 10 = false) (h' : k.arg.testBit 11 = false) : fragKind k = 2 := by simp [fragKind, h, h']

/-- A packet of a reshard reaches it and is acknowledged. -/
theorem fragment_reshard (hx : s.fragResh k = some x) (hdev : s.devState = stREADY ∨ s.devState = stRUNNING) (hop : k.op = opCOLFRAG)
    (hreq : k.rsp = false) (hgood : colBad k = false) (hkind : fragKind k = kind) :
    s.fragment k kind = ((s.fromInbox k).2.reshPacket x k).respond (s.fromInbox k).1 k rsOK [] := by
  have hgoes : ¬ (k.op ≠ opCOLFRAG || k.rsp || decide (fragKind k ≠ kind)) = true := by simp [hop, hreq, hkind]
  simp only [fragment, hx]
  rcases s.fromInbox k with ⟨p, u⟩
  exact (if_neg hgoes).trans ((if_neg (Bool.eq_false_iff.mp hgood)).trans (if_neg (Bool.eq_false_iff.mp (serves_of_ready hdev))))

/-- A packet of no reshard reaches its collective and is acknowledged. -/
theorem fragment_collective (hnone : s.fragResh k = none) (hdev : s.devState = stREADY ∨ s.devState = stRUNNING) (hop : k.op = opCOLFRAG)
    (hreq : k.rsp = false) (hgood : colBad k = false) (hkind : fragKind k = kind) :
    s.fragment k kind = ((s.fromInbox k).2.colDeliver k).respond (s.fromInbox k).1 k rsOK [] := by
  have hgoes : ¬ (k.op ≠ opCOLFRAG || k.rsp || decide (fragKind k ≠ kind)) = true := by simp [hop, hreq, hkind]
  simp only [fragment, hnone, colPacket]
  rcases s.fromInbox k with ⟨p, u⟩
  exact (if_neg hgoes).trans ((if_neg (Bool.eq_false_iff.mp hgood)).trans (if_neg (Bool.eq_false_iff.mp (serves_of_ready hdev))))

variable (hrank : s.reshRank x k = some rk)
include hrank

theorem reshPacket_ready (h : k.arg.testBit 10 = true) : s.reshPacket x k = s.reshTakeReady x rk k := by
  rw [reshPacket, hrank]
  exact if_pos h

theorem reshPacket_pause (h : k.arg.testBit 10 = false) (h' : k.arg.testBit 11 = true) :
    s.reshPacket x k = s.setResh x.ctx (some { x with paused := (rk, k.src) :: x.paused.filter (·.1 ≠ rk) }) := by
  rw [reshPacket, hrank]
  exact (if_neg (Bool.eq_false_iff.mp h)).trans (if_pos h')

theorem reshPacket_word (h : k.arg.testBit 10 = false) (h' : k.arg.testBit 11 = false) (hword : k.arg.testBit 47 = true) :
    s.reshPacket x k = s.reshTakeWord x rk k := by
  rw [reshPacket, hrank]
  exact (if_neg (Bool.eq_false_iff.mp h)).trans ((if_neg (Bool.eq_false_iff.mp h')).trans (if_pos hword))

theorem reshPacket_data (h : k.arg.testBit 10 = false) (h' : k.arg.testBit 11 = false) (hdata : k.arg.testBit 47 = false) :
    s.reshPacket x k = s.reshTakeData x rk k := by
  rw [reshPacket, hrank]
  exact (if_neg (Bool.eq_false_iff.mp h)).trans ((if_neg (Bool.eq_false_iff.mp h')).trans (if_neg (Bool.eq_false_iff.mp hdata)))

end

end State

/-- Settles O16: a round by the phase its journal stands in, a packet by its kind and by what it belongs to. -/
theorem reshardAndFragmentsAct : Obligations.ReshardAndFragmentsAct := by
  unfold Obligations.ReshardAndFragmentsAct
  intro s c k
  refine ⟨?round, ?resume, ?reshard, ?collective⟩
  case round =>
    intro x hs hstop hx hrun hfree p round root passed
    have exec_round {u : State} (h : s.reshRound c = u) : exec (.reshardRound c) s = .next (s.after u) :=
      run_eq hs ((if_neg hstop).trans h)
    exact ⟨fun hphase => exec_round (State.reshRound_park hx hrun hfree hphase),
      fun hphase hpast => exec_round (State.reshRound_send hx hrun hfree hphase hpast),
      fun hphase => exec_round (State.reshRound_take hx hrun hfree hphase),
      fun hphase hpast hlast => exec_round (State.reshRound_last hx hrun hfree hphase hpast hlast),
      fun hphase hpast hmore => exec_round (State.reshRound_next hx hrun hfree hphase hpast hmore)⟩
  case resume =>
    intro pa hs hstop hoff hboot hdir hrun hnone
    exact run_eq hs ((if_neg hstop).trans (State.reshResume_running hdir hrun hnone hoff hboot))
  case reshard =>
    intro x rk hs hx hdev hop hreq hgood p t hrank
    have reaches {kind : Nat} {u : State} (hkind : State.fragKind k = kind) (hu : t.reshPacket x k = u) :
        run [bFAB, bCOL] s (s.fragment k kind) = .next (s.after (u.respond p k rsOK [])) :=
      run_eq hs ((State.fragment_reshard hx hdev hop hreq hgood hkind).trans (congrArg (fun v : State => v.respond p k rsOK []) hu))
    refine ⟨fun h => ?_, fun h h' => ?_, fun h h' hword => ?_, fun h h' hword => ?_⟩
    · exact reaches (State.fragKind_ready h) (State.reshPacket_ready hrank h)
    · exact reaches (State.fragKind_pause h h') (State.reshPacket_pause hrank h h')
    · exact reaches (State.fragKind_data h h') (State.reshPacket_data hrank h h' hword)
    · exact reaches (State.fragKind_data h h') (State.reshPacket_word hrank h h' hword)
  case collective =>
    intro hs hnone hdev hop hreq hgood p t
    have reaches {kind : Nat} (hkind : State.fragKind k = kind) :
        run [bFAB, bCOL] s (s.fragment k kind) = .next (s.after ((t.colDeliver k).respond p k rsOK [])) :=
      run_eq hs (State.fragment_collective hnone hdev hop hreq hgood hkind)
    exact ⟨fun h => reaches (State.fragKind_ready h), fun h h' => reaches (State.fragKind_pause h h'),
      fun h h' => reaches (State.fragKind_data h h')⟩

end Sys2Proof.Machine
end

section
/-! PROOFS. RESTORE and RESHARD_ABANDON (O29). -/

namespace Sys2Proof.Machine

namespace State

/-! What a posted store and a context's update leave of the module's resilience state -/

@[simp] theorem locWrite_res (s : State) (l : Loc) (bs : List Byte) : (s.locWrite l bs).res = s.res := by cases l <;> rfl

@[simp] theorem post_res (s : State) (ls : List (Nat × Loc × Nat)) (bs : List Byte) : (s.post ls bs).res = s.res := by
  unfold post
  induction ls generalizing s bs with
  | nil => rfl
  | cons x ls ih =>
    obtain ⟨a, l, n⟩ := x
    rw [List.foldl_cons, ih]
    cases l <;> rfl

@[simp] theorem ctxWrite_res (s : State) (c va : Nat) (bs : List Byte) : (s.ctxWrite c va bs).res = s.res := by
  unfold ctxWrite
  split
  · exact post_res ..
  · rfl

/-! RESTORE starts (14 R501, R503) -/

section
variable {t : State} {q : Req}

/-- The members of BUDDY_GROUP other than this module. -/
def buddyMods (t : State) (c : Nat) : List Nat := (t.groupMods c (t.protLe c 0x10 2)).eraseDups.filter fun m => some m ≠ t.fab.num

theorem restoreStart_alone (h : t.buddyMods (q.arg 0) = []) :
    t.restoreStart q = ({ t.modCtx (q.arg 0) fun x => { x with noLaunch := true } with
      res := { t.res with restore := none } } : State).answer q { status := cREFUSED, detail := 1 } :=
  if_pos (by rw [← buddyMods, h]; rfl)

theorem restoreStart_asks (h : t.buddyMods (q.arg 0) ≠ []) :
    t.restoreStart q = (t.buddyMods (q.arg 0)).foldl (fun u m => u.request (.locate m) {
        op := opMGMT, dst := m, arg := 0x22, data := leBytes 4 (t.fab.num.getD 0) })
      { t with res := { t.res with restore := some { q := q, ctx := q.arg 0, asked := t.buddyMods (q.arg 0) } } } :=
  if_neg (by rw [← buddyMods]; simpa using h)

end

/-! The pieces of a generation, and the class-1 ranges (14 R503, R513) -/

section
variable {t u : State} {x : Restoring} {p : RestPiece} {rest : List RestPiece}

theorem genDone_restores (hp : x.pieces = p :: rest)
    (hu : t.restoreGen x.ctx p.loc.commits (x.pieces.map fun p => (p.loc.idx, p.bytes)) = some u) :
    t.genDone x = u.fetchRanges { x with pieces := [] } := by
  rw [hp] at hu
  simp only [genDone, hp, hu]

theorem genDone_older (hp : x.pieces = p :: rest)
    (hnone : t.restoreGen x.ctx p.loc.commits (x.pieces.map fun p => (p.loc.idx, p.bytes)) = none) :
    t.genDone x = t.readGen { x with pieces := [], found := x.found.filter fun l => l.gen ≠ p.loc.gen } := by
  rw [hp] at hnone
  simp only [genDone, hp, hnone]

/-- With no generation left RESTORE is refused and its context gets no launches. -/
theorem readGen_none (h : pickPieces (t.snapK x.ctx) x.found = none) :
    t.readGen x = ({ t.modCtx x.ctx fun y => { y with noLaunch := true } with
      res := { t.res with restore := none } } : State).answer x.q { status := cREFUSED, detail := 1 } := by
  simp only [readGen, h]
  rfl

/-- A restore whose last byte of the class-1 ranges comes has none left. -/
theorem modRest_lastCame {s : State} (hx : s.res.restore = some x) (hleft : x.left = 1) :
    (s.modRest fun y => { y with left := y.left - 1 }) = s.modRest fun y => { y with left := 0 } := by
  simp only [modRest, modRes, hx, Option.map_some, hleft]

/-- After the last bytes of the class-1 ranges the roots are compared: one that agrees ends RESTORE, another sends it to the next member. -/
theorem rangeCame_last {m va : Nat} {bs : List Byte} (hx : t.res.restore = some x) (hsrc : x.src = some m) (hleft : x.left = 1)
    (hu : (t.ctxWrite x.ctx va bs).modRest (fun y => { y with left := 0 }) = u) (hranges : u.protRanges x.ctx 1 true ≠ []) :
    t.rangeCame m va bs = if u.rootNow x.ctx = Config.sourceRoot m x.ctx (u.stepHdr x.ctx).commits then u.restored x
      else u.fetchRanges { x with attempt := x.attempt + 1, src := none, left := 0 } := by
  have hstored : (t.ctxWrite x.ctx va bs).res.restore = some x := by rw [ctxWrite_res, hx]
  have hrest : u.res.restore = some { x with left := 0 } := by rw [← hu]; simp [modRest, modRes, hx]
  have hlost : u.rangeLost m = u.fetchRanges { x with attempt := x.attempt + 1, src := none, left := 0 } := by
    simp only [rangeLost, hrest, hsrc, if_true]
  simp only [rangeCame, hx, hsrc, ne_eq, not_true_eq_false, if_false, modRest_lastCame hstored hleft, hu, hlost, hleft, Nat.lt_irrefl]
  simp [hranges]

end

end State

/-! The two commands once they go -/

section
variable {s t : State} {q : Req} {y : Ctx}

theorem effRestore_goes (hgo : s.cmdGoes q 8 1 false t) (hy : t.ctx (q.arg 0) = some y) (hprot : t.prot (q.arg 0) = true) :
    effRestore q s = t.restoreStart q := by
  refine cmdWait_waits hgo ?_
  rw [if_neg (by simp [hy]), if_neg (by simp [hprot])]

theorem effReshardAbandon_goes {pa : Nat} (hgo : s.cmdGoes q 9 1 false t) (hy : t.ctx (q.arg 0) = some y)
    (hdir : mapGet t.col.reshDir (q.arg 0) = some pa) (hrun : t.journalState pa = 1) :
    effReshardAbandon q s = ((t.abandonResh (q.arg 0) pa).activity).answer q { status := cOK } := by
  refine cmd_goes hgo ((onCtx_some hy).trans ?_)
  simp only [hdir]
  exact if_neg (by simp [hrun])

end

/-- Settles O29: RESTORE by whom it asks, what the pieces give and what the roots say; RESHARD_ABANDON by the journal it finds. -/
theorem recoveryCommandsAct : Obligations.RecoveryCommandsAct := by
  unfold Obligations.RecoveryCommandsAct
  intro s t q y hs
  have hstw : s.specified [bSTW] := specified_sub hs (by simp)
  refine ⟨?restore, ?pieces, ?ranges, ?abandon⟩
  case restore =>
    intro hgo hy hprot c ms
    exact ⟨fun h => run_eq hs ((effRestore_goes hgo hy hprot).trans (State.restoreStart_alone h)),
      fun h => run_eq hs ((effRestore_goes hgo hy hprot).trans (State.restoreStart_asks h))⟩
  case pieces =>
    intro x p rest hp pieces older
    exact ⟨fun u hu => State.genDone_restores hp hu,
      fun hnone => ⟨State.genDone_older hp hnone, fun hnext => (State.genDone_older hp hnone).trans (State.readGen_none hnext)⟩⟩
  case ranges =>
    intro x m va bs hx hsrc hleft hdigest u hranges
    exact State.rangeCame_last hx hsrc hleft rfl hranges
  case abandon => exact fun pa hgo hy hdir hrun => run_eq hstw (effReshardAbandon_goes hgo hy hdir hrun)

end Sys2Proof.Machine
end

section
/-! PROOFS. VADAM, CVT, HRCLR and FLGRC at issue (O7). -/

namespace Sys2Proof.Machine

section
variable {s u : State} {r : Nat} {w : TWord} {a : At}

/-- VADAM stores the moments and the weights of its update and raises the hearth's flags (13 R472 to R475). -/
theorem effVadam_issues (hi : s.issueAt r 0x3F w = some a) (hc : firstFault (adamChecks r (s.fetched a) a w) = none) :
    effVadam r w s =
      let t := s.fetched a
      let rs := ((adamDescs t a w).drop 1).flatMap Desc.ranges
      ((t.putPantry r a.uid rs (adamResult r t a w).1).hrtFlags r (adamResult r t a w).2).pending1 a 0x3F w
        { Infl.mk0 with descs := adamDescs t a w, ready := true, writes := rs } :=
  issue_ok hi (checked_ok hc)

/-- CVT converts once its destination's headroom region has its place (04 R122, R706). -/
theorem effCvt_issues (hi : s.issueAt r 0x40 w = some a) (hc : firstFault (cvtChecks (s.fetched a) a w) = none)
    (hu : (s.fetched a).hdirPlace a.c ((s.fetched a).latch a w.b.toNat) = some u) :
    effCvt r w s = cvtEffect u r a w ((s.fetched a).latch a w.a.toNat) ((s.fetched a).latch a w.b.toNat) := by
  refine issue_ok hi ((checked_ok hc).trans ?_)
  dsimp only
  rw [hu]

/-- HRCLR zeroes the entries of its region (07 R250). -/
theorem effHrclr_issues (hi : s.issueAt r 0x41 w = some a) (hc : firstFault (hrclrChecks (s.fetched a) a w) = none) :
    effHrclr r w s =
      let t := s.fetched a
      let x := t.latch a w.a.toNat
      (t.ctxWrite a.c x.hdr (List.replicate (2 * x.hrCount) 0)).pending1 a 0x41 w { Infl.mk0 with descs := [x], ready := true } :=
  issue_ok hi (checked_ok hc)

/-- FLGRC stores the words of the engines it selects, and clears them where MOD says so (02 R62; 07 R251). -/
theorem effFlgrc_issues (hi : s.issueAt r 0x42 w = some a) (hok : flgrcOk w = true) :
    effFlgrc r w s =
      let t := s.fetched a
      let bs := (flgrcEngines w).flatMap fun n => leBytes 4 (t.reg (engineReg r n)).toNat
      let t1 := t.pantStore r a.uid w.b.toNat bs
      let t2 := if w.mod.toNat = 1 then (flgrcEngines w).foldl (fun v n => v.clearFlags (engineReg r n)) t1 else t1
      t2.pending1 a 0x42 w { Infl.mk0 with ready := true, writes := [(ownBase + w.b.toNat, bs.length)] } :=
  issue_ok hi (checked_one (by simp [hok]))

end

/-- Settles O7: each form is its effect at issue, on operands that pass its checks. -/
theorem updateAndLandingInstructionsComplete : Obligations.UpdateAndLandingInstructionsComplete := by
  unfold Obligations.UpdateAndLandingInstructionsComplete
  intro s u r w a hs t
  refine ⟨?adam, ?cvt, ?hrclr, ?flgrc⟩
  case adam => exact fun hi hc => run_eq hs (effVadam_issues hi hc)
  case cvt => exact fun hi hc hu => run_eq hs (effCvt_issues hi hc hu)
  case hrclr => exact fun hi hc => run_eq hs (effHrclr_issues hi hc)
  case flgrc => exact fun hi hok => run_eq hs (effFlgrc_issues hi hok)

end Sys2Proof.Machine
end

section
/-! PROOFS. Snapshots at their source and at their holders (O27). -/

namespace Sys2Proof.Machine

section
variable {s t : State} {c : Nat} {k : Packet}

/-- A snapshot that may start, and that the risk monitor or the schedule calls for, starts (14 R490, R491). -/
theorem effSnapshotStart_due {risk : Bool} (hfree : s.snapFree c = true) (hrisk : risk = true → s.res.due.contains c = true)
    (hsched : risk = false → s.snapDue c = true) : effSnapshotStart c risk s = s.startSnap c risk := by
  refine if_pos ?_
  cases risk with
  | true => simpa [hfree] using hrisk rfl
  | false => simpa [hfree] using hsched rfl

/-- The reads of the latest generation end (14 R490, R507). -/
theorem effSnapReadsDone_reading {g : Snap} (hg : s.curSnap c = some g) (hreading : g.reading = true) :
    effSnapReadsDone c s =
      let u := s.modSnap c fun g => { g with reading := false }
      if g.guards then u.modCtx c fun x => { x with guardDue := false } else u := by
  rw [effSnapReadsDone, hg]
  exact if_neg (by simp [hreading])

end

/-- Settles O27: the source's two events by their effect once they are due, the holder's messages by what they find held. -/
theorem snapshotsAct : Obligations.SnapshotsAct := by
  unfold Obligations.SnapshotsAct
  intro s t c p k hs
  have hstw : s.specified [bSTW] := specified_sub hs (by simp)
  have hfab : s.specified [bFAB, bSTW] := specified_sub hs (by simp)
  refine ⟨?start, ?readsDone, ?offer, ?sealed, ?locate⟩
  case start => exact fun risk hw hfree hrisk hsched => run_live hs hw (effSnapshotStart_due hfree hrisk hsched)
  case readsDone => exact fun g hw hg hreading => run_live hstw hw (effSnapReadsDone_reading hg hreading)
  case offer =>
    intro b off hgo m gen idx rest hb hoff
    refine run_mgmtGoes hfab hgo ?_
    dsimp only
    rw [hb]
    dsimp only
    rw [hoff]
  case sealed =>
    intro hgo hit hprot hheld close
    exact run_mgmtGoes hfab hgo (if_neg (by simp [hprot, hheld, hit] ))
  case locate => exact fun hgo hprot => run_mgmtGoes hfab hgo (if_neg (by simp [hprot]))

end Sys2Proof.Machine
end

section
/-! PROOFS. The collator's and the risk monitor's events (O28). -/

namespace Sys2Proof.Machine

/-! The digest, and the suspect table's timers, once they are due (14 R510, R515, R516) -/

section
variable {s : State} {c m cls : Nat} {x : Suspect}

/-- The root of the open step's digest set is kept where none is. -/
theorem effDigestDone_due {y : Ctx} (hdue : s.digestDue c = true) (hphase : (s.stepHdr c).phase = phOPEN ∨ (s.stepHdr c).phase = phCHECKED)
    (hy : s.ctx c = some y) (hnone : y.digest = none) :
    effDigestDone c s = s.modCtx c fun x => { x with digest := some (s.rootNow c) } :=
  if_pos (by simpa [hdue, hy, hnone] using hphase)

variable (hx : s.findSuspect m cls = some x)
include hx

theorem effCollatorWindowClose_due (hopen : x.opened = true) (hdue : x.first + 10 ^ 7 ≤ s.now) (hmay : s.mayReport cls = true) :
    effCollatorWindowClose m cls s = s.sendWindow x := by
  simp only [effCollatorWindowClose, hx]
  rw [if_neg (by simpa [hopen] using hdue), if_pos hmay]

theorem effCollatorDeferredSend_due (hdef : x.deferred = true) (hmay : s.mayReport cls = true) :
    effCollatorDeferredSend m cls s = s.sendWindow x := by
  simp only [effCollatorDeferredSend, hx]
  exact if_pos (by simp [hdef, hmay])

theorem effCollatorEntryExpiry_due (hopen : x.opened = false) (hdef : x.deferred = false) (hdue : x.last + 10 ^ 10 ≤ s.now) :
    effCollatorEntryExpiry m cls s =
      s.modRes fun r => { r with suspects := r.suspects.filter fun y => !(y.mod = m && y.cls = cls) } := by
  simp only [effCollatorEntryExpiry, hx]
  exact if_neg (by simpa [hopen, hdef] using hdue)

end

/-! One evaluation of the risk monitor (14 R496, R497) -/

namespace State

variable (s : State) (rise : Nat)

/-- Some input contributes more than it did. -/
def riskRose : Bool := ((s.contribs rise).zipIdx).any fun (x, i) => decide (s.res.contrib.getD i 0 < x)

/-- No input rises and the level has stood long enough above what they make for it to fall by one. -/
def riskFalls : Bool :=
  !s.riskRose rise && decide (levelOf (s.contribs rise) < s.regBits rSTW_RISK 29 3 ∧ s.res.riseT + s.decayNs ≤ s.now)

/-- The state after an evaluation that makes the level `new`. -/
def riskTo (new : Nat) : State :=
  let cs := s.contribs rise
  let old := s.regBits rSTW_RISK 29 3
  let u := s.modRes fun r => { r with
    contrib := cs, risk := r.risk.filter fun x => s.now < x.2.2 + 60 * 10 ^ 9
    riseT := if s.riskRose rise || s.riskFalls rise then s.now else r.riseT
    complaints := r.complaints.filter fun x => s.now < x.2 + 60 * 10 ^ 9 }
  let v := ((u.setRegBits rSTW_RISK 29 3 new).setRegBits rSTW_RISK 26 3 (max new (s.regBits rSTW_RISK 26 3))).setRegBits rSTW_RISK 22 4
    (topOf cs)
  let w := if old < s.secureLevel ∧ s.secureLevel ≤ new ∧ s.secureLevel ≤ 7 then v.msix 1 2 else v
  (if new = 7 ∧ old ≠ 7 ∧ !s.rasOff then w.suspectSelf Config.selfClass else w).riskStart old new

theorem riskTick_eq : s.riskTick rise = s.riskTo rise
    (if s.regBits rSTW_RISK 29 3 ≤ levelOf (s.contribs rise) then levelOf (s.contribs rise)
      else if s.riskFalls rise then s.regBits rSTW_RISK 29 3 - 1 else s.regBits rSTW_RISK 29 3) := rfl

variable {s rise}

theorem riskTick_rises (h : s.regBits rSTW_RISK 29 3 ≤ levelOf (s.contribs rise)) :
    s.riskTick rise = s.riskTo rise (levelOf (s.contribs rise)) := by rw [riskTick_eq, if_pos h]

theorem riskTick_falls (h : levelOf (s.contribs rise) < s.regBits rSTW_RISK 29 3) (hrose : s.riskRose rise = false)
    (hlong : s.res.riseT + s.decayNs ≤ s.now) : s.riskTick rise = s.riskTo rise (s.regBits rSTW_RISK 29 3 - 1) := by
  rw [riskTick_eq, if_neg (Nat.not_le.mpr h), if_pos (by simp [riskFalls, hrose, h, hlong])]

theorem riskTick_holds (h : levelOf (s.contribs rise) < s.regBits rSTW_RISK 29 3)
    (hstill : s.riskRose rise = true ∨ s.now < s.res.riseT + s.decayNs) :
    s.riskTick rise = s.riskTo rise (s.regBits rSTW_RISK 29 3) := by
  have hnot : s.riskFalls rise = false := by
    rcases hstill with hrose | hshort
    · simp [riskFalls, hrose]
    · simp [riskFalls, Nat.not_le.mpr hshort]
  rw [riskTick_eq, if_neg (Nat.not_le.mpr h), if_neg (by simp [hnot])]

end State

/-- Settles O28: each message by its service, the evaluation by where its level goes, each timer by its effect once it is due. -/
theorem resilienceEventsAct : Obligations.ResilienceEventsAct := by
  unfold Obligations.ResilienceEventsAct
  intro s t c p m cls k x hs
  have hfab : s.specified [bFAB] := specified_sub hs (by simp)
  have hstw : s.specified [bSTW] := specified_sub hs (by simp)
  refine ⟨?suspect, ?takeover, ?drop, ?digest, ?risk, ?window, ?deferred, ?expiry⟩
  case suspect =>
    intro hgo n u hself
    exact run_mgmtGoes hs hgo (if_neg (by simp [n] at hself ⊢; simp [hself]))
  case takeover => exact fun hgo => run_mgmtGoes hfab hgo rfl
  case drop => exact fun hgo => run_mgmtGoes hs hgo rfl
  case digest => exact fun y hw hdue hphase hy hnone => run_live hstw hw (effDigestDone_due hdue hphase hy hnone)
  case risk =>
    intro rise hw cs old rose falls done
    exact ⟨fun h => run_live hstw hw (State.riskTick_rises h), fun h hrose hlong => run_live hstw hw (State.riskTick_falls h hrose hlong),
      fun h hstill => run_live hstw hw (State.riskTick_holds h hstill)⟩
  case window => exact fun hw hx hopen hdue hmay => run_live hstw hw (effCollatorWindowClose_due hx hopen hdue hmay)
  case deferred => exact fun hw hx hdef hmay => run_live hstw hw (effCollatorDeferredSend_due hx hdef hmay)
  case expiry => exact fun hw hx hopen hdef hdue => run_live hstw hw (effCollatorEntryExpiry_due hx hopen hdef hdue)

end Sys2Proof.Machine
end

section
/-! PROOFS. Self-test stages, in-field tests and tasting replays (O45). -/

namespace Sys2Proof.Machine

section
variable {s : State} {r : Nat}

/-! Self-test (15 R517) -/

/-- A stage that leaves the module in TEST leads to the next one, and the last stage to the end of the self-test. -/
theorem effSelftestStageDone_goes {o : StageOutcome} (htest : s.devState = stTEST) (hstays : (s.stageActs s.tst.stage o).devState = stTEST) :
    effSelftestStageDone o s = if 7 ≤ s.tst.stage then (s.stageActs s.tst.stage o).endTest
      else (s.stageActs s.tst.stage o).modTst fun t => { t with stage := s.tst.stage + 1 } := by
  rw [effSelftestStageDone, if_neg (not_not.mpr htest)]
  exact if_neg (not_not.mpr hstays)

/-! In-field tests that fall due (15 R529 to R532) -/

theorem effIftRotationTimer_due (hdev : s.devState = stREADY ∨ s.devState = stRUNNING) (hperiod : s.regBits rSTW_TEST_CTL 24 8 ≠ 0)
    (hr : s.oldestRoom = some r) : effIftRotationTimer s = s.startTest r 2 := by
  rw [effIftRotationTimer, if_neg (by simp [State.serves_of_ready hdev, hperiod]), hr]

theorem effSpareIdleTest_due (hr : r < 72) (hrole : (s.room r).role = rlSPARE) (hnone : s.findTest r = none)
    (hdue : (s.recOf r).pass + s.spareNs ≤ s.now) : effSpareIdleTest r s = s.startTest r 2 :=
  if_neg (by simp [hr, hrole, hnone, hdue])

variable {x : Ift} {c li : Nat}

/-- A room at its point with no fault hands its image to a ready spare, and its test runs. -/
theorem effSpareHandoff_hands {spare : Nat} (hx : s.findTest r = some x) (hst : x.st = 0) (hspare : s.spareReady spare = true)
    (hne : r ≠ spare) (hlease : (s.room r).lease = some (c, li)) (hpoint : (s.stopRoom r).atPoint r = true)
    (hfault : (s.stopRoom r).faulted r = false) :
    effSpareHandoff r spare s =
      let v := (((s.stopRoom r).wake spare).saveRoom r).putRole spare rlACTIVE
      let w := (v.loadRoom c li spare).modRec r fun y => { y with role := rlSPARE }
      ((w.runTest r).bump fmSTEWARD 0 5 1).lifeAdd lfSpare 1 1 := by
  simp only [effSpareHandoff, hx, hlease]
  rw [if_neg (by simp [hspare, hne]), if_neg (by simp [hst]), if_neg (by simp [hst]), if_neg (by simp [hpoint, hfault])]

/-- With no spare ready in time, a room at its point with no fault is tested in place. -/
theorem effIftDeferExpiry_due (hx : s.findTest r = some x) (hlease : (s.room r).lease = some (c, li)) (hst : x.st = 0)
    (hdue : x.t + s.deferNs ≤ s.now) (hspare : (List.range 72).any s.spareReady = false) (hpoint : (s.stopRoom r).atPoint r = true)
    (hfault : (s.stopRoom r).faulted r = false) :
    effIftDeferExpiry r s =
      let v := (((s.stopRoom r).saveRoom r).regCount rSTW_TEST_STATUS 8 8 1).bump fmSTEWARD 0 6 1
      (v.modTest r fun y => { y with back := some (c, li), origin := if y.origin = 2 then 3 else y.origin }).runTest r := by
  simp only [effIftDeferExpiry, hx, hlease]
  rw [if_neg (by simp [hst, hdue, hspare]), if_neg (by simp [hpoint, hfault])]

/-! In-field tests that end (15 R520, R524, R529, R543) -/

theorem moreKernels_none {s : State} (h : s.nextKernel x = none) : s.moreKernels r x = none := by rw [State.moreKernels, h]; rfl

/-- The built-in sets pass, and no pack kernel is left: the test has passed. -/
theorem effIftTestDone_builtin {o : TestOutcome} (hx : s.findTest r = some x) (hst : x.st = 1) (hrun : x.krun = none)
    (hadmit : s.admitsTest r = true) (hgot : o.got = o.want) (hlast : (s.chargeMw s.testEst).nextKernel x = none) :
    effIftTestDone r o s = (s.chargeMw s.testEst).passTest r x := by
  simp only [effIftTestDone, hx, hrun]
  rw [if_neg (not_not.mpr hst), if_neg (by simp [hadmit]), if_pos hgot, moreKernels_none hlast]
  rfl

/-- A pack kernel's first run gives its expected hash, and no kernel is left: the test has passed. -/
theorem effIftTestDone_kernel {o : TestOutcome} {k : KRun} (hx : s.findTest r = some x) (hst : x.st = 1) (hrun : x.krun = some k)
    (hbad : k.bad = false) (hfirst : k.got = [])
    (hover : ((s.room r).seqr.ended && (s.room r).infl.isEmpty && (s.room r).taste.isEmpty) = true)
    (hwant : sha256 ((s.room r).pantry.read k.out.1 k.out.2) = k.want) (hlast : s.nextKernel x = none) :
    effIftTestDone r o s = s.passTest r x := by
  have hkover : s.kernelOver r k = true := by
    rw [State.kernelOver, if_neg (Bool.eq_false_iff.mp hbad)]
    exact hover
  have hkgot : s.kernelGot r k = k.want := (if_neg (Bool.eq_false_iff.mp hbad)).trans hwant
  simp only [effIftTestDone, hx, hrun]
  rw [if_neg (not_not.mpr hst), if_neg (by simp [hkover]), if_pos (by rw [hfirst, hkgot]; rfl), moreKernels_none hlast]
  rfl

/-- The quick test of all rooms that no room fails (14 R512; 15 R533). -/
theorem effAllRoomsQuickTest_passes {y : Ctx} (hc : c < 16) (hy : s.ctx c = some y) (hneed : y.needQuick = true)
    (hadmit : ((List.range 72).filter fun r => (s.room r).role ≠ rlRETIRED).all s.admitsAny = true)
    (hfits : s.fits 0 (((List.range 72).filter fun r => (s.room r).role ≠ rlRETIRED).length * s.testEst) = true) :
    effAllRoomsQuickTest [] s =
      ((List.range 16).filter fun c => ((s.ctx c).map (·.needQuick)).getD false).foldl
        (fun t c => t.modCtx c fun x => { x with needQuick := false, digest := none, roots := [], retake := true })
        ((List.range 72).foldl (fun t r => if (t.room r).role = rlRETIRED then t else t.modRec r fun x => { x with pass := t.now })
          (s.chargeMw (((List.range 72).filter fun r => (s.room r).role ≠ rlRETIRED).length * s.testEst))) := by
  have hcalled : ¬ (((List.range 16).filter fun c => ((s.ctx c).map (·.needQuick)).getD false).isEmpty) = true := by
    rw [List.isEmpty_iff]
    exact List.ne_nil_of_mem (List.mem_filter.mpr ⟨List.mem_range.mpr hc, by simp [hy, hneed]⟩)
  rw [effAllRoomsQuickTest, if_neg hcalled, if_neg (by simp only [hadmit, hfits]; decide)]
  rfl

/-! Tasting replays (15 R538 to R540) -/

/-- The first run of a replay, on another room, agrees with the tasted tile and with the wide product: the replay is over. -/
theorem effTasteReplayDone_agrees {i : Nat} {p : Replay} {o : ReplayOutcome} (hp : (s.tst.replays.find? fun p => p.id = i) = some p)
    (hruns : p.runs = []) (hother : o.room ≠ p.room) (hroom : o.room < 72) (hadmit : s.admitsReplay o.room p.job.trellis = true)
    (hcmp : o.cmp = 0) (hwide : o.wideEq = true) :
    effTasteReplayDone i o s = (s.chargeMw (s.tileEst (8 ≤ p.job.trellis))).dropReplay i := by
  have hid : p.id = i := by simpa using List.find?_some hp
  have htakes : p.takes o.room = true := by simp [Replay.takes, hruns, hother, hroom]
  have hends (t : State) : t.replayRun p o = t.dropReplay i := by simp [State.replayRun, hruns, hcmp, hwide, hid]
  simp only [effTasteReplayDone, hp]
  rw [if_neg (by simp [htakes]), if_neg (by simp [hadmit]), hends]

/-- CHECK waits no longer for the replays of its open step. -/
theorem effEvidWaitExpiry_due {y : Ctx} (hy : s.ctx c = some y) (hphase : (s.stepHdr c).phase = phOPEN)
    (hps : (s.tst.replays.filter fun p => p.ctx = c && p.step = (s.stepHdr c).step) ≠ []) :
    effEvidWaitExpiry c s = ((s.tst.replays.filter fun p => p.ctx = c && p.step = (s.stepHdr c).step).foldl
      (fun t p => t.latchEvidence p) s).modCtx c fun x => { x with evidOver := true } := by
  refine if_neg ?_
  rintro (h | h | h)
  · simp [hy] at h
  · exact hps (List.isEmpty_iff.mp h)
  · exact h hphase

end

/-- Settles O45: each stage, test and replay by its effect once it is due and admitted. -/
theorem testsAct : Obligations.TestsAct := by
  unfold Obligations.TestsAct
  intro s r hs
  have hstw : s.specified [bSTW] := specified_sub hs (by simp)
  refine ⟨?stage, ?rotation, ?spare, ?handoff, ?defer, ?builtin, ?kernel, ?quick, ?replay, ?evidence⟩
  case stage => exact fun o htest hstays => run_eq hstw (effSelftestStageDone_goes htest hstays)
  case rotation => exact fun hdev hperiod hr => run_eq hstw (effIftRotationTimer_due hdev hperiod hr)
  case spare => exact fun hw hr hrole hnone hdue => run_live hstw hw (effSpareIdleTest_due hr hrole hnone hdue)
  case handoff =>
    intro spare x c li hw hsp hx hst hspare hne hlease u hpoint hfault v w
    have hall : s.specified [bSTW, bRoom r, bRoom spare] := by simpa [and_assoc] using And.intro hs hsp
    exact run_live hall hw (effSpareHandoff_hands hx hst hspare hne hlease hpoint hfault)
  case defer =>
    intro x c li hw hx hlease hst hdue hspare u hpoint hfault v
    exact run_live hs hw (effIftDeferExpiry_due hx hlease hst hdue hspare hpoint hfault)
  case builtin =>
    intro x o hw hx hst hrun hadmit hgot u hlast
    exact run_live hstw hw (effIftTestDone_builtin hx hst hrun hadmit hgot hlast)
  case kernel =>
    intro x k o hw hx hst hrun hbad hfirst hover hwant hlast
    exact run_live hstw hw (effIftTestDone_kernel hx hst hrun hbad hfirst hover hwant hlast)
  case quick =>
    intro c y hw hc hy hneed cs rs hadmit hfits u
    exact run_live hstw hw (effAllRoomsQuickTest_passes hc hy hneed hadmit hfits)
  case replay =>
    intro i p o hw hp hruns hother hroom hadmit hcmp hwide
    exact run_live hstw hw (effTasteReplayDone_agrees hp hruns hother hroom hadmit hcmp hwide)
  case evidence =>
    intro c y hw hy hphase ps hps
    exact run_live hstw hw (effEvidWaitExpiry_due hy hphase hps)

end Sys2Proof.Machine
end

section
/-! PROOFS. Time base: the root's load (O60), and the events of the clocks (O36). -/

namespace Sys2Proof.Machine

/-! The root's count and the replicas (16 R551, R553, R559) -/

section
variable {s : State} {ns : Nat}

/-- What the root adds while `ns` ns pass: its rate's share, with the fraction left over (16 R559). -/
def State.rootGain (s : State) (ns : Nat) : Int := ((ns : Int) * (1000000000 + s.tb.rate) + s.tb.frac) / 1000000000

theorem State.rootGain_nonneg (hfrac : 0 ≤ s.tb.frac) (hrate : -1000000000 ≤ s.tb.rate) : 0 ≤ s.rootGain ns := by
  have hgain : 0 ≤ (ns : Int) * (1000000000 + s.tb.rate) := Int.mul_nonneg (Int.natCast_nonneg ns) (by omega)
  exact Int.ediv_nonneg (by omega) (by decide)

theorem State.elapse_tb : (s.elapse ns).tb = (s.advanceRoot ns).tb := by
  obtain ⟨d, e⟩ := s.pressTime_only ns
  rw [State.elapse, e]
  rfl

/-- A root that does not wrap counts what it gains. -/
theorem State.now_elapse (hgain : 0 ≤ s.rootGain ns) (hwrap : (s.now : Int) + s.rootGain ns < 2 ^ 64) :
    ((s.elapse ns).now : Int) = s.now + s.rootGain ns := by
  have hroot : (s.elapse ns).tb.root = s.tb.root + BitVec.ofInt 64 (s.rootGain ns) := by rw [State.elapse_tb]; rfl
  obtain ⟨g, hg⟩ := Int.eq_ofNat_of_zero_le hgain
  rw [State.now, hroot, hg, BitVec.ofInt_natCast, BitVec.toNat_add, BitVec.toNat_ofNat, Nat.add_mod_mod]
  rw [hg] at hwrap
  rw [Nat.mod_eq_of_lt (by unfold State.now at hwrap; omega)]
  rfl

/-- The list that keeps only the entries above a count gives no key less than it had, where a missing key counts as that count. -/
theorem mapGet_getD_le_filter_gt (l : List (Nat × Nat)) (i : Nat) {m n : Nat} (h : m ≤ n) :
    (mapGet l i).getD m ≤ (mapGet (l.filter fun x => decide (x.2 > n)) i).getD n := by
  have hge : ∀ l : List (Nat × Nat), n ≤ (mapGet (l.filter fun x => decide (x.2 > n)) i).getD n := by
    intro l
    induction l with
    | nil => exact Nat.le_refl n
    | cons x t ih =>
      by_cases hx : x.2 > n
      · rw [List.filter_cons_of_pos (by simpa using hx)]
        simp only [mapGet]
        split
        · exact Nat.le_of_lt hx
        · exact ih
      · rwa [List.filter_cons_of_neg (by simpa using hx)]
  induction l with
  | nil => exact h
  | cons x t ih =>
    by_cases hx : x.2 > n
    · rw [List.filter_cons_of_pos (by simpa using hx)]
      simp only [mapGet]
      split
      · exact Nat.le_refl _
      · exact ih
    · rw [List.filter_cons_of_neg (by simpa using hx)]
      simp only [mapGet]
      split
      · exact Nat.le_trans (Nat.not_lt.mp hx) (hge t)
      · exact ih

/-- A load after time that does not turn the root back turns no replica back. -/
theorem State.nowAt_le_loadReplicas {u : State} (hgated : u.tb.gated = s.tb.gated) (hreps : u.tb.replicas = s.tb.replicas)
    (hnow : s.now ≤ u.now) (i : Nat) : s.nowAt i ≤ u.loadReplicas.nowAt i := by
  have hload : u.loadReplicas.nowAt i
      = ((mapGet s.tb.gated i).orElse fun _ => mapGet (s.tb.replicas.filter fun x => decide (x.2 > u.now)) i).getD u.now := by
    rw [← hgated, ← hreps]
    rfl
  rw [hload, State.nowAt]
  cases mapGet s.tb.gated i with
  | some n => exact Nat.le_refl n
  | none => exact mapGet_getD_le_filter_gt s.tb.replicas i hnow

end

/-- Settles O60: the root gains no less than 0, and the load drops only the replicas that the root has passed. -/
theorem replicasNeverMoveBackwards : Obligations.ReplicasNeverMoveBackwards := by
  unfold Obligations.ReplicasNeverMoveBackwards
  intro s ns hs hoff hfrac hrate hwrap
  have hgain : 0 ≤ s.rootGain ns := State.rootGain_nonneg hfrac hrate
  have hnow : s.now ≤ (s.elapse ns).now := by
    have := State.now_elapse hgain hwrap
    omega
  refine ⟨_, run_powered hs hoff rfl, fun i => State.nowAt_le_loadReplicas ?_ ?_ hnow i⟩
  all_goals rw [State.elapse_tb]; rfl

end Sys2Proof.Machine
end

section
/-! PROOFS. Clock stretching, islands and the time base (O36). -/

namespace Sys2Proof.Machine

section
variable {s : State} {r : Nat}

/-! A room's clock (16 R548, R553) -/

/-- A droop past the threshold, in a room that stretches already, stretches it by one more step. -/
theorem effSupplyDroop_stretches {mv : Nat} (hr : r < 72) (hgated : (s.room r).gated = false)
    (hmv : s.regBits (rRM_STRETCH_CTL r) 0 8 < mv) (hon : (s.room r).stretch ≠ 0) :
    effSupplyDroop r mv s = s.modRoom r fun x =>
      { x with stretch := min (min 8 (s.regBits (rRM_STRETCH_CTL r) 8 4)) (x.stretch + 1), recovering := false } := by
  have hacts : ¬ (r ≥ 72 ∨ (s.room r).gated = true ∨ mv ≤ s.regBits (rRM_STRETCH_CTL r) 0 8) := by simp [hgated]; omega
  rw [effSupplyDroop, if_neg hacts]
  simp only [hon, false_and, if_false]

theorem effDroopRecovery_relaxes (hr : r < 72) (hon : (s.room r).stretch ≠ 0) :
    effDroopRecovery r s = s.modRoom r fun x => { x with stretch := x.stretch - 1, recovering := decide (x.stretch > 1) } :=
  if_neg (not_or.mpr ⟨Nat.not_le.mpr hr, hon⟩)

/-- A spare with no lease and no test gates its reference. -/
theorem effDeepIdleGate_gates (hr : r < 72) (hrole : (s.room r).role = 1) (hlease : (s.room r).lease = none)
    (htests : ∀ t ∈ s.tst.tests, t.room ≠ r) : effDeepIdleGate r s = s.gate r := by
  have hnone : s.tst.tests.any (fun t => t.room = r) = false := by simpa using htests
  exact if_pos ⟨hr, hrole, by rw [hlease]; rfl, by simp [hnone]⟩

/-! Alignment to the parent module (16 R556, R558, R559) -/

/-- The first alignment, on a READY module with no context, steps the root by the offset of the best exchange. -/
theorem effTbAlign_steps {xs : List Stamp4} {x : Stamp4} (hready : s.devState = stREADY) (hidle : ∀ y ∈ s.ctxs, y = none)
    (hfirst : s.aligned = false) (hparent : s.parentAligned = true) (hx : bestStamp xs = some x) :
    effTbAlign xs s =
      let live := (List.range 140).filter fun i => !s.tb.gated.any fun g => g.1 = i
      let u : State := { s with tb := { s.tb with
        root := s.tb.root + BitVec.ofInt 64 (Stamp4.offset2 x / 2), replicas := live.map fun i => (i, s.nowAt i) } }
      ((u.setRegBits rTB_STATUS 0 16 (offsetField (Stamp4.offset2 x / 2))).trace isRoot 0 tySTEP none
        (leBytes 8 s.now ++ leBytes 8 u.now)).setAligned := by
  have hnone : s.ctxs.any Option.isSome = false := List.any_eq_false.mpr fun y hy => by simp [hidle y hy]
  rw [effTbAlign, if_neg (by simp [hready, hnone, hfirst, hparent]), hx]
  rfl

/-- A measurement sets the rate that slews its offset out. -/
theorem effTbMeasure_slews {xs : List Stamp4} {x : Stamp4} (haligned : s.aligned = true) (hfollows : s.parent ≠ .none)
    (hparent : s.parentAligned = true) (hx : bestStamp xs = some x) :
    effTbMeasure xs s =
      let off := Stamp4.offset2 x / 2
      let u := (s.setRegBits rTB_STATUS 0 16 (offsetField off)).setRegBit rTB_STATUS 30 false
      { u with tb := { u.tb with rate := max (-50000) (min 50000 off), fails := 0 } } := by
  rw [effTbMeasure, if_neg (by simp [haligned, hfollows]), if_neg (by simp [hparent]), hx]

end

/-- Settles O36: each event is its effect once it is due. -/
theorem timeEventsAct : Obligations.TimeEventsAct := by
  unfold Obligations.TimeEventsAct
  intro s r hs hroom hoff
  refine ⟨?droop, ?recovery, ?idle, ?wake, ?load, ?align, ?measure, ?ptm⟩
  case droop => exact fun mv hr hgated hmv hon => run_powered hroom hoff (effSupplyDroop_stretches hr hgated hmv hon)
  case recovery => exact fun hr hon => run_powered hroom hoff (effDroopRecovery_relaxes hr hon)
  case idle => exact fun hw hr hrole hlease htests => run_live hroom hw (effDeepIdleGate_gates hr hrole hlease htests)
  case wake => exact fun i h => run_powered hs hoff (if_pos h)
  case load => exact fun ns => run_powered hs hoff rfl
  case align => exact fun xs x hready hidle hfirst hparent hx => run_eq hs (effTbAlign_steps hready hidle hfirst hparent hx)
  case measure =>
    exact fun xs x haligned hfollows hparent hx => run_powered hs hoff (effTbMeasure_slews haligned hfollows hparent hx)
  case ptm => exact fun h => run_powered hs hoff rfl

end Sys2Proof.Machine
end

section
/-! PROOFS. The debug block: counters, the trace store, STOP and the lifetime store (O33). -/

namespace Sys2Proof.Machine

/-- An action of the debug block on a module with power. -/
theorem run_on {bs : List Nat} {s t u : State} (hs : s.specified bs) (hoff : s.devState ≠ stOFF) (e : t = u) :
    run bs s (s.on t) = .next (s.after u) := run_eq hs ((if_neg hoff).trans e)

namespace State

section
variable {s : State}

/-! Counters (17 R571, R572, R574) -/

/-- In FREEZE mode a freeze takes the enabled families' counters, of islands that keep time, into the shadows. -/
theorem freezeTrigger_freeze (h : s.regBits rDBG_CNT_CTL 30 2 = 1) :
    s.freezeTrigger =
      let keep (k : Nat) : Bool := (s.regBits rDBG_CNT_CTL 0 13).testBit (k / 2 ^ 20) && !s.unitGated (k / 2 ^ 20) (k / 64 % 2 ^ 14)
      (s.modDbg fun d => { d with
        shadow := (d.counts.filter fun x => keep x.1).foldl (fun m x => natPut m x.1 x.2) (d.shadow.filter fun x => !keep x.1)
        stale := s.tb.gated.map (·.1) }).setReg rDBG_FREEZE_SEQ (s.reg rDBG_FREEZE_SEQ + 1) := by
  rw [freezeTrigger, if_neg (by omega), freezeShadows, if_neg (by omega)]
  rfl

theorem freezeTrigger_sample (h : s.regBits rDBG_CNT_CTL 30 2 = 2) : s.freezeTrigger = s.sampleNow true := if_pos h

/-! Triggers (17 R581, R582) -/

variable {island src : Nat}

theorem trigger_full (h : s.traceState = tsFULL) :
    s.trigger island src = ((s.setRegBit rDBG_TRACE_STATUS 28 true).setReg rDBG_TRIG_TIME (BitVec.ofNat 32 s.now)).setReg
      (rDBG_TRIG_TIME + 4) (BitVec.ofNat 32 (s.now / 2 ^ 32)) := if_pos h

/-- A trigger after the first one stores its record and no more. -/
theorem trigger_again (h : s.traceState = tsARMED ∨ s.traceState = tsPOST) (hlater : s.dbg.trigs ≠ 0) :
    s.trigger island src =
      let u := s.modDbg fun d => { d with trigs := d.trigs + 1 }
      let x := u.mkRec island 0 tyTRIGGER none (Config.trigCode src :: List.replicate 7 0#8 ++ leBytes 8 u.dbg.trigs)
      (u.modDbg fun d => { d with sseq := natPut d.sseq island ((x.sseq + 1) % 2 ^ 32) }).storeRec x := by
  have hfull : s.traceState ≠ tsFULL := by rcases h with h | h <;> rw [h] <;> decide
  have hruns : ¬ (s.traceState ≠ tsARMED ∧ s.traceState ≠ tsPOST) := by rwa [← not_or, not_not]
  rw [trigger, if_neg hfull, if_neg hruns]
  exact if_pos (by simpa using hlater)

/-! The store takes a queued record (17 R579) -/

variable {i : Nat} {r : TraceRec} {rest : List TraceRec}

/-- The state with the first waiting record of an island in the store. -/
def recTaken (s : State) (i : Nat) (r : TraceRec) (rest : List TraceRec) : State :=
  (s.storeRec r).modDbg fun d => { d with queues := mapSet d.queues i (if rest.isEmpty then none else some rest) }

theorem takeRec_kept (hq : (mapGet s.dbg.queues i).getD [] = r :: rest) (hlost : natGet s.dbg.qlost i = 0) :
    s.takeRec i = s.recTaken i r rest := by
  simp only [takeRec, hq, hlost, if_true]
  rfl

/-- A source that has lost records queues its LOST record behind. -/
theorem takeRec_lost (hq : (mapGet s.dbg.queues i).getD [] = r :: rest) (hlost : natGet s.dbg.qlost i ≠ 0) :
    s.takeRec i = ((s.recTaken i r rest).modDbg fun d => { d with qlost := natPut d.qlost i 0 }).trace i 0 tyLOST none
      (leBytes 8 (natGet s.dbg.qlost i)) := by
  simp only [takeRec, hq, hlost, if_false]
  rfl

/-! The lifetime store (17 R588, R589) -/

/-- Where the next lifetime items go, and the number they bear: after the newest slot. -/
def lifeNext (s : State) : Nat × Nat := match s.lifeNewest with
  | some (i, q, _) => ((i + 1) % 16, q + 1)
  | none => (0, 1)

/-- A slot that fails to program is counted and passed over. -/
theorem lifeWrite_eq (ok : Bool) : s.lifeWrite ok =
    let u := if ok then s else s.regCount rLIF_STATUS 16 8 1
    let i := if ok then s.lifeNext.1 else (s.lifeNext.1 + 1) % 16
    ((({ u with life := { u.life with slots := u.life.slots.set i (some (s.lifeNext.2, u.life.work)), lastT := u.now } }.setRegBits
      rLIF_STATUS 0 4 i).setRegBits rLIF_STATUS 4 12 0).setRegBit rLIF_STATUS 31 false) := by
  unfold lifeWrite lifeNext
  rcases s.lifeNewest with _ | ⟨i, q, m⟩ <;> cases ok <;> rfl

end

end State

/-- Settles O33: each register acts by its mode, the trace store by its state, and the lifetime store by its newest slot. -/
theorem debugBlockActs : Obligations.DebugBlockActs := by
  unfold Obligations.DebugBlockActs
  intro s hs hoff
  have hkeeping : s.specified [] := specified_sub hs (by simp)
  refine ⟨?freeze, ?sample, ?arm, ?full, ?again, ?first, ?disarm, ?record, ?stop, ?lifetime⟩
  case freeze =>
    intro h keep
    exact run_on hs hoff (State.freezeTrigger_freeze h)
  case sample => exact fun h => ⟨run_on hs hoff (State.freezeTrigger_sample h), run_on hs hoff (if_pos h)⟩
  case arm =>
    intro units base
    exact run_on hs hoff rfl
  case full => exact fun src h => run_on hs hoff (State.trigger_full h)
  case again =>
    intro src h hlater u x
    exact run_on hs hoff (State.trigger_again h hlater)
  case first => exact fun src h hfirst => run_on hs hoff rfl
  case disarm => exact run_on hs hoff rfl
  case record =>
    intro i r rest hq u
    exact ⟨fun hlost => run_on hs hoff (State.takeRec_kept hq hlost), fun hlost => run_on hs hoff (State.takeRec_lost hq hlost)⟩
  case stop => exact fun hw => run_on hs hoff rfl
  case lifetime =>
    intro ok next u i
    exact run_on hkeeping hoff (State.lifeWrite_eq ok)

end Sys2Proof.Machine
end

section
/-! PROOFS. BAR2, configuration requests and function-level resets (O32), and what a BAR2 write changes (O54). -/

namespace Sys2Proof.Machine

/-! A BAR2 write, byte by byte (18 R596, R597) -/

namespace State

/-- The memory after the bytes of a BAR2 write, from byte `k` of the write on, at those of their places that BAR2 reaches. -/
def barStore (a k : Nat) (m : Mem) (bs : List Byte) : Mem :=
  (bs.zipIdx k).foldl (fun m (b, i) => if barOpen (a + i) then m.set (a + i) b else m) m

section
variable {a k : Nat} {m : Mem} {b : Byte} {bs : List Byte}

theorem barStore_cons : barStore a k m (b :: bs) = barStore a (k + 1) (if barOpen (a + k) then m.set (a + k) b else m) bs := rfl

theorem barStore_wf (h : m.wf = true) : (barStore a k m bs).wf = true := by
  induction bs generalizing k m with
  | nil => exact h
  | cons b bs ih =>
    rw [barStore_cons]
    refine ih ?_
    split
    · exact Mem.wf_set h _ _
    · exact h

theorem barStore_get_out {x : Nat} (h : x < a + k ∨ a + k + bs.length ≤ x) : (barStore a k m bs).get x = m.get x := by
  induction bs generalizing k m with
  | nil => rfl
  | cons b bs ih =>
    rw [List.length_cons] at h
    rw [barStore_cons, ih (by omega)]
    split
    · exact Mem.get_set_ne m b (by omega)
    · rfl

/-- A byte of the write stands at its place where BAR2 reaches it, and leaves the place as it was where not. -/
theorem barStore_get_in (hm : m.wf = true) {i : Nat} (hi : i < bs.length) :
    (barStore a k m bs).get (a + (k + i)) = if barOpen (a + (k + i)) then bs.getD i 0#8 else m.get (a + (k + i)) := by
  induction bs generalizing k m i with
  | nil => cases hi
  | cons b bs ih =>
    rw [barStore_cons]
    cases i with
    | zero =>
      rw [barStore_get_out (by omega), Nat.add_zero]
      split
      · exact Mem.get_set_self hm _ _
      · rfl
    | succ j =>
      have hwf : (if barOpen (a + k) then m.set (a + k) b else m).wf = true := by
        split
        · exact Mem.wf_set hm _ _
        · exact hm
      have hother : (if barOpen (a + k) then m.set (a + k) b else m).get (a + (k + (j + 1))) = m.get (a + (k + (j + 1))) := by
        split
        · exact Mem.get_set_ne m b (by omega)
        · rfl
      have hrest := ih (k := k + 1) hwf (Nat.lt_of_succ_lt_succ hi)
      rwa [show k + 1 + j = k + (j + 1) by omega, hother] at hrest

/-- A write that covers no SEQ word stores its bytes and does no more. -/
theorem barWrite_stores {s : State} (h : seqWords a bs = []) : s.barWrite a bs = { s with hbm := barStore a 0 s.hbm bs } := by
  rw [barWrite, h]
  rfl

end

end State

section
variable {s : State} {off len : Nat} {ecc : Bool}

/-- A module that works answers BAR2 requests that lie inside the BAR and the device (18 R596). -/
theorem bar2_answers (hw : s.working = true) (hbar : off + len ≤ s.host.bar2Gib * 2 ^ 30) (hend : s.barOrigin + off + len ≤ hbmEnd) :
    s.devState ≠ stOFF ∧ ¬ (s.devState = stBOOT ∨ s.devState = stTEST ∨ s.devState = stVESTIBULE
      ∨ off + len > s.host.bar2Gib * 2 ^ 30 ∨ s.barOrigin + off + len > hbmEnd) := by
  have hready : stREADY ≤ s.devState := State.stREADY_le_devState hw
  simp only [stREADY, stOFF, stBOOT, stTEST, stVESTIBULE] at hready ⊢
  omega

theorem effBar2_writes {bs : List Byte} (hw : s.working = true) (hbar : off + len ≤ s.host.bar2Gib * 2 ^ 30)
    (hend : s.barOrigin + off + len ≤ hbmEnd) : effBar2 off len (some bs) ecc s = s.barWrite (s.barOrigin + off) (bs.take len) := by
  obtain ⟨hoff, hanswers⟩ := bar2_answers hw hbar hend
  exact (if_neg hoff).trans (if_neg hanswers)

theorem effBar2_reads (hw : s.working = true) (hbar : off + len ≤ s.host.bar2Gib * 2 ^ 30) (hend : s.barOrigin + off + len ≤ hbmEnd) :
    effBar2 off len none false s = s.emit (.pcieData (s.barRead (s.barOrigin + off) len)) := by
  obtain ⟨hoff, hanswers⟩ := bar2_answers hw hbar hend
  exact (if_neg hoff).trans (if_neg hanswers)

end

/-- Settles O54: the write is a store of its bytes at the places that BAR2 reaches. -/
theorem bar2WritesOnlyItsBytes : Obligations.Bar2WritesOnlyItsBytes := by
  unfold Obligations.Bar2WritesOnlyItsBytes
  intro s off bs ecc hs hw hbar hend hseq
  refine ⟨State.barStore (s.barOrigin + off) 0 s.hbm bs, ?_, State.barStore_wf, fun a ha => State.barStore_get_out ha, fun hm i hi => ?_⟩
  · have hstores : effBar2 off bs.length (some bs) ecc s = { s with hbm := State.barStore (s.barOrigin + off) 0 s.hbm bs } := by
      rw [effBar2_writes hw hbar hend, List.take_length, State.barWrite_stores hseq]
    exact run_eq hs hstores
  · have hin := State.barStore_get_in (a := s.barOrigin + off) (k := 0) hm hi
    rwa [Nat.zero_add] at hin

/-! Configuration requests (18 R591, R594) -/

section
variable {s : State} {pf off : Nat} (hoff : s.devState ≠ stOFF) (hboot : s.devState ≠ stBOOT) (hperst : s.pwr.perst = false)
include hoff hboot hperst

theorem effConfig_reads : effConfig pf off none s =
    s.emit (.regData 3 (if pf = 0 ∧ off = 4 then putBit (Config.cfgWord pf off) 2 s.host.bme else Config.cfgWord pf off)) := by
  rw [effConfig, if_neg (by simp [hoff, hperst]), if_neg hboot]

/-- A write of word 0x04 of PF0 sets Bus Master Enable, which sends what is held, or clears it (log 21). -/
theorem effConfig_command {v : W32} : effConfig 0 4 (some v) s =
    if v.getLsbD 2 then effBmeSet s else { s with host := { s.host with bme := false } } := by
  rw [effConfig, if_neg (by simp [hoff, hperst]), if_neg hboot]
  rfl

end

/-- Settles O32: a BAR2 request by its data, a configuration request by its word, a function-level reset by its function. -/
theorem pciExpressActs : Obligations.PciExpressActs := by
  unfold Obligations.PciExpressActs
  intro s hs
  refine ⟨?bar2, ?config, ?pf0, ?pf1⟩
  case bar2 =>
    intro off len data ecc hw _ _ _ hbar hend
    refine ⟨?_, ?_⟩
    · rintro bs rfl
      exact run_eq hs (effBar2_writes hw hbar hend)
    · rintro rfl rfl
      exact run_eq hs (effBar2_reads hw hbar hend)
  case config =>
    intro pf off data hoff hboot hperst
    refine ⟨?_, ?_, ?_⟩
    · rintro rfl
      exact run_eq hs (effConfig_reads hoff hboot hperst)
    · rintro v rfl rfl rfl hclear
      exact run_eq hs ((effConfig_command hoff hboot hperst).trans (if_neg (Bool.eq_false_iff.mp hclear)))
    · rintro v rfl rfl rfl hset
      exact run_eq hs ((effConfig_command hoff hboot hperst).trans (if_pos hset))
  case pf0 => exact fun rooms hw => run_eq hs (if_pos hw)
  case pf1 => exact fun hoff => run_eq hs (if_neg hoff)

end Sys2Proof.Machine
end

section
/-! PROOFS. A step and the queue (O46), and Bus Master Enable (O18). -/

namespace Sys2Proof.Machine

theorem step_of_pending {s : State} {c : Instr} {rest : List Instr} (h : s.pending = c :: rest) :
    step s = exec c { s with pending := rest } := by rw [step, h]

theorem step_of_empty {s : State} (h : s.pending = []) : step s = .next s.idle := by rw [step, h]

/-- Settles O46: the two cases of the queue. -/
theorem stepTakesTheFront : Obligations.StepTakesTheFront := by
  unfold Obligations.StepTakesTheFront
  exact ⟨fun s c rest h => step_of_pending h, fun s h => step_of_empty h⟩

/-- Settles O18: the event is the effect that configuration space shares (18 R594). -/
theorem busMasterEnableSendsHeldRecords : Obligations.BusMasterEnableSendsHeldRecords := by
  unfold Obligations.BusMasterEnableSendsHeldRecords
  intro s hs
  exact run_ok hs (effBmeSet s)

end Sys2Proof.Machine
end

section
/-! PROOFS. Register accesses, invalidations, row maps and MSI-X masks (O39). -/

namespace Sys2Proof.Machine

section
variable {s : State} {acc : RegAccess} {o : Nat} {v : W32}

/-! An access of one aligned word (18 R615) -/

/-- On a module with power an aligned word access is served. -/
theorem regAccess_word (hoff : s.devState ≠ stOFF) (hlen : acc.len = 4) (halign : o % 4 = 0) (t : State) : s.regAccess acc o t = t := by
  rw [State.regAccess, if_neg hoff, if_neg (by simp [hlen, halign])]

/-- A write whose own effect is specified is its effect (00 R704). -/
theorem next_of_not_regOpen {t u : State} (hopen : s.regOpen o v = false) (h : t = u) :
    (if s.regOpen o v then (.fault .rsvUnspecified : Host.Outcome State Fault Refusal) else .next (s.after t)) = .next (s.after u) := by
  rw [if_neg (Bool.eq_false_iff.mp hopen), h]

/-! Row maps (03 R114): both words of a trellis are aligned -/

theorem rowmapLo_aligned (r t : Nat) : rTR_ROWMAP_LO r t % 4 = 0 := by simp only [rTR_ROWMAP_LO, rRoom]; omega
theorem rowmapHi_aligned (r t : Nat) : rTR_ROWMAP_HI r t % 4 = 0 := by simp only [rTR_ROWMAP_HI, rRoom]; omega

theorem effRowmapWrite_writes {r t : Nat} {hi : Bool} (hoff : s.devState ≠ stOFF) (hlen : acc.len = 4) (hr : r < 72) (ht : t < 12)
    (ho : o = if hi then rTR_ROWMAP_HI r t else rTR_ROWMAP_LO r t) : effRowmapWrite acc r t hi v s = s.regWrite o v := by
  have halign : o % 4 = 0 := by
    rw [ho]
    split
    · exact rowmapHi_aligned r t
    · exact rowmapLo_aligned r t
  have hexists : ¬ (r ≥ 72 ∨ t ≥ 12) := by omega
  subst ho
  exact (if_neg hexists).trans (regAccess_word hoff hlen halign _)

/-! Invalidations and MSI-X masks (08 R287; 18 R603) -/

/-- An invalidation ends once no access under an old translation runs. -/
theorem effMmuInvalDone_ends {w : W32} {va k lo : Nat} (hk : k = if 16 ≤ w.toNat % 64 ∧ w.toNat % 64 ≤ 48 then w.toNat % 64 else 48)
    (hlo : lo = va / 2 ^ k * 2 ^ k) (hinval : s.mmu.inval = some (w, va))
    (hdone : s.invalOpen (w.getLsbD 20) (fun c => w.getLsbD 19 || c = w.toNat / 2 ^ 12 % 16) lo (lo + 2 ^ k) = false) :
    effMmuInvalDone s = { s.setRegBit rMMU_INVAL_CTL 31 false with mmu := { s.mmu with inval := none } } := by
  subst hlo hk
  simp only [effMmuInvalDone, hinval]
  exact if_neg (Bool.eq_false_iff.mp hdone)

variable {vec : Nat}

theorem effMsixTableWrite_masks (hoff : s.devState ≠ stOFF) :
    effMsixTableWrite 1 vec true s = { s with host := { s.host with unmask1 := s.host.unmask1.filter (· ≠ vec) } } :=
  if_neg (by simp [hoff])

/-- Unmasking a vector sends its pending message. -/
theorem effMsixTableWrite_unmasks (hoff : s.devState ≠ stOFF) (hpend : vec ∈ s.host.pend1) :
    effMsixTableWrite 1 vec false s = ({ s with host := { s.host with
      unmask1 := vec :: s.host.unmask1.filter (· ≠ vec), pend1 := s.host.pend1.filter (· ≠ vec) } } : State).emit (.msix 1 vec) := by
  rw [effMsixTableWrite, if_neg (by simp [hoff])]
  exact if_pos (List.contains_iff_mem.mpr hpend)

end

/-- Settles O39: each access is of one aligned word, whose effect is specified. -/
theorem registerCommandsAct : Obligations.RegisterCommandsAct := by
  unfold Obligations.RegisterCommandsAct
  intro s acc hoff hlen
  refine ⟨?write, ?read, ?invalidate, ?invalDone, ?rowmapLo, ?rowmapHi, ?mask, ?unmask⟩
  case write => exact fun o v halign hopen => next_of_not_regOpen hopen (regAccess_word hoff hlen halign _)
  case read => exact fun o halign => run_eq (bs := []) rfl (regAccess_word hoff hlen halign _)
  case invalidate => exact fun v hopen => next_of_not_regOpen hopen (regAccess_word hoff hlen (by decide) _)
  case invalDone =>
    intro w va hs hinval k lo hdone
    exact run_eq hs (effMmuInvalDone_ends rfl rfl hinval hdone)
  case rowmapLo => exact fun r t v hr ht hopen => next_of_not_regOpen hopen (effRowmapWrite_writes hoff hlen hr ht rfl)
  case rowmapHi => exact fun r t v hr ht hopen => next_of_not_regOpen hopen (effRowmapWrite_writes hoff hlen hr ht rfl)
  case mask => exact fun vec => run_eq (bs := []) rfl (effMsixTableWrite_masks hoff)
  case unmask => exact fun vec hpend => run_eq (bs := []) rfl (effMsixTableWrite_unmasks hoff hpend)

end Sys2Proof.Machine
end

section
/-! PROOFS. The commands that read records (O30), and the service port and the sideband (O31). -/

namespace Sys2Proof.Machine

/-! The commands that read records, once they go (17 R570, R589; 15 R544; 18 R606) -/

section
variable {s t : State} {q : Req}

theorem effGroupCounters_goes {y : Ctx} (hgo : s.cmdGoes q 0xD 2 true t) (hy : t.ctx (q.arg 0) = some y) (hg : q.arg 1 < 1024) :
    effGroupCounters q s = t.answer q ⟨cOK, 0, (List.range 5).flatMap fun i =>
      leBytes 8 (t.count fmGROUP (q.arg 0 * 1024 + q.arg 1) i)⟩ :=
  cmd_goes hgo ((onCtx_some hy).trans (if_neg (Nat.not_le.mpr hg)))

/-- The signature array that SIG_EXPORT answers from: a new one at offset 0, the one formed then at any other (15 R544). -/
def State.sigArrayAt (t : State) (o : Nat) : List Byte :=
  if o = 0 then cborHead 4 t.tst.sigs.length ++ t.tst.sigs.flatten else t.tst.sigArray

theorem effSigExport_goes (hgo : s.cmdGoes q 0x10 1 true t) :
    effSigExport q s =
      (if q.arg 0 = 0 then t.modTst fun x => { x with sigArray := t.sigArrayAt (q.arg 0) } else t).answer q
        ⟨cOK, if q.arg 0 + 1968 < (t.sigArrayAt (q.arg 0)).length then 1 else 0, ((t.sigArrayAt (q.arg 0)).drop (q.arg 0)).take 1968⟩ := by
  refine cmd_goes hgo ?_
  by_cases h : q.arg 0 = 0
  · simp only [State.sigArrayAt, if_pos h]
    rfl
  · simp only [State.sigArrayAt, if_neg h]
    rfl

theorem effUnknownCommand_refuses (hoff : s.devState ≠ stOFF) (hop : knownOps.contains q.opcode = false) (ht : s.takeReq q = some t) :
    effUnknownCommand q s = t.answer q { status := cINVALID } := by
  rw [effUnknownCommand, if_neg (by simp only [hoff, hop]; decide), ht]

end

/-- Settles O30: each command that goes answers from the state it acts on. -/
theorem recordCommandsAnswer : Obligations.RecordCommandsAnswer := by
  unfold Obligations.RecordCommandsAnswer
  intro s t q y hs
  have hstw : s.specified [bSTW] := specified_sub hs (by simp)
  refine ⟨?counters, ?state, ?life, ?sigs, ?unknown⟩
  case counters => exact fun hgo hy hg => run_eq hs (effGroupCounters_goes hgo hy hg)
  case state => exact fun hgo => run_req hstw hgo rfl
  case life => exact fun hgo => run_req hstw hgo rfl
  case sigs => exact fun hgo => run_eq hstw (effSigExport_goes hgo)
  case unknown => exact fun hoff hop ht => run_eq hstw (effUnknownCommand_refuses hoff hop ht)

/-! The service port (18 R612, R613) -/

section
variable {s : State} {d : NspDatagram} {bs : List Byte}

/-- The answer that is kept for a datagram's source and request number. -/
def State.keptFor (s : State) (d : NspDatagram) : Option (Nat × Nat × Nat × List Byte) :=
  s.host.kept.find? fun x => x.1 = d.src ∧ x.2.1 = fieldLe d.bytes 4 4

/-- The incomplete request of a datagram's source and request number. -/
def State.partFor (s : State) (d : NspDatagram) : Option NspPart :=
  s.host.parts.find? fun x => x.src = d.src ∧ x.reqId = fieldLe d.bytes 4 4

/-- A request of which a datagram is the first part. -/
def NspPart.first (d : NspDatagram) : NspPart :=
  { src := d.src, reqId := fieldLe d.bytes 4 4, opcode := fieldLe d.bytes 8 2, total := fieldLe d.bytes 0x10 4,
    parts := [(fieldLe d.bytes 0xC 4, d.bytes.drop 24)] }

/-- The incomplete requests but that of a datagram. -/
def State.otherParts (s : State) (d : NspDatagram) : List NspPart :=
  s.host.parts.filter fun x => !(x.src = d.src && x.reqId = fieldLe d.bytes 4 4)

variable (hside : s.sideband = true) (hsound : d.sound = true) (hnew : s.nspWaits d = false)
include hside hsound hnew

theorem effNspDatagram_kept {op : Nat} (hkept : s.keptFor d = some (d.src, fieldLe d.bytes 4 4, op, bs)) :
    effNspDatagram d s = s.emit (.nsp d.src (fieldLe d.bytes 4 4) op bs) := by
  unfold State.keptFor at hkept
  rw [effNspDatagram, if_neg (by simp [hside, hsound, hnew]), hkept]

/-- A request that its first part completes waits for its execution. -/
theorem effNspDatagram_whole (hkept : s.keptFor d = none) (hfirst : s.partFor d = none) (hwhole : (NspPart.first d).whole = some bs) :
    effNspDatagram d s = { s with host := { s.host with
      parts := s.otherParts d, ready := s.host.ready ++ [Req.ofBytes (.nsp d.src (fieldLe d.bytes 4 4)) bs 0] } } := by
  unfold State.keptFor at hkept
  unfold State.partFor at hfirst
  unfold NspPart.first at hwhole
  rw [effNspDatagram, if_neg (by simp [hside, hsound, hnew]), hkept]
  simp only [hfirst, Option.getD_none, List.nil_append, hwhole]
  exact if_neg (not_not.mpr rfl)

/-- The first part of a longer request is kept while fewer than eight requests are. -/
theorem effNspDatagram_part (hkept : s.keptFor d = none) (hfirst : s.partFor d = none) (hwhole : (NspPart.first d).whole = none)
    (hroom : s.host.parts.length < 8) :
    effNspDatagram d s = { s with host := { s.host with parts := s.otherParts d ++ [NspPart.first d] } } := by
  unfold State.keptFor at hkept
  unfold State.partFor at hfirst
  unfold NspPart.first at hwhole
  rw [effNspDatagram, if_neg (by simp [hside, hsound, hnew]), hkept]
  simp only [hfirst, Option.getD_none, List.nil_append, hwhole]
  rw [if_neg (not_not.mpr rfl), if_neg (by simp [hroom])]
  rfl

end

/-! ICMPv6 and the I3C sideband (18 R611, R614) -/

section
variable {s : State} (hside : s.sideband = true)
include hside

/-- Echo requests and neighbour solicitations are answered by the type after their own. -/
theorem effIcmp_answers {m : Icmp} (hmine : m.mine = true) (hkind : m.kind = 128 ∨ m.kind = 135) :
    effIcmp m s = s.emit (.icmp m.src (m.kind + 1) m.data) := by
  rw [effIcmp, if_neg (by simp [hside, hmine])]
  rcases hkind with h | h <;> simp [h]

theorem effSetEid_assigned {a e : Nat} (ha : s.host.i3cAddr = some a) :
    effSetEid e s = { s with host := { s.host with eid := some e } } := if_pos (by simp [hside, ha])

/-- A sensor of Table 18.9 answers its reading, the device-state sensor the state or, in VESTIBULE, its cause. -/
theorem effPldm_answers {p : Pldm} {e : Nat} (he : s.host.eid = some e) (hty : p.ty = 2) (hsensor : p.sensor ≤ stateSensor) :
    effPldm p s = s.emit (.pldm 2 p.cmd p.sensor
      (if p.sensor = stateSensor then (if s.devState = stVESTIBULE then s.regBits rSTW_TEST_STATUS 24 4 else s.devState)
        else p.reading)) := by
  rw [effPldm, if_neg (by simp [hside, he]), if_neg (by simp [hty]), if_neg (by simp [hty, hsensor])]
  by_cases h : p.sensor = stateSensor
  · rw [if_pos h, if_pos h]
  · rw [if_neg h, if_neg h]

end

/-- Settles O31: a datagram by what is kept of its request, a sideband message by its kind. -/
theorem sidebandActs : Obligations.SidebandActs := by
  unfold Obligations.SidebandActs
  intro s hs
  refine ⟨?datagram, ?timeout, ?icmp, ?entdaa, ?eid, ?pldm⟩
  case datagram =>
    intro d op bs hside hsound hnew f
    refine ⟨fun hkept => run_eq hs (effNspDatagram_kept hside hsound hnew hkept), ?_⟩
    intro hkept hfirst y rest
    exact ⟨fun hwhole => run_eq hs (effNspDatagram_whole hside hsound hnew hkept hfirst hwhole),
      fun hwhole hroom => run_eq hs (effNspDatagram_part hside hsound hnew hkept hfirst hwhole hroom)⟩
  case timeout => exact fun src id => run_ok hs _
  case icmp => exact fun m hside hmine hkind => run_eq hs (effIcmp_answers hside hmine hkind)
  case entdaa => exact fun a hside => run_eq hs (if_pos hside)
  case eid => exact fun e a hside ha => run_eq hs (effSetEid_assigned hside ha)
  case pldm => exact fun p e hside he hty hsensor => run_eq hs (effPldm_answers hside he hty hsensor)

end Sys2Proof.Machine
end

section
/-! PROOFS. The start of the firmware (O44). -/

namespace Sys2Proof.Machine

section
variable {s : State} (hboot : s.devState = stBOOT)
include hboot

/-! The journaled copy (19 R640 to R642) -/

/-- A committed image is checked again before its copy. -/
theorem effFwCopy_checks (himg : s.sec.imgState = 4) :
    effFwCopy s = if s.imageOk s.sec.img then s.modSec fun y => { y with imgState := 5, journal := 0 }
      else s.dropImg.auditPut 0x101 0 0 cREFUSED s.sec.counter [] := by
  rw [effFwCopy, if_neg (not_not.mpr hboot), if_pos himg]

/-- A step of the copy, while chunks are left. -/
theorem effFwCopy_chunk (himg : s.sec.imgState = 5) (hleft : s.sec.journal < s.sec.img.field 6 2) :
    effFwCopy s = s.modSec fun y => { y with
      active := { y.active with chunks := mapSet y.active.chunks y.journal (mapGet y.img.chunks y.journal) }
      journal := y.journal + 1 } := by
  rw [effFwCopy, if_neg (not_not.mpr hboot), if_neg (by omega), if_neg (not_not.mpr himg), if_pos hleft]

/-- The manifest goes last, and the staged image is dropped. -/
theorem effFwCopy_manifest (himg : s.sec.imgState = 5) (hdone : s.sec.img.field 6 2 ≤ s.sec.journal) :
    effFwCopy s = (s.modSec fun y => { y with
      active := { manifest := y.img.manifest, chunks := y.active.chunks.filter fun c => c.1 < y.img.field 6 2 }
      factory := false }).dropImg := by
  rw [effFwCopy, if_neg (not_not.mpr hboot), if_neg (by omega), if_neg (not_not.mpr himg), if_neg (Nat.not_lt.mpr hdone)]

/-! The hand-over to S0 (19 R625; 15 R517) -/

/-- An image whose signer it names revokes no slot; it is measured, and TEST begins. -/
theorem effBootComplete_measures (h4 : s.sec.imgState ≠ 4) (h5 : s.sec.imgState ≠ 5)
    (hsign : s.signSlot = some (s.sec.active.field 0x15 1 - 1)) :
    effBootComplete s =
      let rv := (if s.sec.revoked.getD 0 false then 1 else 0) + if s.sec.revoked.getD 1 false then 2 else 0
      let t := ((s.extend 0 (sha256 Config.bootRom)).extend 1 (sha256 s.sec.active.manifest)).extend 2
        (sha256 (Config.stewardImage (s.sec.active.chunks.flatMap (·.2))))
      let u := t.extend 3 (Config.securityState t.floor t.sec.fuses rv (t.tst.override ≠ []))
      let v := u.tst.packs.foldl (fun w p => w.extend 4 (sha256 p.2.2)) u
      (v.modTst fun t => { t with stage := 0, fail := none, bad := [], newSigs := 0 }).enter stTEST := by
  have hkeeps : ¬ (s.activeOk = true ∧ 1 ≤ s.sec.active.field 0x15 1 ∧ s.sec.active.field 0x15 1 ≤ 2
      ∧ s.signSlot ≠ some (s.sec.active.field 0x15 1 - 1)) := fun h => h.2.2.2 hsign
  rw [effBootComplete, if_neg (by simp [hboot, h4, h5])]
  simp only [if_neg hkeeps]

end

/-- Settles O44: each step of the copy by its journal, the hand-over by the slot that the image names. -/
theorem bootActs : Obligations.BootActs := by
  unfold Obligations.BootActs
  intro s hs hboot
  have hrom : s.specified [] := rfl
  refine ⟨?check, ?chunk, ?manifest, ?complete⟩
  case check => exact fun himg => run_eq hrom (effFwCopy_checks hboot himg)
  case chunk => exact fun himg hleft => run_eq hrom (effFwCopy_chunk hboot himg hleft)
  case manifest => exact fun himg hdone => run_eq hrom (effFwCopy_manifest hboot himg hdone)
  case complete =>
    intro h4 h5 _ hsign rv t u v
    exact run_eq hs (effBootComplete_measures hboot h4 h5 hsign)

end Sys2Proof.Machine
end

section
/-! PROOFS. Input, rails and resets (O37), draining, power capping, droops and temperatures (O38), and what resets keep (O59). -/

namespace Sys2Proof.Machine

/-! Temperatures (20 Table 20.5) -/

namespace Sensors

variable {m : Sensors}

theorem throttle_iff : throttle m = true ↔ m.room ≥ 100 ∨ m.hbm ≥ 90 ∨ m.plate ≥ 60 := by simp [throttle, or_assoc]
theorem critical_iff : critical m = true ↔ m.room ≥ 105 ∨ m.hbm ≥ 95 ∨ m.plate ≥ 65 := by simp [critical, or_assoc]
theorem trip_iff : trip m = true ↔ m.room ≥ 110 ∨ m.hbm ≥ 100 := by simp [trip]

end Sensors

/-! Input and rails (20 R647, R648, R673, R674) -/

section
variable {s : State}

theorem effInputValid_starts (hoff : s.devState = stOFF) (hrail : s.pwr.rail = 0) (hlock : s.pwr.locked = false) :
    effInputValid s = s.modPwr fun p => { p with rail := 1, under := false } := if_pos ⟨hoff, hrail, by simp [hlock]⟩

theorem effRailGood_next (hoff : s.devState = stOFF) (hon : 0 < s.pwr.rail) (hmore : s.pwr.rail < 4) :
    effRailGood s = s.modPwr fun p => { p with rail := p.rail + 1 } := by
  rw [effRailGood, if_neg (by simp [hoff]; omega), if_pos hmore]

/-- The last rail's power-good begins a cold start. -/
theorem effRailGood_last (hoff : s.devState = stOFF) (hlast : 4 ≤ s.pwr.rail) :
    effRailGood s = s.begin true true (if s.pwr.tripped then lrTRIP else lrPOWER_UP) := by
  rw [effRailGood, if_neg (by simp [hoff]; omega), if_neg (Nat.not_lt.mpr hlast)]

theorem effThermalTrip_stops {m : Sensors} (hoff : s.devState ≠ stOFF) (htrip : m.room ≥ 110 ∨ m.hbm ≥ 100) :
    effThermalTrip m s = (s.railsStop false).modPwr fun p => { p with locked := true, tripped := true } :=
  if_neg (by simp [hoff, Sensors.trip_iff.mpr htrip])

/-! Resets (20 R649, R656, R657) -/

namespace State

theorem coldReset_on (hoff : s.devState ≠ stOFF) (cause : Nat) : s.coldReset cause = s.begin true true cause := if_neg hoff
theorem warmReset_on (hoff : s.devState ≠ stOFF) (cause : Nat) : s.warmReset cause = s.begin (s.regBit rSTW_TEST_CTL 1) false cause :=
  if_neg hoff

end State

theorem effPerstFall_warm (hoff : s.devState ≠ stOFF) (hctl : s.regBit rPWR_CTL 28 = false) :
    effPerstFall s = (s.modPwr fun p => { p with perst := true }).begin (s.regBit rSTW_TEST_CTL 1) false lrPERST_WARM :=
  (if_neg (Bool.eq_false_iff.mp hctl)).trans (State.warmReset_on (s := s.modPwr fun p => { p with perst := true }) hoff _)

theorem effPerstFall_cold (hoff : s.devState ≠ stOFF) (hctl : s.regBit rPWR_CTL 28 = true) :
    effPerstFall s = (s.modPwr fun p => { p with perst := true }).begin true true lrPERST_COLD :=
  (if_pos hctl).trans (State.coldReset_on (s := s.modPwr fun p => { p with perst := true }) hoff _)

end

/-- Settles O37: each event by the state of the conversion and of the device. -/
theorem supplyAndResetsAct : Obligations.SupplyAndResetsAct := by
  unfold Obligations.SupplyAndResetsAct
  intro s hs
  have hpower : s.specified [] := rfl
  refine ⟨?valid, ?railGood, ?lastRail, ?timeout, ?under, ?underClear, ?loss, ?overvolt, ?trip, ?perstWarm, ?perstCold, ?deassert, ?warm, ?cold,
    ?watchdog⟩
  case valid => exact fun hoff hrail hlock => run_eq hpower (effInputValid_starts hoff hrail hlock)
  case railGood => exact fun hoff hon hmore => run_eq hpower (effRailGood_next hoff hon hmore)
  case lastRail => exact fun hoff hlast => run_eq hpower (effRailGood_last hoff hlast)
  case timeout => exact fun hrail => run_eq hpower (if_neg hrail)
  case under => exact fun hon => run_eq hpower (if_neg hon)
  case underClear => exact fun hon => run_eq hpower (if_neg hon)
  case loss => exact run_ok hpower _
  case overvolt => exact run_ok hpower _
  case trip => exact fun m hon htrip => run_eq hpower (effThermalTrip_stops hon htrip)
  case perstWarm => exact fun hon hctl => run_eq hs (effPerstFall_warm hon hctl)
  case perstCold => exact fun hon hctl => run_eq hs (effPerstFall_cold hon hctl)
  case deassert => exact run_ok hs _
  case warm => exact fun hon => run_eq hs (State.warmReset_on hon _)
  case cold => exact fun hon => run_eq hs (State.coldReset_on hon _)
  case watchdog => exact fun hon => run_eq hs (State.warmReset_on hon _)

/-! Draining, capping, droops and temperatures, once they are due (20 R655, R668, R671, R672) -/

section
variable {s : State}

/-- Draining completes once no launch is open, or with the launches still open at its end ended by it. -/
theorem effDrainComplete_due {ok : Bool} (hdrain : s.devState = stDRAINING) (hnot : s.regBit rPWR_STATUS 24 = false)
    (hdue : s.openLaunches = [] ∨ s.pwr.drainT + s.drainNs ≤ s.now) :
    effDrainComplete ok s =
      ((s.openLaunches.foldl (fun t x => t.finishLaunch x.1 x.2 csRESET) s).lifeWrite ok).setRegBit rPWR_STATUS 24 true := by
  refine if_neg ?_
  rintro (h | h | ⟨hopen, hearly⟩)
  · exact h hdrain
  · exact Bool.eq_false_iff.mp hnot h
  · exact hdue.elim hopen (Nat.not_le.mpr hearly)

/-- A draw within the limit ends what an excursion had set. -/
theorem effPowerMeasure_within {w : Nat} {e : List Nat} (hw : w ≤ 3100) :
    effPowerMeasure w e s = (List.range 3).foldl (fun t i => t.bump fmPOWER 0 i (e.getD i 0))
      (((s.setReg rPWR_DRAW (BitVec.ofNat 32 (min 65535 w * 65537))).setRegBit rPWR_STATUS 19 false).modPwr fun p =>
        { p with extra := 0, excess := false }) := by
  have hno : decide (w > 3100) = false := decide_eq_false (Nat.not_lt.mpr hw)
  simp only [effPowerMeasure, hno, Bool.and_false]
  exact if_neg fun h => Nat.not_lt.mpr hw h.2

theorem effExcursionLimit_over (h : 3100 < s.regBits rPWR_DRAW 0 16) :
    effExcursionLimit s = (s.regCount rPWR_STATUS 0 8 1).modPwr fun p => { p with excess := true } := if_neg (Nat.not_le.mpr h)

theorem effDroopHold_holds {r : Nat} (hr : r < 72) (htop : 0 < min 8 (s.regBits (rRM_STRETCH_CTL r) 8 4))
    (hat : min 8 (s.regBits (rRM_STRETCH_CTL r) 8 4) ≤ (s.room r).stretch) :
    effDroopHold r s = (s.regCount rPWR_STATUS 8 8 1).modPwr fun p => { p with wingHold := p.wingHold.set (r / 36) (s.now + 10000) } :=
  if_neg (by omega)

variable {m : Sensors}

theorem effThrottleTick_steps :
    effThrottleTick m s = (s.readSensors m).setRegBits rPWR_STATUS 20 4
      (if m.room ≥ 100 ∨ m.hbm ≥ 90 ∨ m.plate ≥ 60 then min 8 (s.regBits rPWR_STATUS 20 4 + 1)
        else if m.cool10 then s.regBits rPWR_STATUS 20 4 - 1 else s.regBits rPWR_STATUS 20 4) := by
  simp only [effThrottleTick, Sensors.throttle_iff]

theorem effThermalCritical_stops (hcrit : m.room ≥ 105 ∨ m.hbm ≥ 95 ∨ m.plate ≥ 65) :
    effThermalCritical m s = ((s.readSensors m).setRegBits rPWR_STATUS 20 4 8).modPwr fun p => { p with crit := true } :=
  if_neg (by simp [Sensors.critical_iff.mpr hcrit])

end

/-- Settles O38: each event is its effect once it is due. -/
theorem powerManagementActs : Obligations.PowerManagementActs := by
  unfold Obligations.PowerManagementActs
  intro s m hs hoff
  refine ⟨?drain, ?drainClear, ?drained, ?drainedLate, ?measure, ?excursion, ?hold, ?throttle, ?critical, ?lifetime⟩
  case drain =>
    intro _ u
    exact run_powered hs hoff rfl
  case drainClear => exact fun _ => run_powered hs hoff rfl
  case drained =>
    intro ok hdrain hnot hnone
    refine run_eq hs ((effDrainComplete_due hdrain hnot (.inl hnone)).trans ?_)
    rw [hnone]
    rfl
  case drainedLate => exact fun ok hdrain hnot hlate => run_eq hs (effDrainComplete_due hdrain hnot (.inr hlate))
  case measure =>
    intro w e hw u
    exact run_powered hs hoff (effPowerMeasure_within hw)
  case excursion => exact fun h => run_powered hs hoff (effExcursionLimit_over h)
  case hold => exact fun r hr htop hat => run_powered hs hoff (effDroopHold_holds hr htop hat)
  case throttle => exact run_powered hs hoff effThrottleTick_steps
  case critical => exact fun hcrit => run_powered hs hoff (effThermalCritical_stops hcrit)
  case lifetime => exact fun ok xs => run_powered (bs := []) rfl hoff rfl

/-! What cold and warm resets keep and clear -/

namespace State

section
variable {s : State} {o : Nat}

/-! The word of PWR_STATUS that a start leaves (20 R656, R657) -/

/-- Every register but one has its reset value. -/
def OnlyReg (s : State) (o : Nat) : Prop := s.regs = [] ∨ ∃ v, s.regs = [(o, v)]

theorem onlyReg_setReg (h : s.OnlyReg o) (v : W32) : (s.setReg o v).OnlyReg o := by
  by_cases hv : v = regReset o <;> rcases h with h | ⟨w, h⟩ <;> simp [OnlyReg, setReg, h, hv, mapSet]

theorem reg_setReg_of_onlyReg (h : s.OnlyReg o) (v : W32) : (s.setReg o v).reg o = v := by
  by_cases hv : v = regReset o <;> rcases h with h | ⟨w, h⟩ <;> simp [reg, setReg, h, hv, mapSet, mapGet]

theorem reg_setRegBits_of_onlyReg (h : s.OnlyReg o) (lo w v : Nat) : (s.setRegBits o lo w v).reg o
    = BitVec.ofNat 32 ((s.reg o).toNat - (s.reg o).toNat / 2 ^ lo % 2 ^ w * 2 ^ lo + v % 2 ^ w * 2 ^ lo) := reg_setReg_of_onlyReg h _

theorem regBits_congr {t : State} (h : t.regs = s.regs) (o lo w : Nat) : t.regBits o lo w = s.regBits o lo w := by
  simp only [regBits, reg, h]

/-- What a start leaves but for the counts of the lifetime items. -/
def started (s : State) (lost cold : Bool) (cause : Nat) : State :=
  ((s.wipe lost cold).setRegBits rPWR_STATUS 25 3 cause).setRegBit rPWR_STATUS 18 s.pwr.under

/-- A start's PWR_STATUS: BOOT and the cause, whatever the input's undervoltage. -/
theorem started_bits (s : State) (lost cold : Bool) {cause : Nat} (hcause : cause < 8) :
    (s.started lost cold cause).devState = stBOOT ∧ (s.started lost cold cause).regBits rPWR_STATUS 25 3 = cause := by
  unfold started
  have hregs : (s.wipe lost cold).regs = [] := rfl
  generalize s.wipe lost cold = u at hregs ⊢
  have honly : u.OnlyReg rPWR_STATUS := .inl hregs
  have hold : u.reg rPWR_STATUS = 0x10000000#32 := by
    have hword : regReset rPWR_STATUS = 0x10000000#32 := by decide
    simp [reg, hregs, mapGet, hword]
  simp only [devState, regBits, setRegBit, reg_setRegBits_of_onlyReg (s := u.setRegBits rPWR_STATUS 25 3 cause) (onlyReg_setReg honly _),
    reg_setRegBits_of_onlyReg honly, hold, BitVec.toNat_ofNat, stBOOT]
  cases s.pwr.under <;> simp only [Bool.false_eq_true, if_true, if_false] <;> constructor <;> omega

theorem lifeAdd_only (item idx n : Nat) : ∃ work, s.lifeAdd item idx n = { s with life := { s.life with work := work } } := ⟨_, rfl⟩

/-- The counts of a start touch the lifetime items in working memory. -/
theorem lifeAdd_start_only (lastEnd : Nat) : ∃ work,
    (let t := (s.lifeAdd lfState stBOOT 1).lifeAdd lfStarts 0 1
     if lastEnd = 1 then t.lifeAdd lfOrderly 0 1 else if lastEnd = 2 then t.lifeAdd lfAbrupt 0 1 else t)
      = { s with life := { s.life with work := work } } := by
  obtain ⟨w, h⟩ := s.lifeAdd_only lfState stBOOT 1
  obtain ⟨w', h'⟩ := (s.lifeAdd lfState stBOOT 1).lifeAdd_only lfStarts 0 1
  rw [h', h]
  dsimp only
  split
  · exact lifeAdd_only ..
  · split
    · exact lifeAdd_only ..
    · exact ⟨w', rfl⟩

/-- A start wipes the state and sets PWR_STATUS and the lifetime items; the interrupt before it touches the host's side alone. -/
theorem begin_only (s : State) (lost cold : Bool) {cause : Nat} (hcause : cause < 8) : ∃ h out regs work,
    s.begin lost cold cause
        = { { s with host := h, out := out }.wipe lost cold with regs := regs, life := { slots := s.life.slots, work := work } }
      ∧ ∀ t : State, t.regs = regs → t.devState = stBOOT ∧ t.regBits rPWR_STATUS 25 3 = cause := by
  obtain ⟨h, out, hmsix⟩ : ∃ h out, (if s.devState = stBOOT then s else s.msix 1 2) = { s with host := h, out := out } := by
    split
    · exact ⟨s.host, s.out, rfl⟩
    · exact s.msix_only 1 2
  obtain ⟨work, hwork⟩ := ({ s with host := h, out := out }.started lost cold cause).lifeAdd_start_only s.pwr.lastEnd
  refine ⟨h, out, ({ s with host := h, out := out }.started lost cold cause).regs, work, ?_, fun t ht => ?_⟩
  · unfold begin
    rw [hmsix]
    exact hwork
  · obtain ⟨hboot, hcaused⟩ := { s with host := h, out := out }.started_bits lost cold hcause
    exact ⟨(regBits_congr ht ..).trans hboot, (regBits_congr ht ..).trans hcaused⟩

/-! What a start keeps -/

/-- What lasts through every start and what none keeps (20 Table 20.4). -/
structure Kept (s t : State) : Prop where
  boot : t.devState = stBOOT
  pending : t.pending = s.pending
  noContext : ∀ c, c < 16 → t.ctx c = none
  noPacket : t.fab.inbox = []
  noButtery : t.buttery = []
  slots : t.life.slots = s.life.slots
  cmdKey : t.sec.cmdKey = s.sec.cmdKey
  counter : t.sec.counter = s.sec.counter
  fuses : t.sec.fuses = s.sec.fuses
  floors : t.sec.floors = s.sec.floors
  img : t.sec.img = s.sec.img
  active : t.sec.active = s.sec.active
  audit : t.sec.audit = s.sec.audit
  repair : t.tst.repair.map (fun x => { x with first := false }) = s.tst.repair.map (fun x => { x with first := false })
  sigs : t.tst.sigs = s.tst.sigs
  hostMem : t.hostMem = s.hostMem

/-- A repair record marked room by room is the same record but for its marks. -/
theorem repair_marked (l : List RoomRec) (mark : RoomRec → Nat → Bool) :
    (l.zipIdx.map fun (x, r) => { x with first := mark x r }).map (fun x => { x with first := false })
      = l.map fun x => { x with first := false } := by
  conv_rhs => rw [← List.zipIdx_map_fst 0 l, List.map_map]
  exact List.map_map

theorem ctx_eq_none (h : s.ctxs = List.replicate 16 none) (c : Nat) : s.ctx c = none := by
  simp only [ctx, h, List.getD_eq_getElem?_getD, List.getElem?_replicate]
  split <;> rfl

/-- What a start leaves, seen from the state before it. -/
theorem after_begin (s : State) (lost cold : Bool) {cause : Nat} (hcause : cause < 8) :
    let t := s.after (s.begin lost cold cause)
    s.Kept t ∧ t.hbm = (if lost then [] else s.hbm) ∧ t.dbg.unlocked = (s.dbg.unlocked && !cold)
      ∧ t.regBits rPWR_STATUS 25 3 = cause := by
  obtain ⟨h, out, regs, work, hbegin, hstatus⟩ := s.begin_only lost cold hcause
  obtain ⟨hboot, hcaused⟩ := hstatus (s.after (s.begin lost cold cause)) (by rw [hbegin]; rfl)
  rw [hbegin] at hboot hcaused ⊢
  refine ⟨?_, rfl, rfl, hcaused⟩
  constructor
  case boot => exact hboot
  case noContext => exact fun c _ => ctx_eq_none rfl c
  case repair => exact repair_marked _ fun x r => x.first || s.tst.tests.any fun y => y.room = r && y.st = 1
  all_goals rfl

end
end State

/-- Settles O59: each reset is a start, and every start keeps the same stores. -/
theorem resetsKeepWhatTheyMust : Obligations.ResetsKeepWhatTheyMust := by
  unfold Obligations.ResetsKeepWhatTheyMust
  intro s hs hoff kept
  have hkept {t : State} (h : s.Kept t) : kept t := by
    obtain ⟨hboot, hpending, hctx, hinbox, hbuttery, hslots, hkey, hcounter, hfuses, hfloors, himg, hactive, haudit, hrepair, hsigs, hhost⟩ := h
    exact ⟨hboot, hpending, hctx, hinbox, hbuttery, hslots, hkey, hcounter, hfuses, hfloors, himg, hactive, haudit, hrepair, hsigs, hhost⟩
  have hwarm : exec .pwrResetWarm s = .next (s.after (s.begin (s.regBit rSTW_TEST_CTL 1) false lrWARM)) :=
    run_eq hs (State.warmReset_on hoff _)
  refine ⟨?cold, ?warm, ?warmLost⟩
  case cold =>
    obtain ⟨hkeeps, hhbm, hlocked, hcause⟩ := s.after_begin true true (cause := lrCOLD) (by decide)
    exact ⟨_, run_eq hs (State.coldReset_on hoff _), hkept hkeeps, hhbm, hlocked.trans (Bool.and_false _), hcause⟩
  case warm =>
    intro hpost
    obtain ⟨hkeeps, hhbm, hlocked, hcause⟩ := s.after_begin false false (cause := lrWARM) (by decide)
    exact ⟨_, hpost ▸ hwarm, hkept hkeeps, hhbm, hlocked.trans (Bool.and_true _), hcause⟩
  case warmLost =>
    intro hpost
    obtain ⟨hkeeps, hhbm, -, -⟩ := s.after_begin true false (cause := lrWARM) (by decide)
    exact ⟨_, hpost ▸ hwarm, hkept hkeeps, hhbm⟩

end Sys2Proof.Machine
end

section
/-! PROOFS. Firmware transfer, attestation and the critical commands (O34, O35, O58). -/

namespace Sys2Proof.Machine

/-! Firmware transfer (19 R635 to R639) -/

section
variable {s t : State} {q : Req}

namespace State

/-- What the manifest lists does not depend on the parts of chunks still open. -/
theorem chunkWant_parts (f : List FwPart → List FwPart) (kind chunk : Nat) :
    (t.modSec fun x => { x with parts := f x.parts }).chunkWant kind chunk = t.chunkWant kind chunk := rfl

theorem partTotal_of_ne {chunk : Nat} (hchunk : chunk ≠ 0xFFFF) (p : FwPart) :
    t.partTotal 0 chunk p = (t.chunkWant 0 chunk).map (·.1) := if_neg fun h => hchunk h.2

/-- A chunk of the image whose bytes are those that the manifest lists is programmed, and its parts go; the last one makes the image
complete (19 R637). -/
theorem storeChunk_img {chunk n : Nat} {d bs : List Byte} (hchunk : chunk ≠ 0xFFFF) (hwant : t.chunkWant 0 chunk = some (n, d))
    (hlen : bs.length = n) (hdigest : sha256 bs = d) :
    let u := t.modSec fun x => { x with
      parts := x.parts.filter fun p => !(p.kind = 0 && p.chunk = chunk)
      img := { x.img with chunks := mapSet x.img.chunks chunk (some bs) } }
    let whole := (List.range (u.sec.img.field 6 2)).all fun i => (mapGet u.sec.img.chunks i).isSome
    t.storeChunk 0 chunk d bs = (if whole then u.modSec fun x => { x with imgState := 3 } else u, { status := cOK }) := by
  intro u whole
  unfold storeChunk
  dsimp only
  rw [if_neg (not_not.mpr hdigest), if_neg (fun h => hchunk h.2), chunkWant_parts, hwant]
  dsimp only
  rw [if_neg (by simp [hlen]), if_pos rfl]
  rfl

end State

/-- BEGIN on an empty image store opens it (19 R635). -/
theorem run_fwBegin_opens (hs : s.specified []) (hgo : s.cmdGoes q 0x201 3 true t) (hkind : q.arg 0 = 0) (hrepl : q.arg 2 ≤ 1)
    (hbody : q.body.length = 32) (hbytes : 0 < q.arg 1) (hmax : q.arg 1 ≤ 512 * 65536) (hempty : t.sec.imgState = 0) :
    exec (.fwBegin q) s = .next (s.after (((t.dropImg).modSec fun x =>
      { x with imgState := 1, imgId := q.bodyAt 0 32, imgBytes := q.arg 1 }).answer q { status := cOK })) := by
  refine run_req hs hgo ?_
  dsimp only
  rw [if_neg (by omega), if_pos hkind, if_neg (by omega), if_pos hempty]

/-- A part of a chunk of which nothing is kept yet, and which it does not fill, is kept (19 R636). -/
theorem run_fwPart_keeps {n : Nat} {d : List Byte} (hs : s.specified []) (hgo : s.cmdGoes q 0x202 4 true t) (hkind : q.arg 0 = 0)
    (hchunk : q.arg 1 < 0xFFFF) (hoff : q.arg 2 % 1024 = 0) (hdata : 32 < q.body.length) (hlen : q.body.length ≤ 32 + 1024)
    (hopen : t.sec.imgState = 2) (hid : q.arg 3 = fieldLe t.sec.imgId 0 8) (hheld : mapGet t.sec.img.chunks (q.arg 1) = none)
    (hwant : t.chunkWant 0 (q.arg 1) = some (n, d)) (hfits : q.arg 2 + (q.body.length - 32) ≤ n)
    (hfirst : (t.sec.parts.find? fun p => p.kind = 0 && p.chunk = q.arg 1) = none)
    (hpart : State.partBytes { kind := 0, chunk := q.arg 1, digest := q.bodyAt 0 32, parts := mapSet [] (q.arg 2) (some (q.body.drop 32)) } n
      = none) :
    exec (.fwPart q) s = .next (s.after ((t.modSec fun x => { x with
      parts := { kind := 0, chunk := q.arg 1, digest := q.bodyAt 0 32, parts := mapSet [] (q.arg 2) (some (q.body.drop 32)) }
        :: x.parts.filter fun p => !(p.kind = 0 && p.chunk = q.arg 1) }).answer q { status := cOK })) := by
  have hchunk' : q.arg 1 ≠ 0xFFFF := by omega
  refine run_req hs hgo ?_
  dsimp only
  rw [if_neg (by simp only [hkind, List.length_drop]; omega), if_neg (by simp [hkind, hopen, hid])]
  simp only [hkind, if_true, hheld, decide_true, Bool.true_and, hchunk', decide_false, Bool.false_eq_true, false_and, if_false, hopen,
    ne_eq, not_true_eq_false, and_false, hwant, Option.isNone_some, or_self, Option.map_some, Option.getD_some, List.length_drop,
    Nat.not_lt.mpr hfits, hfirst,
    Option.getD_none, mapGet, State.partTotal_of_ne hchunk', State.chunkWant_parts, Option.bind_some, hpart]
  rfl

/-- A fetched chunk of the digest that the manifest lists is programmed (19 R637). -/
theorem run_fwFetch_programs {n : Nat} {d : List Byte} (hs : s.specified []) (hgo : s.cmdGoes q 0x203 4 false t) (hkind : q.arg 0 = 0)
    (hchunk : q.arg 1 < 0xFFFF) (hpf1 : q.isPf1 = true) (hheld : mapGet t.sec.img.chunks (q.arg 1) = none)
    (hwant : t.chunkWant 0 (q.arg 1) = some (n, d)) (hlen : q.arg 3 = n) (hdigest : sha256 (t.hostMem.read (q.arg 2) n) = d) :
    let u := t.modSec fun x => { x with
      parts := x.parts.filter fun p => !(p.kind = 0 && p.chunk = q.arg 1)
      img := { x.img with chunks := mapSet x.img.chunks (q.arg 1) (some (t.hostMem.read (q.arg 2) n)) } }
    let whole := (List.range (u.sec.img.field 6 2)).all fun i => (mapGet u.sec.img.chunks i).isSome
    exec (.fwFetch q) s = .next (s.after
      ((if whole then u.modSec fun x => { x with imgState := 3 } else u).answer q { status := cOK })) := by
  intro u whole
  have hstore := t.storeChunk_img (by omega) hwant (by simp [Mem.read]) hdigest
  refine run_req hs hgo ?_
  dsimp only
  rw [if_neg (by simp [hkind, hpf1])]
  simp only [hkind, if_true, hheld, Option.isSome_none, Bool.false_eq_true, if_false, hwant, hlen, ne_eq, not_true_eq_false]
  exact hstore

/-- STATUS of the repertoire's store (19 R638). -/
theorem run_fwStatus_pack (hs : s.specified []) (hgo : s.cmdGoes q 0x204 1 true t) (hkind : q.arg 0 = 1) :
    exec (.fwStatus q) s = .next (s.after (t.answer q ⟨cOK, 0, leBytes 8 t.sec.packState ++ t.packId
      ++ leBytes 8 t.packCount ++ leBytes 64 ((List.range 512).foldl (fun a i =>
        if (mapGet t.sec.packChunks i).isSome then a else a + 2 ^ i) 0)⟩)) := by
  refine run_req hs hgo ?_
  simp [hkind]

/-- STATUS of the image's store (19 R638). -/
theorem run_fwStatus_img (hs : s.specified []) (hgo : s.cmdGoes q 0x204 1 true t) (hkind : q.arg 0 = 0) :
    exec (.fwStatus q) s = .next (s.after (t.answer q ⟨cOK, 0, leBytes 8 t.sec.imgState
      ++ (t.sec.imgId ++ List.replicate 32 0#8).take 32 ++ leBytes 8 (t.sec.img.field 6 2)
      ++ leBytes 64 ((List.range 512).foldl (fun a i => if (mapGet t.sec.img.chunks i).isSome then a else a + 2 ^ i) 0)⟩)) := by
  refine run_req hs hgo ?_
  simp [hkind]

/-- ABORT of the repertoire's store empties it (19 R636). -/
theorem run_fwAbort_pack (hs : s.specified []) (hgo : s.cmdGoes q 0x205 1 true t) (hkind : q.arg 0 = 1) :
    exec (.fwAbort q) s = .next (s.after (t.dropPack.answer q { status := cOK })) := by
  refine run_req hs hgo ?_
  simp [hkind]

/-- ABORT of an image that is not committed empties its store (19 R636). -/
theorem run_fwAbort_img (hs : s.specified []) (hgo : s.cmdGoes q 0x205 1 true t) (hkind : q.arg 0 = 0) (hcommit : t.sec.imgState ≠ 4)
    (hjournal : t.sec.imgState ≠ 5) : exec (.fwAbort q) s = .next (s.after (t.dropImg.answer q { status := cOK })) := by
  refine run_req hs hgo ?_
  simp [hkind, hcommit, hjournal]

/-! Attestation (19 R645) -/

theorem run_attestQuote_first (hs : s.specified []) (hgo : s.cmdGoes q 0x210 1 true t) (hstart : q.arg 0 = 0)
    (hnonce : q.body.length = 32) :
    let b := quoteBytes t (q.bodyAt 0 32)
    exec (.attestQuote q) s = .next (s.after ((t.modSec fun x => { x with quote := b }).answer q (pieceAns b 0))) := by
  refine run_req hs hgo ?_
  dsimp only
  rw [if_pos hstart, if_neg (not_not.mpr hnonce)]

theorem run_attestKey_piece (hs : s.specified []) (hgo : s.cmdGoes q 0x211 1 true t)
    (hstart : q.arg 0 < (Config.slhPublic t.sec.idSeed ++ t.sec.endorsement).length) :
    exec (.attestKey q) s = .next (s.after (t.answer q (pieceAns (Config.slhPublic t.sec.idSeed ++ t.sec.endorsement) (q.arg 0)))) :=
  run_req hs hgo (if_neg (Nat.not_le.mpr hstart))

end

/-- Settles O34: each command by what it finds in the store. -/
theorem transferCommandsAct : Obligations.TransferCommandsAct := by
  unfold Obligations.TransferCommandsAct
  intro s t q hs
  refine ⟨?fwBegin, ?part, ?fetch, ?packStatus, ?imgStatus, ?packAbort, ?imgAbort, ?quote, ?key⟩
  case fwBegin => exact run_fwBegin_opens hs
  case part => exact fun n d => run_fwPart_keeps hs
  case fetch => exact fun n d => run_fwFetch_programs hs
  case packStatus => exact run_fwStatus_pack hs
  case imgStatus => exact run_fwStatus_img hs
  case packAbort => exact run_fwAbort_pack hs
  case imgAbort => exact run_fwAbort_img hs
  case quote => exact run_attestQuote_first hs
  case key => exact run_attestKey_piece hs

/-! Critical commands (19 R628 to R634) -/

/-- A request that NSP carries did not come through PF1. -/
theorem Req.isPf1_of_isNsp {q : Req} (h : q.isNsp = true) : q.isPf1 = false := by
  cases hpath : q.path <;> simp_all [Req.isNsp, Req.isPf1]

/-- The blocks of a critical command's effect are specified where all of them are. -/
theorem specified_critBlocks {s : State} {q : Req} {op : Nat} {nsp : Bool} {bs cs : List Nat} (hs : s.specified cs)
    (hsub : ∀ b ∈ bs, b ∈ cs) : s.specified (s.critBlocks q op nsp bs) := by
  refine specified_sub hs fun b hb => ?_
  unfold State.critBlocks at hb
  split at hb
  · exact hsub b hb
  · simp at hb

section
variable {s t : State} {q : Req}

theorem run_fwCommit_commits (hs : s.specified []) (hgo : s.critGoes q 0x101 t) (hready : (t.critTaken q).sec.imgState = 3)
    (hid : sha256 (t.critTaken q).sec.img.manifest = State.critArgs q)
    (hfloor : (t.critTaken q).floor ≤ (t.critTaken q).sec.img.field 0xC 4) :
    exec (.fwCommit q) s = .next (s.after ((((t.critTaken q).modSec fun x => { x with imgState := 4 }).critDone q 0x101 { status := cOK }).answer q
      { status := cOK })) :=
  run_crit hs hgo (if_pos ⟨hready, hid, hfloor⟩)

theorem run_floorRaise_raises (hs : s.specified []) (hgo : s.critGoes q 0x102 t) (hlen : (State.critArgs q).length = 4)
    (hfuse : (t.critTaken q).sec.fuses < 64) (hup : (t.critTaken q).floor < fieldLe (State.critArgs q) 0 4)
    (hactive : fieldLe (State.critArgs q) 0 4 ≤ (t.critTaken q).sec.active.field 0xC 4) :
    let v := (t.critTaken q).modSec fun x =>
      { x with floors := x.floors.take x.fuses ++ [fieldLe (State.critArgs q) 0 4], fuses := x.fuses + 1 }
    exec (.floorRaise q) s = .next (s.after
      (((v.extend 3 (Config.m3Event 2 (fieldLe (State.critArgs q) 0 4) v.sec.fuses)).critDone q 0x102 { status := cOK }).answer q
        { status := cOK })) := by
  refine run_crit hs hgo ?_
  dsimp only
  rw [if_neg (Nat.not_le.mpr hfuse), if_neg (by simp only [hlen]; omega)]
  rfl

theorem run_keyRotate_rotates (hs : s.specified []) (hgo : s.critGoes q 0x103 t) (hlen : (State.critArgs q).length = 32) :
    exec (.keyRotate q) s = .next (s.after ((((t.critTaken q).modSec fun x =>
      { x with cmdKey := (hmac x.cmdKey (1#8 :: State.critArgs q)).take 32, keyGen := x.keyGen + 1 }).critDone q 0x103
        { status := cOK }).answer q { status := cOK })) :=
  run_crit hs hgo (if_neg (not_not.mpr hlen))

theorem run_testOverride_sets (hs : s.specified []) (hgo : s.critGoes q 0x104 t) (hlen : (State.critArgs q).length = 1)
    (hmask : fieldLe (State.critArgs q) 0 1 &&& 0x51 = 0) :
    exec (.testOverride q) s = .next (s.after ((((t.critTaken q).modTst fun x =>
      { x with nextOver := [1, 2, 3, 5, 7].filter fun i => (fieldLe (State.critArgs q) 0 1).testBit i }).critDone q 0x104
        { status := cOK }).answer q { status := cOK })) :=
  run_crit hs hgo (if_neg (by simp [hlen, hmask]))

/-- A spare takes the place of a lost partner (14 R500). -/
theorem run_takeover_takes (hs : s.specified [bSTW, bDBG, bFAB]) (hgo : s.critGoes q 0x105 t) (hlen : (State.critArgs q).length = 5)
    (hmay : (t.critTaken q).mayTakeOver (fieldLe (State.critArgs q) 0 4) (fieldLe (State.critArgs q) 4 1) = true) :
    exec (.takeover q) s = .next (s.after ((((t.critTaken q).modFab fun f =>
      { f with num := some (fieldLe (State.critArgs q) 0 4), taken := some (fieldLe (State.critArgs q) 4 1), assigned := true }).critDone q
        0x105 { status := cOK }).answer q { status := cOK })) :=
  run_crit (specified_critBlocks hs (by simp)) hgo (if_neg (by simp [hlen, hmay]))

/-- RAS_OFF changes, and M3 takes the change (14 R498). -/
theorem run_rasDisable_changes (hs : s.specified [bSTW, bDBG, bFAB]) (hgo : s.critGoes q 0x106 t)
    (hlen : (State.critArgs q).length = 1) (hbit : fieldLe (State.critArgs q) 0 1 ≤ 1)
    (hnew : (t.critTaken q).regBits rSTW_RISK_CTL 0 1 ≠ fieldLe (State.critArgs q) 0 1) :
    exec (.rasDisable q) s = .next (s.after
      (((((t.critTaken q).setRegBits rSTW_RISK_CTL 0 1 (fieldLe (State.critArgs q) 0 1)).extend 3
        (Config.m3Event 1 (fieldLe (State.critArgs q) 0 1) 0)).critDone q 0x106 { status := cOK }).answer q { status := cOK })) := by
  refine run_crit (specified_critBlocks hs (by simp)) hgo ?_
  dsimp only
  rw [if_neg (by simp only [hlen]; omega), if_neg hnew]
  rfl

/-- Scan-out over NSP answers the scan's bytes from START_OFFSET (17 R586, R587). -/
theorem run_scanOut_nsp (hs : s.specified [bSTW, bDBG, bFAB]) (hgo : s.critGoes q 0x107 t) (hstop : (t.critTaken q).devState = stSTOPPED)
    (hnsp : q.isNsp = true) (hlen : (State.critArgs q).length = 296) (hranges : fieldLe (State.critArgs q) 24 8 ≤ 16)
    (hmask : fieldLe (State.critArgs q) 0 24 < 2 ^ 137) :
    let args := State.critArgs q
    let a : Ans := { status := cOK, body := (scanBytes (t.critTaken q) (fieldLe args 0 24)
      ((List.range (fieldLe args 24 8)).map fun i => (fieldLe args (32 + 16 * i) 8, fieldLe args (40 + 16 * i) 8))).drop (fieldLe args 288 8) }
    exec (.scanOut q) s = .next (s.after (((t.critTaken q).critDone q 0x107 a).answer q a)) := by
  intro args a
  have hpf1 := Req.isPf1_of_isNsp hnsp
  refine run_crit (specified_critBlocks hs (by simp)) hgo ?_
  dsimp only
  rw [if_neg (by simp only [hstop, hpf1, hnsp, hlen]; simp; omega)]
  simp only [hpf1, Bool.false_eq_true, if_false]
  rfl

theorem run_debugUnlock_unlocks (hs : s.specified [bSTW, bDBG, bFAB]) (hgo : s.critGoes q 0x108 t) (hargs : State.critArgs q = []) :
    exec (.debugUnlock q) s = .next (s.after (((((t.critTaken q).modDbg fun d => { d with unlocked := true }).extend 3
      (Config.m3Event 0 0 0)).critDone q 0x108 { status := cOK }).answer q { status := cOK })) :=
  run_crit (specified_critBlocks hs (by simp)) hgo (if_neg (not_not.mpr hargs))

theorem run_lifeErase_erases (hs : s.specified []) (hgo : s.critGoes q 0x109 t) (hargs : State.critArgs q = []) :
    let u := t.critTaken q
    let keep := u.life.work.filter fun x => x.1 / 2 ^ 16 = lfMinutes || x.1 / 2 ^ 16 = lfStarts || x.1 / 2 ^ 16 = lfErase
    exec (.lifeErase q) s = .next (s.after ((((({ u with life := { u.life with work := keep } }).lifeAdd lfErase 0 1).lifeWrite true).critDone
      q 0x109 { status := cOK }).answer q { status := cOK })) :=
  run_crit hs hgo (if_neg (not_not.mpr hargs))

end

/-- Settles O35: each sound command by what its arguments ask for. -/
theorem criticalCommandsAct : Obligations.CriticalCommandsAct := by
  unfold Obligations.CriticalCommandsAct
  intro s t q hs u args ok
  have hnone : s.specified [] := rfl
  refine ⟨?commit, ?floor, ?rotate, ?test, ?takeover, ?ras, ?scan, ?debug, ?erase⟩
  case commit => exact run_fwCommit_commits hnone
  case floor => exact run_floorRaise_raises hnone
  case rotate => exact run_keyRotate_rotates hnone
  case test => exact run_testOverride_sets hnone
  case takeover => exact run_takeover_takes hs
  case ras => exact run_rasDisable_changes hs
  case scan => exact run_scanOut_nsp hs
  case debug => exact run_debugUnlock_unlocks hs
  case erase => exact run_lifeErase_erases hnone

/-! A critical command whose body is not sound (19 R629, R633) -/

section
variable {s t : State} {q : Req} {op : Nat}

/-- A critical command that is not sound stops at no block (00 R704). -/
theorem critBlocks_unsound (htake : s.takeReq q = some t) (hallowed : s.cmdAllowed q = true) (hunsound : t.critSound q op = false)
    (nsp : Bool) (bs : List Nat) : s.critBlocks q op nsp bs = [] := by
  have haudit : s.auditState q op = s := by simp [State.auditState, hallowed]
  have hreach : s.critReaches q op nsp = false := by simp [State.critReaches, haudit, htake, hunsound]
  rw [State.critBlocks, hreach, if_neg Bool.false_ne_true]

/-- The state in which a critical command that is not sound is answered. -/
def State.critRefused (t : State) (q : Req) (op : Nat) : State :=
  t.auditAuth op q (q.bodyLe 0 8) (if q.bodyLe 0x10 4 ≤ 1936 then State.critArgs q else [])

/-- A critical command that is not sound is audited and answered AUTH (19 R629, R633). -/
theorem run_unsound {bs : List Nat} {f : State → List Byte → State × Ans} (hs : s.specified bs) (hgo : s.cmdGoes q op 0 true t)
    (hallowed : s.cmdAllowed q = true) (hunsound : t.critSound q op = false) :
    run bs s (s.critical q op true f) = .next (s.after ((t.critRefused q op).answer q { status := cAUTH })) := by
  have haudit : s.auditState q op = s := by simp [State.auditState, hallowed]
  refine run_eq hs ?_
  rw [State.critical, haudit]
  exact cmd_goes hgo (if_neg (by simp [hunsound]))

/-- What a refusal for a wrong code may not change. -/
structure SameSecrets (s u : State) : Prop where
  cmdKey : u.sec.cmdKey = s.sec.cmdKey
  keyGen : u.sec.keyGen = s.sec.keyGen
  counter : u.sec.counter = s.sec.counter
  fuses : u.sec.fuses = s.sec.fuses
  floors : u.sec.floors = s.sec.floors
  img : u.sec.img = s.sec.img
  imgState : u.sec.imgState = s.sec.imgState
  active : u.sec.active = s.sec.active
  unlocked : u.dbg.unlocked = s.dbg.unlocked
  nextOver : u.tst.nextOver = s.tst.nextOver
  num : u.fab.num = s.fab.num
  slots : u.life.slots = s.life.slots
  rasOff : u.regBits rSTW_RISK_CTL 0 1 = s.regBits rSTW_RISK_CTL 0 1

/-- Taking the request touches the host's queue, and the refusal the audit ring and SEC_STATUS. -/
theorem sameSecrets_critRefused (htake : s.takeReq q = some t) (op : Nat) : SameSecrets s (t.critRefused q op) := by
  obtain ⟨ready, rfl⟩ := State.takeReq_only htake
  obtain ⟨audit, seq, auths, heq⟩ := State.auditAuth_only (s := { s with host := { s.host with ready := ready } }) op q (q.bodyLe 0 8)
    (if q.bodyLe 0x10 4 ≤ 1936 then State.critArgs q else [])
  rw [State.critRefused, heq]
  constructor
  case rasOff => exact congrArg (fun v : W32 => v.toNat / 2 ^ 0 % 2 ^ 1) (State.reg_regCount_ne _ (by decide))
  all_goals rfl

end

/-- Settles O58: no such command reaches the blocks of its effect, and the refusal touches only the audit ring and a count. -/
theorem unsoundCriticalCommandsChangeNothingSecret : Obligations.UnsoundCriticalCommandsChangeNothingSecret := by
  unfold Obligations.UnsoundCriticalCommandsChangeNothingSecret
  intro s t q c op hmem hgo hallowed hunsound
  have ⟨_, _, htake, _⟩ := hgo
  have hexec : exec (c q) s = .next (s.after ((t.critRefused q op).answer q { status := cAUTH })) := by
    have hblocks (bs : List Nat) : s.specified (s.critBlocks q op true bs) := by
      rw [critBlocks_unsound htake hallowed hunsound]; rfl
    simp only [List.mem_cons, List.not_mem_nil, or_false] at hmem
    rcases hmem with ⟨rfl, rfl⟩ | ⟨rfl, rfl⟩ | ⟨rfl, rfl⟩ | ⟨rfl, rfl⟩ | ⟨rfl, rfl⟩ | ⟨rfl, rfl⟩ | ⟨rfl, rfl⟩ | ⟨rfl, rfl⟩ | ⟨rfl, rfl⟩
    · exact run_unsound (bs := []) rfl hgo hallowed hunsound
    · exact run_unsound (bs := []) rfl hgo hallowed hunsound
    · exact run_unsound (bs := []) rfl hgo hallowed hunsound
    · exact run_unsound (bs := []) rfl hgo hallowed hunsound
    · exact run_unsound (hblocks [bFAB]) hgo hallowed hunsound
    · exact run_unsound (hblocks [bSTW]) hgo hallowed hunsound
    · exact run_unsound (hblocks [bDBG]) hgo hallowed hunsound
    · exact run_unsound (hblocks [bDBG]) hgo hallowed hunsound
    · exact run_unsound (bs := []) rfl hgo hallowed hunsound
  obtain ⟨hkey, hgen, hcounter, hfuses, hfloors, himg, hst, hactive, hunlocked, hover, hnum, hslots, hras⟩ :=
    sameSecrets_critRefused htake op
  exact ⟨_, hexec, hkey, hgen, hcounter, hfuses, hfloors, himg, hst, hactive, hunlocked, hover, hnum, hslots, hras⟩

end Sys2Proof.Machine
end
